-- ==== Sys2Proof/Word.lean ====
section
/-! DEFINITION. The words of the machine: register values with their tags (R49), bytes, and the plainest
arithmetic on them. Fields of formats and everything a test could show wrong stands under Machine/. -/

namespace Sys2Proof

/-- One byte of memory. -/
abbrev Byte := BitVec 8

/-- The 128 bits of a general register (R49). -/
abbrev Q := BitVec 128

/-- A doubleword: what the integer instructions compute on (R51). -/
abbrev D := BitVec 64

/-- A register number, g0 to g31 (R49). -/
abbrev RegIdx := Fin 32

/-- A slot of the core, 0 to 3 (R11). -/
abbrev SlotId := Fin 4

/-- A core's coordinates, DIE in [12:10], CLUSTER in [9:4], CORE in [3:0] (R4, R19). -/
abbrev CoreId := BitVec 13

/-- A general register or a capability-holding control register: 128 bits and a tag (R49, R76). -/
structure Reg where
  bits : Q
  tag  : Bool
  deriving DecidableEq, Repr, Inhabited

/-- The null register: zero bits, tag 0 (R50, R59). -/
def Reg.null : Reg := ⟨0#128, false⟩

/-- A register holding data: tag 0 (R52). -/
def Reg.data (b : Q) : Reg := ⟨b, false⟩

end Sys2Proof
end

