-- ==== Sys2Proof/Config.lean ====
section
/-! DEFINITION. What the spec leaves open and the model keeps free: constants without a body, so that no proof can
see a value of one. Those indexed by a number are applied to `State.fresh`, which counts the values taken. -/

namespace Sys2Proof.Config

/-- Which of the free ready-ring places a queued entry takes (R215: not specified). DESIGN CHOICE (log entry 16). -/
opaque ringPlace : Nat → Nat

/-- Which of the free receive places a message takes (R215). DESIGN CHOICE (log entry 16). -/
opaque receivePlace : Nat → Nat

/-- Which free frame number a save takes (R291 fixes none). DESIGN CHOICE (log entry 16). -/
opaque frameNumber : Nat → Nat

/-- What the destination of a migration answers (R295): 2, 3 or 4 refuses; anything else accepts. DESIGN CHOICE (log
entry 24). -/
opaque migrationAnswer : Nat → Nat

/-- The free slot of the destination that a migration takes (R295). DESIGN CHOICE (log entry 24). -/
opaque migrationSlot : Nat → Fin 4

/-- Whether an access uses a translation that a TLB still holds (R301). DESIGN CHOICE (log entry 31). -/
opaque usesTlb : Nat → Bool

/-- Whether the host grants a page that the fault service asks for (R313). DEDUCED (log entry 10). -/
opaque hostGrants : Nat → Bool

/-- The frame that the host then names, and the permissions that the system image's own mapping grants (R313).
DEDUCED (log entry 10). -/
opaque grantedFrame : Nat → Nat
opaque grantedPerms : Nat → Nat

/-- The page of HBM that the system image takes for a page table (R313). DEDUCED (log entry 10). -/
opaque tableFrame : Nat → Nat

/-- Whether the host completes a request with an error (R354). DESIGN CHOICE (log entry 18). -/
opaque hostFails : Nat → Bool

/-- How the completer answers an AtomicOp (R356): 0 success, 1 UR, 2 CA, 3 another error. DESIGN CHOICE (log entry
18). -/
opaque atomicStatus : Nat → Fin 4

/-- What a special function gives within its bound on error (R204): it depends on the function and the input bits
alone (R205). DESIGN CHOICE (log entry 20). -/
opaque special : Fin 6 → BitVec 32 → BitVec 32

/-- The Unique Device Secret (R371). PRESUMED (log entry 21). -/
opaque deviceSecret : BitVec 256

/-- SHA3-256 (R369, R371). PRESUMED (log entry 21). -/
opaque sha3 : List Byte → BitVec 256

/-- The public key that ML-DSA-44 key generation makes from a seed (R371). PRESUMED (log entry 21). -/
opaque publicKey : BitVec 256 → BitVec 256

/-- The signature over a digest under the key of a seed (R371, R372, R376). PRESUMED (log entry 21). -/
opaque signature : BitVec 256 → BitVec 256 → BitVec 256

/-- The certificates made at manufacture: Strelcia's root and the DeviceID certificate (Table 26.2). PRESUMED (log entry
21). -/
opaque rootCertificate : List Byte
opaque deviceCertificate : List Byte

/-- The peers with which the Stile has agreed the keys of the next generation (R381). DEDUCED (log entry 35). -/
opaque keysAgreed : Nat → BitVec 64

/-- The identifier from which the Stile looks for a free one for a new enclave (R376). DEDUCED (log entry 35). -/
opaque enclaveKey : Nat → Nat

/-- The number of a new SPDM session (R372). PRESUMED (log entry 21). -/
opaque sessionNumber : Nat → BitVec 32

/-- The nonce of a handover (R383). DEDUCED (log entry 35). -/
opaque nonce : Nat → Nat

/-- Whether the core that a remote-window message reaches takes it: its key and its kernel are its own (R228). DESIGN
CHOICE (log entry 9). -/
opaque windowTaken : Nat → Bool

/-- Whether the host has changed a line that it caches, and a byte that it then returns with it (R352). DESIGN CHOICE
(log entry 40). -/
opaque hostDirty : Nat → Bool
opaque hostLine : Nat → Nat → Byte

/-- The line that a slice of L2 evicts for another (R400 fixes no policy). DESIGN CHOICE (log entry 59). -/
opaque l2Victim : Nat → Nat

/-- Whether an activation sector is read as it stood when its operation began (R185). DESIGN CHOICE (log entry 43). -/
opaque sectorEarly : Nat → Bool

/-- Whether an engine reports a command done before what its last unit writes is performed (R171, Table 11.7). DESIGN
CHOICE (log entry 72). -/
opaque writesLate : Nat → Bool

/-- Whether a physical row of a slice works (R274). DESIGN CHOICE (log entry 4). -/
opaque rowWorks : Nat → Nat → Bool

/-- What the headland registers of another die count (Table 28.2), and what CSTATE of another core shows (Table 18.3). DESIGN
CHOICE (log entry 41). -/
opaque otherLeave : Nat → BitVec 64
opaque otherState : Nat → BitVec 64

/-- Where the boot firmware, the Stile's handlers, the handlers of the system image and its first instruction stand
(R388). DESIGN CHOICE (log entry 42). -/
opaque bootCode : Q
opaque stileVector : Q
opaque imageVector : Q
opaque imageCode : Q

/-- What a load returns for the bits that a register of system space marks write-only (Tables 18.3, 24.1, 26.4 state
no value). DESIGN CHOICE (log entry 32). -/
opaque writeOnly : Nat → BitVec 64

end Sys2Proof.Config
end

