-- ==== Sys2Proof/Syntax.lean ====
section
/-! DEFINITION. The syntax of the machine: every row of the opcode table is one constructor of `Instr`.
The rows with an encoding are the instructions of Tables 5.4 and 5.6; the rows without one are the steps that other
parts of the device and the parties round it take (95_what_each_step_holds.md); what such a step
needs to be named is a `Detail`. -/

namespace Sys2Proof

/-- The saturation modifier of Table 7.2: 0, `.sat`, `.satn`. -/
inductive SatMode where | wrap | signed | unsigned
  deriving DecidableEq, Repr, Inhabited

/-- The width of `sext` and `zext` (Table 5.7, layout A). -/
inductive ExtWidth where | b | h | w
  deriving DecidableEq, Repr, Inhabited

/-- An access width of Table 0.4, as layout M encodes it. -/
inductive MemWidth where | b | h | w | d | q
  deriving DecidableEq, Repr, Inhabited

/-- The scopes of Table 0.3, as layout M encodes them. -/
inductive Scope where | core | clu | die | dev | sys
  deriving DecidableEq, Repr, Inhabited

/-- The kinds of `fence` (R138): acquire and release, acquire, release. -/
inductive FenceKind where | both | acq | rel
  deriving DecidableEq, Repr, Inhabited

/-- The kinds of `vfence` (Table 18.1). -/
inductive VfKind where | page | tenant | all
  deriving DecidableEq, Repr, Inhabited

/-- The scopes of `vfence` (Table 18.1). -/
inductive VfScope where | core | clu | die | dev
  deriving DecidableEq, Repr, Inhabited

/-- The element types, in the order of their codes 0 to 13 (Table 5.8). -/
inductive ElemType where
  | i8 | i16 | i32 | i64 | n8 | n16 | n32 | n64 | f32 | bf16 | e4m3 | e5m2 | mxf4 | dm8
  deriving DecidableEq, Repr, Inhabited

/-- The engine FIFOs that name a unit (Table 1.6). -/
inductive Fifo where | e0 | e1 | e2 | e3 | e7
  deriving DecidableEq, Repr, Inhabited

/-- A message (Table 14.6): its header fields and its payload bytes, PAY0 first. -/
structure Msg where
  kind    : Fin 8
  flits   : Fin 16
  cls     : BitVec 8
  pkey    : BitVec 32
  tenant  : BitVec 12
  src     : CoreId
  dst     : CoreId
  spec    : BitVec 12
  payload : List Byte
  deriving DecidableEq, Repr, Inhabited

/-- What another member of a collective brings to it (R162): its core and its source bytes. -/
structure PeerData where
  core : CoreId
  data : List Byte
  deriving DecidableEq, Repr, Inhabited

/-- The settings that the boot firmware may write in step 3 of Table 28.1 and that step 5 checks (Table 28.6): none
where it wrote none. `spills` holds the base and the length of the spill area of each die that has one, `maps` the
row map of each slice of this core's row that has one: the physical row of each logical row (R274). -/
structure Settings where
  servers : Option (List CoreId)
  silo    : Option Nat
  hvtop   : Option Nat
  spills  : List (Fin 8 × Nat × Nat)
  pcap    : Option Nat
  maps    : List (Fin 8 × List Nat)
  deriving DecidableEq, Repr, Inhabited

/-- What an event needs to be named beyond its row of the opcode table: the slot, port, message, register value or
request that it is about. It stands in `State.event` while the event is performed. -/
inductive Detail where
  /-- nothing more -/
  | plain
  /-- an event of a slot -/
  | slot (s : SlotId)
  /-- an event of a stream port -/
  | port (p : Fin 8)
  /-- an arriving message -/
  | msg (m : Msg)
  /-- a barrier of the gang -/
  | barrier (n : Fin 4)
  /-- a cache line by the location of its first byte -/
  | line (loc : Nat)
  /-- a collective of a slot, with what the other members bring -/
  | collective (s : SlotId) (peers : List PeerData)
  /-- a result of an engine FIFO of a slot -/
  | fifo (s : SlotId) (f : Fifo)
  /-- a sequence of the windrow -/
  | sequence (s : Fin 256)
  /-- a slice of the harrow -/
  | slice (p : Fin 8)
  /-- an operation slot of the harrow -/
  | operation (ops : Fin 4)
  /-- an accumulator row of an operation -/
  | row (ops : Fin 4) (row : Fin 64)
  /-- a compute die -/
  | die (d : Fin 8)
  /-- what the root of trust passes at the release: whether the flow meets R397, and its three measurements -/
  | release (flowOk : Bool) (firmware stile image : BitVec 256)
  /-- a digest -/
  | digest (value : BitVec 256)
  /-- the settings of the boot firmware -/
  | settings (s : Settings)
  /-- a store to a register of system space by another core or by firmware -/
  | register (addr : BitVec 68) (value : BitVec 64)
  /-- a page of device memory -/
  | page (ppn : BitVec 44)
  /-- a host write to IN_PUSH -/
  | push (func : Fin 8) (mbox : Fin 64) (size : Nat) (entry : List Byte)
  /-- a mailbox register of a host function -/
  | mailbox (func : Fin 8) (mbox : Fin 64) (value : BitVec 64)
  /-- a host read of device memory -/
  | hostRead (addr size : Nat)
  /-- a host write of device memory -/
  | hostWrite (addr : Nat) (data : List Byte)
  /-- a packet of the fabric from a peer: its generation, sequence number, whether its tag verifies, and whether it
  answers the oldest request that the peer still owes an answer -/
  | packet (peer : Fin 64) (gen : BitVec 16) (seqNo : Nat) (tagOk answers : Bool)
  /-- a peer of the enclosure -/
  | peer (peer : Fin 64)
  /-- an enclave to create -/
  | enclave (tenant : BitVec 12) (measurement : BitVec 256)
  /-- a key identifier -/
  | key (keyId : BitVec 10)
  /-- the windows of the next owner of the cluster -/
  | windows (w : List Q)
  /-- a frame, and the peer that it moves to -/
  | transfer (frame : Nat) (peer : Fin 64)
  /-- a frame, the nonce of an answer, and whether its signature verifies -/
  | signed (frame nonce : Nat) (sigOk : Bool)
  /-- a nonce of an SPDM request -/
  | nonce (n : BitVec 256)
  /-- a request for power leave of a class by a slot of another core of the die, or, with none, the return of its leave -/
  | leave (core : CoreId) (slot : SlotId) (cls : Option Nat)
  /-- a context that another core's `migr` brings to this core -/
  | migration
  /-- an SPDM session -/
  | session (id : BitVec 32)
  /-- an SPDM request code -/
  | request (code : BitVec 8)
  /-- a host write to a register of BAR 0 -/
  | bar (func : Fin 8) (offset size : Nat) (value : BitVec 64)
  /-- a host read of `size` bytes of BAR 0 -/
  | barRead (func : Fin 8) (offset size : Nat)
  /-- a host access that snoops a line, and the bytes that the host writes there with it -/
  | snoop (loc : Nat) (data : List Byte)
  deriving DecidableEq, Repr, Inhabited

/-- A message whose kind is `k` and whose payload has the length that its LEN gives (R223). -/
def Msg.wf (m : Msg) (k : Nat) : Bool := m.kind.val == k && m.payload.length == 16 + 32 * m.flits.val

/-- The instructions and steps of the opcode table, one constructor a row: first those with operands, then those
without. The rows without an encoding are events; what they are about is a `Detail` in the state. -/
inductive Instr where
  /-- ADD, R95. -/
  | add (d : RegIdx) (a : RegIdx) (b : RegIdx) (m : SatMode)
  /-- SUB, R95. -/
  | sub (d : RegIdx) (a : RegIdx) (b : RegIdx) (m : SatMode)
  /-- NEG, R95. -/
  | neg (d : RegIdx) (a : RegIdx) (m : SatMode)
  /-- MUL, R95. -/
  | mul (d : RegIdx) (a : RegIdx) (b : RegIdx) (m : SatMode)
  /-- MULH, R95. -/
  | mulh (d : RegIdx) (a : RegIdx) (b : RegIdx)
  /-- MULHN, R95. -/
  | mulhn (d : RegIdx) (a : RegIdx) (b : RegIdx)
  /-- DIV, R96. -/
  | div (d : RegIdx) (a : RegIdx) (b : RegIdx)
  /-- DIVN, R96. -/
  | divn (d : RegIdx) (a : RegIdx) (b : RegIdx)
  /-- REM, R96. -/
  | rem (d : RegIdx) (a : RegIdx) (b : RegIdx)
  /-- REMN, R96. -/
  | remn (d : RegIdx) (a : RegIdx) (b : RegIdx)
  /-- MIN, R95. -/
  | min (d : RegIdx) (a : RegIdx) (b : RegIdx)
  /-- MAX, R95. -/
  | max (d : RegIdx) (a : RegIdx) (b : RegIdx)
  /-- MINN, R95. -/
  | minn (d : RegIdx) (a : RegIdx) (b : RegIdx)
  /-- MAXN, R95. -/
  | maxn (d : RegIdx) (a : RegIdx) (b : RegIdx)
  /-- ABS, R95. -/
  | abs (d : RegIdx) (a : RegIdx) (m : SatMode)
  /-- AND, R97. -/
  | and (d : RegIdx) (a : RegIdx) (b : RegIdx)
  /-- OR, R97. -/
  | or (d : RegIdx) (a : RegIdx) (b : RegIdx)
  /-- XOR, R97. -/
  | xor (d : RegIdx) (a : RegIdx) (b : RegIdx)
  /-- NOT, R97. -/
  | not (d : RegIdx) (a : RegIdx)
  /-- SHL, R97. -/
  | shl (d : RegIdx) (a : RegIdx) (b : RegIdx)
  /-- SHR, R97. -/
  | shr (d : RegIdx) (a : RegIdx) (b : RegIdx)
  /-- SAR, R97. -/
  | sar (d : RegIdx) (a : RegIdx) (b : RegIdx)
  /-- ROTL, R97. -/
  | rotl (d : RegIdx) (a : RegIdx) (b : RegIdx)
  /-- CLZ, R97. -/
  | clz (d : RegIdx) (a : RegIdx)
  /-- CTZ, R97. -/
  | ctz (d : RegIdx) (a : RegIdx)
  /-- POPC, R97. -/
  | popc (d : RegIdx) (a : RegIdx)
  /-- BREV, R97. -/
  | brev (d : RegIdx) (a : RegIdx)
  /-- BEXT, R98. -/
  | bext (d : RegIdx) (a : RegIdx) (b : RegIdx)
  /-- BINS, R98. -/
  | bins (d : RegIdx) (a : RegIdx) (b : RegIdx)
  /-- BSET, R97. -/
  | bset (d : RegIdx) (a : RegIdx) (b : RegIdx)
  /-- BCLR, R97. -/
  | bclr (d : RegIdx) (a : RegIdx) (b : RegIdx)
  /-- BFLIP, R97. -/
  | bflip (d : RegIdx) (a : RegIdx) (b : RegIdx)
  /-- SEXT, R97. -/
  | sext (d : RegIdx) (a : RegIdx) (sz : ExtWidth)
  /-- ZEXT, R97. -/
  | zext (d : RegIdx) (a : RegIdx) (sz : ExtWidth)
  /-- MOV, R99. -/
  | mov (d : RegIdx) (a : RegIdx)
  /-- CMP, R101. -/
  | cmp (d : RegIdx) (a : RegIdx) (b : RegIdx)
  /-- PAND, R102. -/
  | pand (d : RegIdx) (a : RegIdx) (b : RegIdx)
  /-- POR, R102. -/
  | por (d : RegIdx) (a : RegIdx) (b : RegIdx)
  /-- PXOR, R102. -/
  | pxor (d : RegIdx) (a : RegIdx) (b : RegIdx)
  /-- ADDI, R100. -/
  | addi (d : RegIdx) (a : RegIdx) (imm : BitVec 15)
  /-- ANDI, R100. -/
  | andi (d : RegIdx) (a : RegIdx) (imm : BitVec 15)
  /-- ORI, R100. -/
  | ori (d : RegIdx) (a : RegIdx) (imm : BitVec 15)
  /-- XORI, R100. -/
  | xori (d : RegIdx) (a : RegIdx) (imm : BitVec 15)
  /-- SHLI, R100. -/
  | shli (d : RegIdx) (a : RegIdx) (imm : BitVec 15)
  /-- SHRI, R100. -/
  | shri (d : RegIdx) (a : RegIdx) (imm : BitVec 15)
  /-- SARI, R100. -/
  | sari (d : RegIdx) (a : RegIdx) (imm : BitVec 15)
  /-- CMPI, R100. -/
  | cmpi (d : RegIdx) (a : RegIdx) (imm : BitVec 15)
  /-- MOVI, R100. -/
  | movi (d : RegIdx) (imm : BitVec 20)
  /-- MOVHI, R100. -/
  | movhi (d : RegIdx) (imm : BitVec 20)
  /-- BT, R105. -/
  | bt (r : RegIdx) (off : BitVec 12) (n : Fin 128)
  /-- BF, R105. -/
  | bf (r : RegIdx) (off : BitVec 12) (n : Fin 128)
  /-- JMP, R106. -/
  | jmp (off : BitVec 25)
  /-- JAL, R106. -/
  | jal (off : BitVec 25)
  /-- JR, R107. -/
  | jr (a : RegIdx)
  /-- JALR, R108. -/
  | jalr (d : RegIdx) (a : RegIdx)
  /-- DRILL, R113. -/
  | drill (k : BitVec 15) (s : BitVec 4) (n : BitVec 4)
  /-- CGETADDR, R117. -/
  | cgetaddr (d : RegIdx) (a : RegIdx)
  /-- CGETBASE, R117. -/
  | cgetbase (d : RegIdx) (a : RegIdx)
  /-- CGETLEN, R117. -/
  | cgetlen (d : RegIdx) (a : RegIdx)
  /-- CGETPERM, R117. -/
  | cgetperm (d : RegIdx) (a : RegIdx)
  /-- CGETTYPE, R117. -/
  | cgettype (d : RegIdx) (a : RegIdx)
  /-- CGETTAG, R117. -/
  | cgettag (d : RegIdx) (a : RegIdx)
  /-- CSETADDR, R118. -/
  | csetaddr (d : RegIdx) (a : RegIdx) (b : RegIdx)
  /-- CINCADDR, R118. -/
  | cincaddr (d : RegIdx) (a : RegIdx) (b : RegIdx)
  /-- CSETBOUNDS, R119. -/
  | csetbounds (d : RegIdx) (a : RegIdx) (b : RegIdx)
  /-- CSETBOUNDSX, R119. -/
  | csetboundsx (d : RegIdx) (a : RegIdx) (b : RegIdx)
  /-- CANDPERM, R118. -/
  | candperm (d : RegIdx) (a : RegIdx) (b : RegIdx)
  /-- CSEAL, R120. -/
  | cseal (d : RegIdx) (a : RegIdx) (b : RegIdx)
  /-- CUNSEAL, R120. -/
  | cunseal (d : RegIdx) (a : RegIdx) (b : RegIdx)
  /-- CCLRTAG, R117. -/
  | cclrtag (d : RegIdx) (a : RegIdx)
  /-- CTESTSUB, R121. -/
  | ctestsub (d : RegIdx) (a : RegIdx) (b : RegIdx)
  /-- CBUILD, R121. -/
  | cbuild (d : RegIdx) (a : RegIdx) (b : RegIdx)
  /-- CINCADDRI, R118. -/
  | cincaddri (d : RegIdx) (a : RegIdx) (imm : BitVec 15)
  /-- LD_B, R128. -/
  | ldB (d : RegIdx) (a : RegIdx) (imm : BitVec 15)
  /-- LD_H, R128. -/
  | ldH (d : RegIdx) (a : RegIdx) (imm : BitVec 15)
  /-- LD_W, R128. -/
  | ldW (d : RegIdx) (a : RegIdx) (imm : BitVec 15)
  /-- LD_D, R128. -/
  | ldD (d : RegIdx) (a : RegIdx) (imm : BitVec 15)
  /-- LD_Q, R128. -/
  | ldQ (d : RegIdx) (a : RegIdx) (imm : BitVec 15)
  /-- LDZ_B, R128. -/
  | ldzB (d : RegIdx) (a : RegIdx) (imm : BitVec 15)
  /-- LDZ_H, R128. -/
  | ldzH (d : RegIdx) (a : RegIdx) (imm : BitVec 15)
  /-- LDZ_W, R128. -/
  | ldzW (d : RegIdx) (a : RegIdx) (imm : BitVec 15)
  /-- LD_C, R129. -/
  | ldC (d : RegIdx) (a : RegIdx) (imm : BitVec 15)
  /-- ST_B, R128. -/
  | stB (a : RegIdx) (b : RegIdx) (off : BitVec 15)
  /-- ST_H, R128. -/
  | stH (a : RegIdx) (b : RegIdx) (off : BitVec 15)
  /-- ST_W, R128. -/
  | stW (a : RegIdx) (b : RegIdx) (off : BitVec 15)
  /-- ST_D, R128. -/
  | stD (a : RegIdx) (b : RegIdx) (off : BitVec 15)
  /-- ST_Q, R128. -/
  | stQ (a : RegIdx) (b : RegIdx) (off : BitVec 15)
  /-- ST_C, R129. -/
  | stC (a : RegIdx) (b : RegIdx) (off : BitVec 15)
  /-- LDA, R133. -/
  | lda (d : RegIdx) (a : RegIdx) (sz : MemWidth) (s : Scope)
  /-- STRL, R133. -/
  | strl (a : RegIdx) (b : RegIdx) (sz : MemWidth) (s : Scope)
  /-- AMOADD, R134. -/
  | amoadd (d : RegIdx) (a : RegIdx) (b : RegIdx) (sz : MemWidth) (s : Scope)
  /-- AMOSWAP, R134. -/
  | amoswap (d : RegIdx) (a : RegIdx) (b : RegIdx) (sz : MemWidth) (s : Scope)
  /-- AMOCAS, R134. -/
  | amocas (d : RegIdx) (a : RegIdx) (b : RegIdx) (sz : MemWidth) (s : Scope)
  /-- AMOCASQ, R134. -/
  | amocasq (d : RegIdx) (a : RegIdx) (b : RegIdx) (s : Scope)
  /-- AMOMIN, R134. -/
  | amomin (d : RegIdx) (a : RegIdx) (b : RegIdx) (sz : MemWidth) (s : Scope)
  /-- AMOMAX, R134. -/
  | amomax (d : RegIdx) (a : RegIdx) (b : RegIdx) (sz : MemWidth) (s : Scope)
  /-- AMOMINN, R134. -/
  | amominn (d : RegIdx) (a : RegIdx) (b : RegIdx) (sz : MemWidth) (s : Scope)
  /-- AMOMAXN, R134. -/
  | amomaxn (d : RegIdx) (a : RegIdx) (b : RegIdx) (sz : MemWidth) (s : Scope)
  /-- AMOAND, R134. -/
  | amoand (d : RegIdx) (a : RegIdx) (b : RegIdx) (sz : MemWidth) (s : Scope)
  /-- AMOOR, R134. -/
  | amoor (d : RegIdx) (a : RegIdx) (b : RegIdx) (sz : MemWidth) (s : Scope)
  /-- AMOXOR, R134. -/
  | amoxor (d : RegIdx) (a : RegIdx) (b : RegIdx) (sz : MemWidth) (s : Scope)
  /-- FENCE, R138. -/
  | fence (k : FenceKind) (s : Scope)
  /-- FSC, R138. -/
  | fsc (s : Scope)
  /-- CINV, R141. -/
  | cinv (a : RegIdx) (b : RegIdx)
  /-- CWB, R141. -/
  | cwb (a : RegIdx) (b : RegIdx)
  /-- PF_L1, R142. -/
  | pfL1 (a : RegIdx)
  /-- PF_L2, R142. -/
  | pfL2 (a : RegIdx)
  /-- SBIND, R145. -/
  | sbind (d : RegIdx) (a : RegIdx) (p : Bool) (tm : Fin 16)
  /-- SBINDCH, R150. -/
  | sbindch (d : RegIdx) (a : RegIdx) (p : Bool) (h : Fin 16)
  /-- SFREE, R151. -/
  | sfree (a : RegIdx)
  /-- SSTAT, R153. -/
  | sstat (d : RegIdx) (a : RegIdx)
  /-- SSTAT_CH, R153. -/
  | sstatCh (d : RegIdx) (h : Fin 16)
  /-- SSKIP, R152. -/
  | sskip (a : RegIdx) (n : Fin 64)
  /-- CBINIT, R155. -/
  | cbinit (d : RegIdx) (a : RegIdx) (h : Fin 16)
  /-- CBWAIT, R156. -/
  | cbwait (d : RegIdx) (a : RegIdx) (h : Fin 16)
  /-- CBFREE, R156. -/
  | cbfree (d : RegIdx) (a : RegIdx) (h : Fin 16)
  /-- CBADV, R156. -/
  | cbadv (a : RegIdx) (h : Fin 16)
  /-- CBCOMM, R156. -/
  | cbcomm (a : RegIdx) (h : Fin 16)
  /-- EPUSH, R158. -/
  | epush (a : RegIdx) (f : Fifo)
  /-- EPOP, R157. -/
  | epop (d : RegIdx) (f : Fifo)
  /-- EPEEK, R157. -/
  | epeek (d : RegIdx) (f : Fifo)
  /-- ESTAT, R157. -/
  | estat (d : RegIdx) (f : Fifo)
  /-- FADD, R193. -/
  | fadd (d : RegIdx) (a : RegIdx) (b : RegIdx) (t : ElemType)
  /-- FSUB, R193. -/
  | fsub (d : RegIdx) (a : RegIdx) (b : RegIdx) (t : ElemType)
  /-- FMUL, R193. -/
  | fmul (d : RegIdx) (a : RegIdx) (b : RegIdx) (t : ElemType)
  /-- FMA, R193. -/
  | fma (d : RegIdx) (a : RegIdx) (b : RegIdx) (t : ElemType)
  /-- FMS, R193. -/
  | fms (d : RegIdx) (a : RegIdx) (b : RegIdx) (t : ElemType)
  /-- FNMA, R193. -/
  | fnma (d : RegIdx) (a : RegIdx) (b : RegIdx) (t : ElemType)
  /-- FMIN, R194. -/
  | fmin (d : RegIdx) (a : RegIdx) (b : RegIdx) (t : ElemType)
  /-- FMAX, R194. -/
  | fmax (d : RegIdx) (a : RegIdx) (b : RegIdx) (t : ElemType)
  /-- FABS, R194. -/
  | fabs (d : RegIdx) (a : RegIdx) (t : ElemType)
  /-- FNEG, R194. -/
  | fneg (d : RegIdx) (a : RegIdx) (t : ElemType)
  /-- FDIV, R193. -/
  | fdiv (d : RegIdx) (a : RegIdx) (b : RegIdx) (t : ElemType)
  /-- FSQRT, R193. -/
  | fsqrt (d : RegIdx) (a : RegIdx) (t : ElemType)
  /-- FCMP, R195. -/
  | fcmp (d : RegIdx) (a : RegIdx) (b : RegIdx) (t : ElemType)
  /-- FCLASS, R196. -/
  | fclass (d : RegIdx) (a : RegIdx) (t : ElemType)
  /-- FCVT, R197. -/
  | fcvt (d : RegIdx) (a : RegIdx) (t : ElemType) (s : ElemType)
  /-- FCVTI, R197. -/
  | fcvti (d : RegIdx) (a : RegIdx) (t : ElemType) (z : Bool) (s : ElemType)
  /-- ICVTF, R197. -/
  | icvtf (d : RegIdx) (a : RegIdx) (t : ElemType) (s : ElemType)
  /-- VADD, R199. -/
  | vadd (d : RegIdx) (a : RegIdx) (b : RegIdx) (t : ElemType)
  /-- VSUB, R199. -/
  | vsub (d : RegIdx) (a : RegIdx) (b : RegIdx) (t : ElemType)
  /-- VMUL, R199. -/
  | vmul (d : RegIdx) (a : RegIdx) (b : RegIdx) (t : ElemType)
  /-- VFMA, R199. -/
  | vfma (d : RegIdx) (a : RegIdx) (b : RegIdx) (t : ElemType)
  /-- VMIN, R199. -/
  | vmin (d : RegIdx) (a : RegIdx) (b : RegIdx) (t : ElemType)
  /-- VMAX, R199. -/
  | vmax (d : RegIdx) (a : RegIdx) (b : RegIdx) (t : ElemType)
  /-- VSCALE, R199. -/
  | vscale (d : RegIdx) (a : RegIdx) (b : RegIdx) (t : ElemType)
  /-- VDOT, R200. -/
  | vdot (d : RegIdx) (a : RegIdx) (b : RegIdx) (t : ElemType)
  /-- VSUM, R201. -/
  | vsum (d : RegIdx) (a : RegIdx) (t : ElemType)
  /-- VRMAX, R201. -/
  | vrmax (d : RegIdx) (a : RegIdx) (t : ElemType)
  /-- VCVT, R202. -/
  | vcvt (d : RegIdx) (a : RegIdx) (t : ElemType) (s : ElemType)
  /-- VPACK, R202. -/
  | vpack (d : RegIdx) (a : RegIdx) (b : RegIdx) (t : ElemType)
  /-- VUNPACK, R202. -/
  | vunpack (d : RegIdx) (a : RegIdx) (t : ElemType) (h : Bool) (s : ElemType)
  /-- VSEL, R203. -/
  | vsel (d : RegIdx) (a : RegIdx) (b : RegIdx) (t : ElemType)
  /-- VCMP, R203. -/
  | vcmp (d : RegIdx) (a : RegIdx) (b : RegIdx) (t : ElemType)
  /-- VSHUF, R203. -/
  | vshuf (d : RegIdx) (a : RegIdx) (b : RegIdx) (t : ElemType)
  /-- VBCAST, R203. -/
  | vbcast (d : RegIdx) (a : RegIdx) (t : ElemType)
  /-- VEXP2, R204. -/
  | vexp2 (d : RegIdx) (a : RegIdx) (t : ElemType)
  /-- VLOG2, R204. -/
  | vlog2 (d : RegIdx) (a : RegIdx) (t : ElemType)
  /-- VRCP, R204. -/
  | vrcp (d : RegIdx) (a : RegIdx) (t : ElemType)
  /-- VRSQRT, R204. -/
  | vrsqrt (d : RegIdx) (a : RegIdx) (t : ElemType)
  /-- VTANH, R204. -/
  | vtanh (d : RegIdx) (a : RegIdx) (t : ElemType)
  /-- VSIN, R204. -/
  | vsin (d : RegIdx) (a : RegIdx) (t : ElemType)
  /-- VTOPK, R206. -/
  | vtopk (d : RegIdx) (a : RegIdx) (b : RegIdx)
  /-- VAMAX, R207. -/
  | vamax (d : RegIdx) (a : RegIdx) (t : ElemType)
  /-- VQUANT, R208. -/
  | vquant (d : RegIdx) (a : RegIdx) (b : RegIdx) (t : ElemType)
  /-- VDEQ, R209. -/
  | vdeq (d : RegIdx) (a : RegIdx) (b : RegIdx) (t : ElemType)
  /-- SEND, R237. -/
  | send (r : RegIdx) (a : RegIdx) (b : RegIdx)
  /-- SENDV, R237. -/
  | sendv (r : RegIdx) (a : RegIdx) (b : RegIdx)
  /-- SPAWN, R238. -/
  | spawn (d : RegIdx) (a : RegIdx) (b : RegIdx)
  /-- TDEC, R239. -/
  | tdec (a : RegIdx) (b : RegIdx)
  /-- TARM, R240. -/
  | tarm (a : RegIdx) (b : RegIdx)
  /-- TARM_SP, R240. -/
  | tarmSp (a : RegIdx)
  /-- TSELF, R241. -/
  | tself (d : RegIdx)
  /-- STAGE, R242. -/
  | stageTask (d : RegIdx) (a : RegIdx) (b : RegIdx)
  /-- SUCC, R244. -/
  | succ (a : RegIdx) (b : RegIdx)
  /-- BAR, R232. -/
  | bar (n : Fin 4)
  /-- HPACK, R243. -/
  | hpack (d : RegIdx) (a : RegIdx) (n : Fin 8)
  /-- HPARSE, R243. -/
  | hparse (d : RegIdx) (a : RegIdx) (n : Fin 8)
  /-- HLOAD, R256. -/
  | hload (a : RegIdx) (tm : Fin 16)
  /-- HGO, R259. -/
  | hgo (d : RegIdx) (a : RegIdx) (imm : Bool) (tm : Fin 16)
  /-- HZERO, R263. -/
  | hzero (a : RegIdx)
  /-- HDRAIN, R264. -/
  | hdrain (d : RegIdx) (a : RegIdx) (f : Bool)
  /-- HWAIT, R262. -/
  | hwait (a : RegIdx) (done : Bool)
  /-- HSTAT, R268. -/
  | hstat (d : RegIdx)
  /-- HACC_RD, R267. -/
  | haccRd (d : RegIdx) (a : RegIdx)
  /-- HACC_WR, R267. -/
  | haccWr (d : RegIdx) (a : RegIdx)
  /-- HSET_CLR, R269. -/
  | hsetClr (a : RegIdx)
  /-- SYS, R283. -/
  | sys (a : RegIdx) (b : RegIdx)
  /-- IDLE, R285. -/
  | idle (a : RegIdx)
  /-- VFENCE, R302. -/
  | vfence (a : RegIdx) (s : VfScope) (k : VfKind)
  /-- CTXLOAD, R294. -/
  | ctxload (a : RegIdx)
  /-- MIGR, R295. -/
  | migr (d : RegIdx) (a : RegIdx)
  /-- PWREQ, R287. -/
  | pwreq (a : RegIdx)
  /-- CRR, R288. -/
  | crr (d : RegIdx) (c : BitVec 12)
  /-- CRW, R288. -/
  | crw (d : RegIdx) (a : RegIdx) (c : BitVec 12)
  /-- CRS, R288. -/
  | crs (d : RegIdx) (a : RegIdx) (c : BitVec 12)
  /-- CRC, R288. -/
  | crc (d : RegIdx) (a : RegIdx) (c : BitVec 12)
  /-- WOPEN, R326. -/
  | wopen (d : RegIdx) (a : RegIdx) (b : RegIdx)
  /-- WCLOSE, R326. -/
  | wclose (a : RegIdx)
  /-- WCALL, R327. -/
  | wcall (d : RegIdx) (a : RegIdx) (b : RegIdx)
  /-- WTOK, R328. -/
  | wtok (s : RegIdx) (a : RegIdx) (b : RegIdx)
  /-- WREQ, R329. -/
  | wreq (s : RegIdx) (a : RegIdx) (b : RegIdx) (e : Bool)
  /-- WCHECK, R331. -/
  | wcheck (d : RegIdx) (a : RegIdx) (b : RegIdx) (k : Fin 4)
  /-- WRETIRE, R333. -/
  | wretire (d : RegIdx) (a : RegIdx)
  /-- WREWIND, R332. -/
  | wrewind (a : RegIdx) (b : RegIdx) (k : Fin 4)
  /-- WSTAT, R335. -/
  | wstat (d : RegIdx) (a : RegIdx)
  /-- WSTAT_SMP, R335. -/
  | wstatSmp (d : RegIdx) (a : RegIdx)
  /-- WSTAT_P, R335. -/
  | wstatP (d : RegIdx) (a : RegIdx) (m : Fin 4)
  /-- MOV_16, R67. -/
  | mov16 (d : RegIdx) (b : RegIdx)
  /-- ADD_16, R67. -/
  | add16 (d : RegIdx) (b : RegIdx)
  /-- SUB_16, R67. -/
  | sub16 (d : RegIdx) (b : RegIdx)
  /-- AND_16, R67. -/
  | and16 (d : RegIdx) (b : RegIdx)
  /-- OR_16, R67. -/
  | or16 (d : RegIdx) (b : RegIdx)
  /-- XOR_16, R67. -/
  | xor16 (d : RegIdx) (b : RegIdx)
  /-- SHL_16, R67. -/
  | shl16 (d : RegIdx) (b : RegIdx)
  /-- SHR_16, R67. -/
  | shr16 (d : RegIdx) (b : RegIdx)
  /-- ADDI_16, R67. -/
  | addi16 (d : RegIdx) (imm : BitVec 6)
  /-- MOVI_16, R67. -/
  | movi16 (d : RegIdx) (imm : BitVec 6)
  /-- LD_D_16, R67. -/
  | ldD16 (d : RegIdx) (imm : BitVec 6)
  /-- ST_D_16, R67. -/
  | stD16 (d : RegIdx) (imm : BitVec 6)
  /-- JMP_16, R67. -/
  | jmp16 (off : BitVec 11)
  /-- JR_16, R67. -/
  | jr16 (a : RegIdx)
  /-- JALR_16, R67. -/
  | jalr16 (a : RegIdx)
  /-- WHEN, R64. -/
  | whenSet (r : RegIdx) (n : Fin 128)
  /-- UNLESS, R64. -/
  | unlessSet (r : RegIdx) (n : Fin 128)
  /-- ILLEGAL_INSTRUCTION, R72. -/
  | illegalInstruction (word : BitVec 32) (short : Bool)
  /-- RET, R108. -/
  | ret
  /-- YIELD, R109. -/
  | yield
  /-- NOP, R109. -/
  | nop
  /-- SHEAF, R140. -/
  | sheaf
  /-- CINV_ALL, R141. -/
  | cinvAll
  /-- CWB_ALL, R141. -/
  | cwbAll
  /-- TEND, R241. -/
  | tend
  /-- WDOG, R233. -/
  | wdog
  /-- HLAY, R243. -/
  | hlay
  /-- HSWAP, R257. -/
  | hswap
  /-- HSET_DISCARD, R269. -/
  | hsetDiscard
  /-- BRK, R283. -/
  | brk
  /-- XRET, R284. -/
  | xret
  /-- HALT, R286. -/
  | halt
  /-- CTXSAVE, R293. -/
  | ctxsave
  /-- PWREL, R287. -/
  | pwrel
  /-- NOP_16, R67. -/
  | nop16
  /-- YIELD_16, R67. -/
  | yield16
  /-- RET_16, R67. -/
  | ret16
  /-- ASYNC_CAUSE_DELIVERY, R281. -/
  | asyncCauseDelivery
  /-- WATCHDOG_EXPIRY, R233. -/
  | watchdogExpiry
  /-- IDLE_END, R285. -/
  | idleEnd
  /-- DISPATCH, R221. -/
  | dispatch
  /-- FIRING_START, R219. -/
  | firingStart
  /-- YOKE_MOVE, R231. -/
  | yokeMove
  /-- MESSAGE_ROUTER_CHECK, R225. -/
  | messageRouterCheck
  /-- MESSAGE_TASK, R228. -/
  | messageTask
  /-- MESSAGE_SPAWN, R238. -/
  | messageSpawn
  /-- MESSAGE_SPAWN_ANSWER, R238. -/
  | messageSpawnAnswer
  /-- MESSAGE_TDEC, R239. -/
  | messageTdec
  /-- MESSAGE_CREDIT, R156. -/
  | messageCredit
  /-- MESSAGE_REMOTE_WINDOW, R18. -/
  | messageRemoteWindow
  /-- MESSAGE_LAUNCH, R213. -/
  | messageLaunch
  /-- MESSAGE_UNUSED_KIND, R228. -/
  | messageUnusedKind
  /-- MESSAGE_HOLD_RELEASE, R228. -/
  | messageHoldRelease
  /-- SCRUB_COMPLETE, R214. -/
  | scrubComplete
  /-- SUCCESSOR_HANDOFF, R235. -/
  | successorHandoff
  /-- BARRIER_PHASE_COMPLETE, R232. -/
  | barrierPhaseComplete
  /-- SHEAF_COMMIT, R176. -/
  | sheafCommit
  /-- SOLO_GRANT, R178. -/
  | soloGrant
  /-- LINE_EVICTION, R400. -/
  | lineEviction
  /-- STREAM_ELEMENT_FETCH, R147. -/
  | streamElementFetch
  /-- STREAM_ELEMENT_DRAIN, R148. -/
  | streamElementDrain
  /-- COPY, R160. -/
  | copy
  /-- FILL, R160. -/
  | fill
  /-- XCOPY, R160. -/
  | xcopy
  /-- GATHER, R160. -/
  | gather
  /-- SCATTER, R160. -/
  | scatter
  /-- QOPEN, R320. -/
  | quernOpen
  /-- ENCODE, R316. -/
  | quernEncode
  /-- STEP, R319. -/
  | quernStep
  /-- MASK, R318. -/
  | quernMask
  /-- QUERN_RESERVED_COMMAND, R320. -/
  | quernReservedCommand
  /-- ALLREDUCE, R162. -/
  | allreduce
  /-- ALLGATHER, R162. -/
  | allgather
  /-- REDUCESCATTER, R162. -/
  | reducescatter
  /-- BROADCAST, R162. -/
  | broadcast
  /-- BARRIER, R162. -/
  | collBarrier
  /-- MAILBOX_SEND, R362. -/
  | mailboxSend
  /-- RECV, R362. -/
  | mailboxRecv
  /-- ENGINE_RESULT_RETURN, R159. -/
  | engineResultReturn
  /-- WINDROW_REQUEST_SEND, R330. -/
  | windrowRequestSend
  /-- HLOAD_COMPLETE, R256. -/
  | hloadComplete
  /-- HARROW_OPERATION_BEGIN, R261. -/
  | harrowOperationBegin
  /-- OPERANDS_CONSUMED, R261. -/
  | operandsConsumed
  /-- ACCUMULATOR_ROW_FINAL, R261. -/
  | accumulatorRowFinal
  /-- OPERATION_DONE, R261. -/
  | operationDone
  /-- DRAIN_ROW_WRITE, R266. -/
  | drainRowWrite
  /-- DRAIN_WAKEUP, R276. -/
  | drainWakeup
  /-- HEADLAND_GRANT, R394. -/
  | headlandGrant
  /-- THERMAL_THROTTLE, R396. -/
  | thermalThrottle
  /-- THERMAL_RECOVER, R396. -/
  | thermalRecover
  /-- THERMAL_TRIP, R396. -/
  | thermalTrip
  /-- MODULE_RESET, R388. -/
  | moduleReset
  /-- ROT_RELEASE, R369. -/
  | rotRelease
  /-- MEASUREMENT_REGISTER_4_WRITE, R370. -/
  | measurementRegister4Write
  /-- STILE_START, R389. -/
  | stileStart
  /-- SVC_WRITE, R390. -/
  | svcWrite
  /-- PCAP_WRITE, R392. -/
  | pcapWrite
  /-- HALTEND, R286. -/
  | haltend
  /-- RELEASE, R297. -/
  | releaseHeld
  /-- PREEMPT_WRITE, R296. -/
  | preemptWrite
  /-- RESUME_WRITE, R296. -/
  | resumeWrite
  /-- FQHEAD_WRITE, R402. -/
  | fqheadWrite
  /-- SQHEAD_WRITE, R402. -/
  | sqheadWrite
  /-- KRHEAD_WRITE, R345. -/
  | krheadWrite
  /-- SUBMESH_WRITE, R226. -/
  | submeshWrite
  /-- KV_DESCRIPTOR_WRITE, R339. -/
  | kvDescriptorWrite
  /-- TBIND_WRITE, R353. -/
  | tbindWrite
  /-- OWNREQ_TO_HOST, R365. -/
  | ownreqToHost
  /-- OWNREQ_TO_DEVICE, R365. -/
  | ownreqToDevice
  /-- OWNERSHIP_FLIP_COMPLETE, R365. -/
  | ownershipFlipComplete
  /-- REKEY, R381. -/
  | rekey
  /-- DISSOLVE, R381. -/
  | dissolve
  /-- SYSTEM_REGISTER_WRITE, R298. -/
  | systemRegisterWrite
  /-- IN_PUSH, R360. -/
  | inPush
  /-- IN_STAT_READ, R359. -/
  | inStatRead
  /-- OUT_ACK, R361. -/
  | outAck
  /-- EXTFENCE_READ, R366. -/
  | extfenceRead
  /-- HOST_MEM_READ, R351. -/
  | hostMemRead
  /-- HOST_MEM_WRITE, R351. -/
  | hostMemWrite
  /-- HOST_SNOOP, R355. -/
  | hostSnoop
  /-- FABRIC_PACKET_RECEIVE, R379. -/
  | fabricPacketReceive
  /-- MARK_RECEIVE, R381. -/
  | markReceive
  /-- REKEY_SWITCH, R381. -/
  | rekeySwitch
  /-- REMOVE_RECEIVE, R386. -/
  | removeReceive
  /-- ENCLAVE_CREATE, R376. -/
  | enclaveCreate
  /-- ENCLAVE_END, R376. -/
  | enclaveEnd
  /-- CLUSTER_SWITCH, R377. -/
  | clusterSwitch
  /-- HANDOVER_SEAL, R383. -/
  | handoverSeal
  /-- HANDOVER_SENT, R383. -/
  | handoverSent
  /-- HANDOVER_CONFIRM, R383. -/
  | handoverConfirm
  /-- HANDOVER_FAIL, R383. -/
  | handoverFail
  /-- HANDOVER_AUTHORISE, R387. -/
  | handoverAuthorise
  /-- HANDOVER_REFUSE, R383. -/
  | handoverRefuse
  /-- GET_VERSION, R372. -/
  | spdmGetVersion
  /-- GET_CAPABILITIES, R372. -/
  | spdmGetCapabilities
  /-- NEGOTIATE_ALGORITHMS, R372. -/
  | spdmNegotiateAlgorithms
  /-- GET_DIGESTS, R372. -/
  | spdmGetDigests
  /-- GET_CERTIFICATE, R372. -/
  | spdmGetCertificate
  /-- CHALLENGE, R372. -/
  | spdmChallenge
  /-- GET_MEASUREMENTS, R372. -/
  | spdmGetMeasurements
  /-- KEY_EXCHANGE, R372. -/
  | spdmKeyExchange
  /-- FINISH, R372. -/
  | spdmFinish
  /-- KEY_UPDATE, R372. -/
  | spdmKeyUpdate
  /-- HEARTBEAT, R372. -/
  | spdmHeartbeat
  /-- END_SESSION, R372. -/
  | spdmEndSession
  /-- SPDM_UNSUPPORTED_REQUEST, R372. -/
  | spdmUnsupportedRequest
  /-- HARROW_END_CYCLE, R261. -/
  | harrowEndCycle
  /-- UNCORRECTABLE_MEMORY_ERROR, R309. -/
  | uncorrectableMemoryError
  /-- HOST_LINK_DOWN, R354. -/
  | hostLinkDown
  /-- HOST_LINK_UP, R354. -/
  | hostLinkUp
  /-- HDM_DECODER_WRITE, R351. -/
  | hdmDecoderWrite
  /-- HOST_BAR_REGISTER_WRITE, R359. -/
  | hostBarRegisterWrite
  deriving DecidableEq, Repr, Inhabited

end Sys2Proof
end

