-- ==== Sys2Proof/WellFormed.lean ====
section
/-! DEFINITION. Which terms of `Instr` are instructions: the modifiers, widths, scopes, types and ranges that each
instruction accepts (R72 and the instructions' own descriptions). The events of the table have no operands, and an
encoding that is no instruction is a term of its own: both are accepted here. -/

namespace Sys2Proof

/-- `f32` and `bf16`, the types of scalar floating point and of most floating vectors. -/
def ElemType.isFp : ElemType → Bool
  | .f32 | .bf16 => true
  | _ => false

/-- The integer types, codes 0 to 7 (R198). -/
def ElemType.isInt : ElemType → Bool
  | .i8 | .i16 | .i32 | .i64 | .n8 | .n16 | .n32 | .n64 => true
  | _ => false

/-- The floating types between which conversions run (Tables 12.7 and 12.9). -/
def ElemType.isFloat : ElemType → Bool
  | .f32 | .bf16 | .e4m3 | .e5m2 | .dm8 => true
  | _ => false

/-- The types of `vadd` (Table 12.8). -/
def ElemType.isLane (t : ElemType) : Bool := t.isFp || t.isInt

/-- The lane widths of `vsel`, `vshuf` and `vbcast` (Table 12.8). -/
def ElemType.isPlain : ElemType → Bool
  | .i8 | .i16 | .i32 | .i64 => true
  | _ => false

/-- The formats of block quantisation (R208, R209). -/
def ElemType.isBlock : ElemType → Bool
  | .mxf4 | .dm8 => true
  | _ => false

/-- The source that `vpack` has for each destination (Table 12.9). -/
def ElemType.packSource : ElemType → Option ElemType
  | .i8 => some .i16
  | .i16 => some .i32
  | .i32 => some .i64
  | .n8 => some .n16
  | .n16 => some .n32
  | .n32 => some .n64
  | .bf16 => some .f32
  | .e4m3 | .e5m2 | .dm8 => some .bf16
  | _ => none

/-- The pairs of `vcvt` (Table 12.9). -/
def cvtPair (d s : ElemType) : Bool :=
  (d.isFloat && s.isFloat && d != s) || (d.isInt && s.isFloat) || (d.isFloat && s.isInt)

/-- The control-register numbers that Table 5.10 assigns. -/
def isControlRegister (c : BitVec 12) : Bool :=
  let n := c.toNat
  n ≤ 0x00C || (0x100 ≤ n && n ≤ 0x10B) || (0x200 ≤ n && n ≤ 0x205) || (0x210 ≤ n && n ≤ 0x21F)

/-- A register field that names a stream port, g24 to g31 (R144). -/
def isPort (r : RegIdx) : Bool := 24 ≤ r.val

/-- The widths of the atomics other than `amocasq` (R70). -/
def amoWidth : MemWidth → Bool
  | .w | .d => true
  | _ => false

/-- The scopes of the atomics and of `fsc`: `.clu` to `.sys` (Tables 9.3, 9.5). -/
def wideScope : Scope → Bool
  | .core => false
  | _ => true

/-- The operands are ones that Tables 5.4 to 5.8 and the instruction's own description accept. DEDUCED (log entry 27). -/
def Instr.wf : Instr → Bool
  | .neg _ _ m | .abs _ _ m => m != .unsigned
  | .shli _ _ imm | .shri _ _ imm | .sari _ _ imm => imm.toNat < 64
  | .drill k _ _ => k != 0 && decide (k.toNat < 16384)
  | .amoadd _ _ _ w s | .amoswap _ _ _ w s | .amocas _ _ _ w s | .amomin _ _ _ w s | .amomax _ _ _ w s
  | .amominn _ _ _ w s | .amomaxn _ _ _ w s | .amoand _ _ _ w s | .amoor _ _ _ w s | .amoxor _ _ _ w s =>
    amoWidth w && wideScope s
  | .amocasq _ _ _ s | .fsc s => wideScope s
  | .sbind d _ _ _ | .sbindch d _ _ _ => isPort d
  | .sfree a | .sstat _ a | .sskip a _ => isPort a
  | .fadd _ _ _ t | .fsub _ _ _ t | .fmul _ _ _ t | .fma _ _ _ t | .fms _ _ _ t | .fnma _ _ _ t
  | .fmin _ _ _ t | .fmax _ _ _ t | .fabs _ _ t | .fneg _ _ t | .fdiv _ _ _ t | .fsqrt _ _ t
  | .fcmp _ _ _ t | .fclass _ _ t => t.isFp
  | .fcvt _ _ t s => t.isFloat && s.isFloat && t != s
  | .fcvti _ _ t _ s => t.isInt && s.isFloat
  | .icvtf _ _ t s => t.isFloat && s.isInt
  | .vadd _ _ _ t | .vsub _ _ _ t | .vmul _ _ _ t | .vfma _ _ _ t | .vmin _ _ _ t | .vmax _ _ _ t
  | .vcmp _ _ _ t => t.isLane
  | .vscale _ _ _ t => t.isFp
  | .vdot _ _ _ t => t.isFloat || t == .i8
  | .vsum _ _ t => t.isFp || t == .i8 || t == .i16 || t == .i32
  | .vrmax _ _ t => t.isFp || t == .i32 || t == .n32
  | .vcvt _ _ t s => cvtPair t s
  | .vpack _ _ _ t => t.packSource.isSome
  | .vunpack _ _ t _ s => s.packSource == some t
  | .vsel _ _ _ t | .vshuf _ _ _ t | .vbcast _ _ t => t.isPlain
  | .vexp2 _ _ t | .vlog2 _ _ t | .vrcp _ _ t | .vrsqrt _ _ t | .vtanh _ _ t | .vsin _ _ t | .vamax _ _ t => t.isFp
  | .vquant _ _ _ t | .vdeq _ _ _ t => t.isBlock
  | .crr _ c | .crw _ _ c | .crs _ _ c | .crc _ _ c => isControlRegister c
  | .mov16 d _ | .add16 d _ | .sub16 d _ | .and16 d _ | .or16 d _ | .xor16 d _ | .shl16 d _ | .shr16 d _
  | .addi16 d _ | .movi16 d _ => d != 0
  | _ => true

end Sys2Proof
end

