-- ==== Sys2Proof/Decode.lean ====
section
/-! DEFINITION. Decoding: from the bits of a unit to a constructor of `Instr`, and the encoder. Every encoding that is
not an instruction decodes to `illegalInstruction`, which carries its bits (R68, R72, R73). -/

namespace Sys2Proof

/-- Bits [lo+n-1:lo] of a word. -/
def fld (w lo n : Nat) : Nat := w / 2 ^ lo % 2 ^ n

/-- The register field whose low bit is `lo` (R69). -/
def reg (w lo : Nat) : RegIdx := ⟨fld w lo 5, Nat.mod_lt _ (by decide)⟩

/-- The code of a saturation modifier (Table 7.2). -/
def SatMode.code : SatMode → Nat
  | .wrap => 0
  | .signed => 1
  | .unsigned => 2

def SatMode.ofCode : Nat → Option SatMode
  | 0 => some .wrap
  | 1 => some .signed
  | 2 => some .unsigned
  | _ => none

/-- The code of a width of `sext` and `zext` (Table 5.7). -/
def ExtWidth.code : ExtWidth → Nat
  | .b => 0
  | .h => 1
  | .w => 2

def ExtWidth.ofCode : Nat → Option ExtWidth
  | 0 => some .b
  | 1 => some .h
  | 2 => some .w
  | _ => none

/-- The code of an access width (Table 5.7, layout M). -/
def MemWidth.code : MemWidth → Nat
  | .b => 0
  | .h => 1
  | .w => 2
  | .d => 3
  | .q => 4

def MemWidth.ofCode : Nat → Option MemWidth
  | 0 => some .b
  | 1 => some .h
  | 2 => some .w
  | 3 => some .d
  | 4 => some .q
  | _ => none

/-- The code of a scope (Table 5.7, layout M). -/
def Scope.code : Scope → Nat
  | .core => 0
  | .clu => 1
  | .die => 2
  | .dev => 3
  | .sys => 4

def Scope.ofCode : Nat → Option Scope
  | 0 => some .core
  | 1 => some .clu
  | 2 => some .die
  | 3 => some .dev
  | 4 => some .sys
  | _ => none

/-- The code of a kind of `fence` (Table 9.5). -/
def FenceKind.code : FenceKind → Nat
  | .both => 0
  | .acq => 1
  | .rel => 2

def FenceKind.ofCode : Nat → Option FenceKind
  | 0 => some .both
  | 1 => some .acq
  | 2 => some .rel
  | _ => none

/-- The code of a kind of `vfence` (R282). -/
def VfKind.code : VfKind → Nat
  | .page => 0
  | .tenant => 1
  | .all => 2

def VfKind.ofCode : Nat → Option VfKind
  | 0 => some .page
  | 1 => some .tenant
  | 2 => some .all
  | _ => none

/-- The code of a scope of `vfence` (R282). -/
def VfScope.code : VfScope → Nat
  | .core => 0
  | .clu => 1
  | .die => 2
  | .dev => 3

def VfScope.ofCode : Nat → Option VfScope
  | 0 => some .core
  | 1 => some .clu
  | 2 => some .die
  | 3 => some .dev
  | _ => none

/-- The code of an element type (Table 5.8). -/
def ElemType.code : ElemType → Nat
  | .i8 => 0
  | .i16 => 1
  | .i32 => 2
  | .i64 => 3
  | .n8 => 4
  | .n16 => 5
  | .n32 => 6
  | .n64 => 7
  | .f32 => 8
  | .bf16 => 9
  | .e4m3 => 10
  | .e5m2 => 11
  | .mxf4 => 12
  | .dm8 => 13

def ElemType.ofCode : Nat → Option ElemType
  | 0 => some .i8
  | 1 => some .i16
  | 2 => some .i32
  | 3 => some .i64
  | 4 => some .n8
  | 5 => some .n16
  | 6 => some .n32
  | 7 => some .n64
  | 8 => some .f32
  | 9 => some .bf16
  | 10 => some .e4m3
  | 11 => some .e5m2
  | 12 => some .mxf4
  | 13 => some .dm8
  | _ => none

/-- The number of an engine FIFO (Table 1.6). -/
def Fifo.code : Fifo → Nat
  | .e0 => 0
  | .e1 => 1
  | .e2 => 2
  | .e3 => 3
  | .e7 => 7

def Fifo.ofCode : Nat → Option Fifo
  | 0 => some .e0
  | 1 => some .e1
  | 2 => some .e2
  | 3 => some .e3
  | 7 => some .e7
  | _ => none

/-- The prediction slot of `wstat.pK`, whose modifier is 2 + K (Table 20.3). -/
def kOfModifier : Nat → Option (Fin 4)
  | 2 => some 0
  | 3 => some 1
  | 4 => some 2
  | 5 => some 3
  | _ => none

/-- Major 0x01 (Table 5.6). -/
def decodeMajor01 (w : Nat) : Option Instr :=
  if fld w 26 6 = 0 then (SatMode.ofCode (fld w 22 4)).bind fun m => some (.add (reg w 7) (reg w 12) (reg w 17) m)
  else if fld w 26 6 = 1 then (SatMode.ofCode (fld w 22 4)).bind fun m => some (.sub (reg w 7) (reg w 12) (reg w 17) m)
  else if fld w 17 5 = 0 ∧ fld w 26 6 = 2 then (SatMode.ofCode (fld w 22 4)).bind fun m => some (.neg (reg w 7) (reg w 12) m)
  else if fld w 26 6 = 3 then (SatMode.ofCode (fld w 22 4)).bind fun m => some (.mul (reg w 7) (reg w 12) (reg w 17) m)
  else if fld w 22 10 = 64 then some (.mulh (reg w 7) (reg w 12) (reg w 17))
  else if fld w 22 10 = 80 then some (.mulhn (reg w 7) (reg w 12) (reg w 17))
  else if fld w 22 10 = 96 then some (.div (reg w 7) (reg w 12) (reg w 17))
  else if fld w 22 10 = 112 then some (.divn (reg w 7) (reg w 12) (reg w 17))
  else if fld w 22 10 = 128 then some (.rem (reg w 7) (reg w 12) (reg w 17))
  else if fld w 22 10 = 144 then some (.remn (reg w 7) (reg w 12) (reg w 17))
  else if fld w 22 10 = 160 then some (.min (reg w 7) (reg w 12) (reg w 17))
  else if fld w 22 10 = 176 then some (.max (reg w 7) (reg w 12) (reg w 17))
  else if fld w 22 10 = 192 then some (.minn (reg w 7) (reg w 12) (reg w 17))
  else if fld w 22 10 = 208 then some (.maxn (reg w 7) (reg w 12) (reg w 17))
  else if fld w 17 5 = 0 ∧ fld w 26 6 = 14 then (SatMode.ofCode (fld w 22 4)).bind fun m => some (.abs (reg w 7) (reg w 12) m)
  else if fld w 22 10 = 240 then some (.and (reg w 7) (reg w 12) (reg w 17))
  else if fld w 22 10 = 256 then some (.or (reg w 7) (reg w 12) (reg w 17))
  else if fld w 22 10 = 272 then some (.xor (reg w 7) (reg w 12) (reg w 17))
  else if fld w 17 15 = 9216 then some (.not (reg w 7) (reg w 12))
  else if fld w 22 10 = 304 then some (.shl (reg w 7) (reg w 12) (reg w 17))
  else if fld w 22 10 = 320 then some (.shr (reg w 7) (reg w 12) (reg w 17))
  else if fld w 22 10 = 336 then some (.sar (reg w 7) (reg w 12) (reg w 17))
  else if fld w 22 10 = 352 then some (.rotl (reg w 7) (reg w 12) (reg w 17))
  else if fld w 17 15 = 11776 then some (.clz (reg w 7) (reg w 12))
  else if fld w 17 15 = 12288 then some (.ctz (reg w 7) (reg w 12))
  else if fld w 17 15 = 12800 then some (.popc (reg w 7) (reg w 12))
  else if fld w 17 15 = 13312 then some (.brev (reg w 7) (reg w 12))
  else if fld w 22 10 = 432 then some (.bext (reg w 7) (reg w 12) (reg w 17))
  else if fld w 22 10 = 448 then some (.bins (reg w 7) (reg w 12) (reg w 17))
  else if fld w 22 10 = 464 then some (.bset (reg w 7) (reg w 12) (reg w 17))
  else if fld w 22 10 = 480 then some (.bclr (reg w 7) (reg w 12) (reg w 17))
  else if fld w 22 10 = 496 then some (.bflip (reg w 7) (reg w 12) (reg w 17))
  else if fld w 17 5 = 0 ∧ fld w 26 6 = 32 then (ExtWidth.ofCode (fld w 22 4)).bind fun sz => some (.sext (reg w 7) (reg w 12) sz)
  else if fld w 17 5 = 0 ∧ fld w 26 6 = 33 then (ExtWidth.ofCode (fld w 22 4)).bind fun sz => some (.zext (reg w 7) (reg w 12) sz)
  else if fld w 17 15 = 17408 then some (.mov (reg w 7) (reg w 12))
  else if fld w 22 10 = 560 then some (.cmp (reg w 7) (reg w 12) (reg w 17))
  else if fld w 22 10 = 576 then some (.pand (reg w 7) (reg w 12) (reg w 17))
  else if fld w 22 10 = 592 then some (.por (reg w 7) (reg w 12) (reg w 17))
  else if fld w 22 10 = 608 then some (.pxor (reg w 7) (reg w 12) (reg w 17))
  else none

/-- Major 0x02 (Table 5.6). -/
def decodeMajor02 (w : Nat) : Option Instr :=
  some (.addi (reg w 7) (reg w 12) (BitVec.ofNat 15 (w / 2 ^ 17)))

/-- Major 0x03 (Table 5.6). -/
def decodeMajor03 (w : Nat) : Option Instr :=
  some (.andi (reg w 7) (reg w 12) (BitVec.ofNat 15 (w / 2 ^ 17)))

/-- Major 0x04 (Table 5.6). -/
def decodeMajor04 (w : Nat) : Option Instr :=
  some (.ori (reg w 7) (reg w 12) (BitVec.ofNat 15 (w / 2 ^ 17)))

/-- Major 0x05 (Table 5.6). -/
def decodeMajor05 (w : Nat) : Option Instr :=
  some (.xori (reg w 7) (reg w 12) (BitVec.ofNat 15 (w / 2 ^ 17)))

/-- Major 0x06 (Table 5.6). -/
def decodeMajor06 (w : Nat) : Option Instr :=
  some (.shli (reg w 7) (reg w 12) (BitVec.ofNat 15 (w / 2 ^ 17)))

/-- Major 0x07 (Table 5.6). -/
def decodeMajor07 (w : Nat) : Option Instr :=
  some (.shri (reg w 7) (reg w 12) (BitVec.ofNat 15 (w / 2 ^ 17)))

/-- Major 0x08 (Table 5.6). -/
def decodeMajor08 (w : Nat) : Option Instr :=
  some (.sari (reg w 7) (reg w 12) (BitVec.ofNat 15 (w / 2 ^ 17)))

/-- Major 0x09 (Table 5.6). -/
def decodeMajor09 (w : Nat) : Option Instr :=
  some (.cmpi (reg w 7) (reg w 12) (BitVec.ofNat 15 (w / 2 ^ 17)))

/-- Major 0x0A (Table 5.6). -/
def decodeMajor0A (w : Nat) : Option Instr :=
  some (.movi (reg w 7) (BitVec.ofNat 20 (w / 2 ^ 12)))

/-- Major 0x0B (Table 5.6). -/
def decodeMajor0B (w : Nat) : Option Instr :=
  some (.movhi (reg w 7) (BitVec.ofNat 20 (w / 2 ^ 12)))

/-- Major 0x0C (Table 5.6). -/
def decodeMajor0C (w : Nat) : Option Instr :=
  if fld w 19 1 = 1 then some (.bt (reg w 7) (BitVec.ofNat 12 (w / 2 ^ 20)) (Fin.ofNat 128 (w / 2 ^ 12)))
  else if fld w 19 1 = 0 then some (.bf (reg w 7) (BitVec.ofNat 12 (w / 2 ^ 20)) (Fin.ofNat 128 (w / 2 ^ 12)))
  else none

/-- Major 0x0D (Table 5.6). -/
def decodeMajor0D (w : Nat) : Option Instr :=
  some (.jmp (BitVec.ofNat 25 (w / 2 ^ 7)))

/-- Major 0x0E (Table 5.6). -/
def decodeMajor0E (w : Nat) : Option Instr :=
  some (.jal (BitVec.ofNat 25 (w / 2 ^ 7)))

/-- Major 0x0F (Table 5.6). -/
def decodeMajor0F (w : Nat) : Option Instr :=
  if fld w 7 5 = 0 ∧ fld w 17 15 = 0 then some (.jr (reg w 12))
  else if fld w 17 15 = 512 then some (.jalr (reg w 7) (reg w 12))
  else if fld w 7 25 = 1048576 then some .ret
  else if fld w 7 25 = 1572864 then some .yield
  else if fld w 7 25 = 2097152 then some .nop
  else none

/-- Major 0x10 (Table 5.6). -/
def decodeMajor10 (w : Nat) : Option Instr :=
  if fld w 11 1 = 0 ∧ fld w 16 1 = 0 then some (.drill (BitVec.ofNat 15 (w / 2 ^ 17)) (BitVec.ofNat 4 (w / 2 ^ 12)) (BitVec.ofNat 4 (w / 2 ^ 7)))
  else none

/-- Major 0x11 (Table 5.6). -/
def decodeMajor11 (w : Nat) : Option Instr :=
  if fld w 17 15 = 0 then some (.cgetaddr (reg w 7) (reg w 12))
  else if fld w 17 15 = 512 then some (.cgetbase (reg w 7) (reg w 12))
  else if fld w 17 15 = 1024 then some (.cgetlen (reg w 7) (reg w 12))
  else if fld w 17 15 = 1536 then some (.cgetperm (reg w 7) (reg w 12))
  else if fld w 17 15 = 2048 then some (.cgettype (reg w 7) (reg w 12))
  else if fld w 17 15 = 2560 then some (.cgettag (reg w 7) (reg w 12))
  else if fld w 22 10 = 96 then some (.csetaddr (reg w 7) (reg w 12) (reg w 17))
  else if fld w 22 10 = 112 then some (.cincaddr (reg w 7) (reg w 12) (reg w 17))
  else if fld w 22 10 = 128 then some (.csetbounds (reg w 7) (reg w 12) (reg w 17))
  else if fld w 22 10 = 144 then some (.csetboundsx (reg w 7) (reg w 12) (reg w 17))
  else if fld w 22 10 = 160 then some (.candperm (reg w 7) (reg w 12) (reg w 17))
  else if fld w 22 10 = 176 then some (.cseal (reg w 7) (reg w 12) (reg w 17))
  else if fld w 22 10 = 192 then some (.cunseal (reg w 7) (reg w 12) (reg w 17))
  else if fld w 17 15 = 6656 then some (.cclrtag (reg w 7) (reg w 12))
  else if fld w 22 10 = 224 then some (.ctestsub (reg w 7) (reg w 12) (reg w 17))
  else if fld w 22 10 = 240 then some (.cbuild (reg w 7) (reg w 12) (reg w 17))
  else none

/-- Major 0x12 (Table 5.6). -/
def decodeMajor12 (w : Nat) : Option Instr :=
  some (.cincaddri (reg w 7) (reg w 12) (BitVec.ofNat 15 (w / 2 ^ 17)))

/-- Major 0x13 (Table 5.6). -/
def decodeMajor13 (w : Nat) : Option Instr :=
  some (.ldB (reg w 7) (reg w 12) (BitVec.ofNat 15 (w / 2 ^ 17)))

/-- Major 0x14 (Table 5.6). -/
def decodeMajor14 (w : Nat) : Option Instr :=
  some (.ldH (reg w 7) (reg w 12) (BitVec.ofNat 15 (w / 2 ^ 17)))

/-- Major 0x15 (Table 5.6). -/
def decodeMajor15 (w : Nat) : Option Instr :=
  some (.ldW (reg w 7) (reg w 12) (BitVec.ofNat 15 (w / 2 ^ 17)))

/-- Major 0x16 (Table 5.6). -/
def decodeMajor16 (w : Nat) : Option Instr :=
  some (.ldD (reg w 7) (reg w 12) (BitVec.ofNat 15 (w / 2 ^ 17)))

/-- Major 0x17 (Table 5.6). -/
def decodeMajor17 (w : Nat) : Option Instr :=
  some (.ldQ (reg w 7) (reg w 12) (BitVec.ofNat 15 (w / 2 ^ 17)))

/-- Major 0x18 (Table 5.6). -/
def decodeMajor18 (w : Nat) : Option Instr :=
  some (.ldzB (reg w 7) (reg w 12) (BitVec.ofNat 15 (w / 2 ^ 17)))

/-- Major 0x19 (Table 5.6). -/
def decodeMajor19 (w : Nat) : Option Instr :=
  some (.ldzH (reg w 7) (reg w 12) (BitVec.ofNat 15 (w / 2 ^ 17)))

/-- Major 0x1A (Table 5.6). -/
def decodeMajor1A (w : Nat) : Option Instr :=
  some (.ldzW (reg w 7) (reg w 12) (BitVec.ofNat 15 (w / 2 ^ 17)))

/-- Major 0x1B (Table 5.6). -/
def decodeMajor1B (w : Nat) : Option Instr :=
  some (.ldC (reg w 7) (reg w 12) (BitVec.ofNat 15 (w / 2 ^ 17)))

/-- Major 0x1C (Table 5.6). -/
def decodeMajor1C (w : Nat) : Option Instr :=
  some (.stB (reg w 12) (reg w 17) (BitVec.ofNat 15 (fld w 22 10 * 32 + fld w 7 5)))

/-- Major 0x1D (Table 5.6). -/
def decodeMajor1D (w : Nat) : Option Instr :=
  some (.stH (reg w 12) (reg w 17) (BitVec.ofNat 15 (fld w 22 10 * 32 + fld w 7 5)))

/-- Major 0x1E (Table 5.6). -/
def decodeMajor1E (w : Nat) : Option Instr :=
  some (.stW (reg w 12) (reg w 17) (BitVec.ofNat 15 (fld w 22 10 * 32 + fld w 7 5)))

/-- Major 0x1F (Table 5.6). -/
def decodeMajor1F (w : Nat) : Option Instr :=
  some (.stD (reg w 12) (reg w 17) (BitVec.ofNat 15 (fld w 22 10 * 32 + fld w 7 5)))

/-- Major 0x20 (Table 5.6). -/
def decodeMajor20 (w : Nat) : Option Instr :=
  some (.stQ (reg w 12) (reg w 17) (BitVec.ofNat 15 (fld w 22 10 * 32 + fld w 7 5)))

/-- Major 0x21 (Table 5.6). -/
def decodeMajor21 (w : Nat) : Option Instr :=
  some (.stC (reg w 12) (reg w 17) (BitVec.ofNat 15 (fld w 22 10 * 32 + fld w 7 5)))

/-- Major 0x22 (Table 5.6). -/
def decodeMajor22 (w : Nat) : Option Instr :=
  if fld w 17 5 = 0 ∧ fld w 28 4 = 0 then (MemWidth.ofCode (fld w 25 3)).bind fun sz => (Scope.ofCode (fld w 22 3)).bind fun s => some (.lda (reg w 7) (reg w 12) sz s)
  else if fld w 7 5 = 0 ∧ fld w 28 4 = 1 then (MemWidth.ofCode (fld w 25 3)).bind fun sz => (Scope.ofCode (fld w 22 3)).bind fun s => some (.strl (reg w 12) (reg w 17) sz s)
  else if fld w 28 4 = 2 then (MemWidth.ofCode (fld w 25 3)).bind fun sz => (Scope.ofCode (fld w 22 3)).bind fun s => some (.amoadd (reg w 7) (reg w 12) (reg w 17) sz s)
  else if fld w 28 4 = 3 then (MemWidth.ofCode (fld w 25 3)).bind fun sz => (Scope.ofCode (fld w 22 3)).bind fun s => some (.amoswap (reg w 7) (reg w 12) (reg w 17) sz s)
  else if fld w 28 4 = 4 then (MemWidth.ofCode (fld w 25 3)).bind fun sz => (Scope.ofCode (fld w 22 3)).bind fun s => some (.amocas (reg w 7) (reg w 12) (reg w 17) sz s)
  else if fld w 25 7 = 44 then (Scope.ofCode (fld w 22 3)).bind fun s => some (.amocasq (reg w 7) (reg w 12) (reg w 17) s)
  else if fld w 28 4 = 6 then (MemWidth.ofCode (fld w 25 3)).bind fun sz => (Scope.ofCode (fld w 22 3)).bind fun s => some (.amomin (reg w 7) (reg w 12) (reg w 17) sz s)
  else if fld w 28 4 = 7 then (MemWidth.ofCode (fld w 25 3)).bind fun sz => (Scope.ofCode (fld w 22 3)).bind fun s => some (.amomax (reg w 7) (reg w 12) (reg w 17) sz s)
  else if fld w 28 4 = 8 then (MemWidth.ofCode (fld w 25 3)).bind fun sz => (Scope.ofCode (fld w 22 3)).bind fun s => some (.amominn (reg w 7) (reg w 12) (reg w 17) sz s)
  else if fld w 28 4 = 9 then (MemWidth.ofCode (fld w 25 3)).bind fun sz => (Scope.ofCode (fld w 22 3)).bind fun s => some (.amomaxn (reg w 7) (reg w 12) (reg w 17) sz s)
  else if fld w 28 4 = 10 then (MemWidth.ofCode (fld w 25 3)).bind fun sz => (Scope.ofCode (fld w 22 3)).bind fun s => some (.amoand (reg w 7) (reg w 12) (reg w 17) sz s)
  else if fld w 28 4 = 11 then (MemWidth.ofCode (fld w 25 3)).bind fun sz => (Scope.ofCode (fld w 22 3)).bind fun s => some (.amoor (reg w 7) (reg w 12) (reg w 17) sz s)
  else if fld w 28 4 = 12 then (MemWidth.ofCode (fld w 25 3)).bind fun sz => (Scope.ofCode (fld w 22 3)).bind fun s => some (.amoxor (reg w 7) (reg w 12) (reg w 17) sz s)
  else none

/-- Major 0x23 (Table 5.6). -/
def decodeMajor23 (w : Nat) : Option Instr :=
  if fld w 7 15 = 0 ∧ fld w 28 4 = 0 then (FenceKind.ofCode (fld w 25 3)).bind fun k => (Scope.ofCode (fld w 22 3)).bind fun s => some (.fence k s)
  else if fld w 7 15 = 0 ∧ fld w 25 7 = 8 then (Scope.ofCode (fld w 22 3)).bind fun s => some (.fsc s)
  else if fld w 7 25 = 4194304 then some .sheaf
  else if fld w 7 5 = 0 ∧ fld w 22 10 = 195 then some (.cinv (reg w 12) (reg w 17))
  else if fld w 7 25 = 6651904 then some .cinvAll
  else if fld w 7 5 = 0 ∧ fld w 22 10 = 259 then some (.cwb (reg w 12) (reg w 17))
  else if fld w 7 25 = 8749056 then some .cwbAll
  else if fld w 7 5 = 0 ∧ fld w 17 15 = 10240 then some (.pfL1 (reg w 12))
  else if fld w 7 5 = 0 ∧ fld w 17 15 = 10496 then some (.pfL2 (reg w 12))
  else none

/-- Major 0x24 (Table 5.6). -/
def decodeMajor24 (w : Nat) : Option Instr :=
  if fld w 22 10 = 0 then some (.sbind (reg w 7) (reg w 12) (fld w 21 1 == 1) (Fin.ofNat 16 (w / 2 ^ 17)))
  else if fld w 22 10 = 32 then some (.sbindch (reg w 7) (reg w 12) (fld w 21 1 == 1) (Fin.ofNat 16 (w / 2 ^ 17)))
  else if fld w 7 5 = 0 ∧ fld w 17 15 = 2048 then some (.sfree (reg w 12))
  else if fld w 17 15 = 3072 then some (.sstat (reg w 7) (reg w 12))
  else if fld w 12 5 = 0 ∧ fld w 21 11 = 193 then some (.sstatCh (reg w 7) (Fin.ofNat 16 (w / 2 ^ 17)))
  else if fld w 7 5 = 0 ∧ fld w 17 4 = 0 ∧ fld w 27 5 = 4 then some (.sskip (reg w 12) (Fin.ofNat 64 (w / 2 ^ 21)))
  else none

/-- Major 0x25 (Table 5.6). -/
def decodeMajor25 (w : Nat) : Option Instr :=
  if fld w 21 11 = 0 then some (.cbinit (reg w 7) (reg w 12) (Fin.ofNat 16 (w / 2 ^ 17)))
  else if fld w 21 11 = 64 then some (.cbwait (reg w 7) (reg w 12) (Fin.ofNat 16 (w / 2 ^ 17)))
  else if fld w 21 11 = 128 then some (.cbfree (reg w 7) (reg w 12) (Fin.ofNat 16 (w / 2 ^ 17)))
  else if fld w 7 5 = 0 ∧ fld w 21 11 = 192 then some (.cbadv (reg w 12) (Fin.ofNat 16 (w / 2 ^ 17)))
  else if fld w 7 5 = 0 ∧ fld w 21 11 = 256 then some (.cbcomm (reg w 12) (Fin.ofNat 16 (w / 2 ^ 17)))
  else none

/-- Major 0x26 (Table 5.6). -/
def decodeMajor26 (w : Nat) : Option Instr :=
  if fld w 7 5 = 0 ∧ fld w 17 4 = 0 ∧ fld w 24 8 = 0 then (Fifo.ofCode (fld w 21 3)).bind fun f => some (.epush (reg w 12) f)
  else if fld w 12 9 = 0 ∧ fld w 24 8 = 8 then (Fifo.ofCode (fld w 21 3)).bind fun f => some (.epop (reg w 7) f)
  else if fld w 12 9 = 0 ∧ fld w 24 8 = 16 then (Fifo.ofCode (fld w 21 3)).bind fun f => some (.epeek (reg w 7) f)
  else if fld w 12 9 = 0 ∧ fld w 24 8 = 24 then (Fifo.ofCode (fld w 21 3)).bind fun f => some (.estat (reg w 7) f)
  else none

/-- Major 0x27 (Table 5.6). -/
def decodeMajor27 (w : Nat) : Option Instr :=
  if fld w 26 6 = 0 then (ElemType.ofCode (fld w 22 4)).bind fun t => some (.fadd (reg w 7) (reg w 12) (reg w 17) t)
  else if fld w 26 6 = 1 then (ElemType.ofCode (fld w 22 4)).bind fun t => some (.fsub (reg w 7) (reg w 12) (reg w 17) t)
  else if fld w 26 6 = 2 then (ElemType.ofCode (fld w 22 4)).bind fun t => some (.fmul (reg w 7) (reg w 12) (reg w 17) t)
  else if fld w 26 6 = 3 then (ElemType.ofCode (fld w 22 4)).bind fun t => some (.fma (reg w 7) (reg w 12) (reg w 17) t)
  else if fld w 26 6 = 4 then (ElemType.ofCode (fld w 22 4)).bind fun t => some (.fms (reg w 7) (reg w 12) (reg w 17) t)
  else if fld w 26 6 = 5 then (ElemType.ofCode (fld w 22 4)).bind fun t => some (.fnma (reg w 7) (reg w 12) (reg w 17) t)
  else if fld w 26 6 = 6 then (ElemType.ofCode (fld w 22 4)).bind fun t => some (.fmin (reg w 7) (reg w 12) (reg w 17) t)
  else if fld w 26 6 = 7 then (ElemType.ofCode (fld w 22 4)).bind fun t => some (.fmax (reg w 7) (reg w 12) (reg w 17) t)
  else if fld w 17 5 = 0 ∧ fld w 26 6 = 8 then (ElemType.ofCode (fld w 22 4)).bind fun t => some (.fabs (reg w 7) (reg w 12) t)
  else if fld w 17 5 = 0 ∧ fld w 26 6 = 9 then (ElemType.ofCode (fld w 22 4)).bind fun t => some (.fneg (reg w 7) (reg w 12) t)
  else if fld w 26 6 = 10 then (ElemType.ofCode (fld w 22 4)).bind fun t => some (.fdiv (reg w 7) (reg w 12) (reg w 17) t)
  else if fld w 17 5 = 0 ∧ fld w 26 6 = 11 then (ElemType.ofCode (fld w 22 4)).bind fun t => some (.fsqrt (reg w 7) (reg w 12) t)
  else if fld w 26 6 = 12 then (ElemType.ofCode (fld w 22 4)).bind fun t => some (.fcmp (reg w 7) (reg w 12) (reg w 17) t)
  else if fld w 17 5 = 0 ∧ fld w 26 6 = 13 then (ElemType.ofCode (fld w 22 4)).bind fun t => some (.fclass (reg w 7) (reg w 12) t)
  else if fld w 21 1 = 0 ∧ fld w 26 6 = 14 then (ElemType.ofCode (fld w 22 4)).bind fun t => (ElemType.ofCode (fld w 17 4)).bind fun s => some (.fcvt (reg w 7) (reg w 12) t s)
  else if fld w 26 6 = 15 then (ElemType.ofCode (fld w 22 4)).bind fun t => (ElemType.ofCode (fld w 17 4)).bind fun s => some (.fcvti (reg w 7) (reg w 12) t (fld w 21 1 == 1) s)
  else if fld w 21 1 = 0 ∧ fld w 26 6 = 16 then (ElemType.ofCode (fld w 22 4)).bind fun t => (ElemType.ofCode (fld w 17 4)).bind fun s => some (.icvtf (reg w 7) (reg w 12) t s)
  else none

/-- Major 0x28 (Table 5.6). -/
def decodeMajor28 (w : Nat) : Option Instr :=
  if fld w 26 6 = 0 then (ElemType.ofCode (fld w 22 4)).bind fun t => some (.vadd (reg w 7) (reg w 12) (reg w 17) t)
  else if fld w 26 6 = 1 then (ElemType.ofCode (fld w 22 4)).bind fun t => some (.vsub (reg w 7) (reg w 12) (reg w 17) t)
  else if fld w 26 6 = 2 then (ElemType.ofCode (fld w 22 4)).bind fun t => some (.vmul (reg w 7) (reg w 12) (reg w 17) t)
  else if fld w 26 6 = 3 then (ElemType.ofCode (fld w 22 4)).bind fun t => some (.vfma (reg w 7) (reg w 12) (reg w 17) t)
  else if fld w 26 6 = 4 then (ElemType.ofCode (fld w 22 4)).bind fun t => some (.vmin (reg w 7) (reg w 12) (reg w 17) t)
  else if fld w 26 6 = 5 then (ElemType.ofCode (fld w 22 4)).bind fun t => some (.vmax (reg w 7) (reg w 12) (reg w 17) t)
  else if fld w 26 6 = 6 then (ElemType.ofCode (fld w 22 4)).bind fun t => some (.vscale (reg w 7) (reg w 12) (reg w 17) t)
  else if fld w 26 6 = 7 then (ElemType.ofCode (fld w 22 4)).bind fun t => some (.vdot (reg w 7) (reg w 12) (reg w 17) t)
  else if fld w 17 5 = 0 ∧ fld w 26 6 = 8 then (ElemType.ofCode (fld w 22 4)).bind fun t => some (.vsum (reg w 7) (reg w 12) t)
  else if fld w 17 5 = 0 ∧ fld w 26 6 = 9 then (ElemType.ofCode (fld w 22 4)).bind fun t => some (.vrmax (reg w 7) (reg w 12) t)
  else if fld w 21 1 = 0 ∧ fld w 26 6 = 10 then (ElemType.ofCode (fld w 22 4)).bind fun t => (ElemType.ofCode (fld w 17 4)).bind fun s => some (.vcvt (reg w 7) (reg w 12) t s)
  else if fld w 26 6 = 11 then (ElemType.ofCode (fld w 22 4)).bind fun t => some (.vpack (reg w 7) (reg w 12) (reg w 17) t)
  else if fld w 26 6 = 12 then (ElemType.ofCode (fld w 22 4)).bind fun t => (ElemType.ofCode (fld w 17 4)).bind fun s => some (.vunpack (reg w 7) (reg w 12) t (fld w 21 1 == 1) s)
  else if fld w 26 6 = 13 then (ElemType.ofCode (fld w 22 4)).bind fun t => some (.vsel (reg w 7) (reg w 12) (reg w 17) t)
  else if fld w 26 6 = 14 then (ElemType.ofCode (fld w 22 4)).bind fun t => some (.vcmp (reg w 7) (reg w 12) (reg w 17) t)
  else if fld w 26 6 = 15 then (ElemType.ofCode (fld w 22 4)).bind fun t => some (.vshuf (reg w 7) (reg w 12) (reg w 17) t)
  else if fld w 17 5 = 0 ∧ fld w 26 6 = 16 then (ElemType.ofCode (fld w 22 4)).bind fun t => some (.vbcast (reg w 7) (reg w 12) t)
  else none

/-- Major 0x29 (Table 5.6). -/
def decodeMajor29 (w : Nat) : Option Instr :=
  if fld w 17 5 = 0 ∧ fld w 26 6 = 0 then (ElemType.ofCode (fld w 22 4)).bind fun t => some (.vexp2 (reg w 7) (reg w 12) t)
  else if fld w 17 5 = 0 ∧ fld w 26 6 = 1 then (ElemType.ofCode (fld w 22 4)).bind fun t => some (.vlog2 (reg w 7) (reg w 12) t)
  else if fld w 17 5 = 0 ∧ fld w 26 6 = 2 then (ElemType.ofCode (fld w 22 4)).bind fun t => some (.vrcp (reg w 7) (reg w 12) t)
  else if fld w 17 5 = 0 ∧ fld w 26 6 = 3 then (ElemType.ofCode (fld w 22 4)).bind fun t => some (.vrsqrt (reg w 7) (reg w 12) t)
  else if fld w 17 5 = 0 ∧ fld w 26 6 = 4 then (ElemType.ofCode (fld w 22 4)).bind fun t => some (.vtanh (reg w 7) (reg w 12) t)
  else if fld w 17 5 = 0 ∧ fld w 26 6 = 5 then (ElemType.ofCode (fld w 22 4)).bind fun t => some (.vsin (reg w 7) (reg w 12) t)
  else if fld w 22 10 = 104 then some (.vtopk (reg w 7) (reg w 12) (reg w 17))
  else if fld w 17 5 = 0 ∧ fld w 26 6 = 7 then (ElemType.ofCode (fld w 22 4)).bind fun t => some (.vamax (reg w 7) (reg w 12) t)
  else if fld w 26 6 = 8 then (ElemType.ofCode (fld w 22 4)).bind fun t => some (.vquant (reg w 7) (reg w 12) (reg w 17) t)
  else if fld w 26 6 = 9 then (ElemType.ofCode (fld w 22 4)).bind fun t => some (.vdeq (reg w 7) (reg w 12) (reg w 17) t)
  else none

/-- Major 0x2A (Table 5.6). -/
def decodeMajor2A (w : Nat) : Option Instr :=
  if fld w 22 10 = 0 then some (.send (reg w 7) (reg w 12) (reg w 17))
  else if fld w 22 10 = 16 then some (.sendv (reg w 7) (reg w 12) (reg w 17))
  else if fld w 22 10 = 32 then some (.spawn (reg w 7) (reg w 12) (reg w 17))
  else if fld w 7 5 = 0 ∧ fld w 22 10 = 48 then some (.tdec (reg w 12) (reg w 17))
  else if fld w 7 5 = 0 ∧ fld w 22 10 = 64 then some (.tarm (reg w 12) (reg w 17))
  else if fld w 7 5 = 0 ∧ fld w 17 15 = 2080 then some (.tarmSp (reg w 12))
  else if fld w 7 25 = 2621440 then some .tend
  else if fld w 12 20 = 98304 then some (.tself (reg w 7))
  else if fld w 22 10 = 112 then some (.stageTask (reg w 7) (reg w 12) (reg w 17))
  else if fld w 7 5 = 0 ∧ fld w 22 10 = 128 then some (.succ (reg w 12) (reg w 17))
  else if fld w 7 15 = 0 ∧ fld w 24 8 = 36 then some (.bar (Fin.ofNat 4 (w / 2 ^ 22)))
  else if fld w 7 25 = 5242880 then some .wdog
  else if fld w 17 5 = 0 ∧ fld w 25 7 = 22 then some (.hpack (reg w 7) (reg w 12) (Fin.ofNat 8 (w / 2 ^ 22)))
  else if fld w 17 5 = 0 ∧ fld w 25 7 = 24 then some (.hparse (reg w 7) (reg w 12) (Fin.ofNat 8 (w / 2 ^ 22)))
  else if fld w 7 25 = 6815744 then some .hlay
  else none

/-- Major 0x2B (Table 5.6). -/
def decodeMajor2B (w : Nat) : Option Instr :=
  if fld w 7 5 = 0 ∧ fld w 21 11 = 0 then some (.hload (reg w 12) (Fin.ofNat 16 (w / 2 ^ 17)))
  else if fld w 7 25 = 1048576 then some .hswap
  else if fld w 22 10 = 64 then some (.hgo (reg w 7) (reg w 12) (fld w 21 1 == 1) (Fin.ofNat 16 (w / 2 ^ 17)))
  else if fld w 7 5 = 0 ∧ fld w 17 15 = 3072 then some (.hzero (reg w 12))
  else if fld w 17 4 = 0 ∧ fld w 22 10 = 128 then some (.hdrain (reg w 7) (reg w 12) (fld w 21 1 == 1))
  else if fld w 7 5 = 0 ∧ fld w 17 4 = 0 ∧ fld w 22 10 = 160 then some (.hwait (reg w 12) (fld w 21 1 == 1))
  else if fld w 12 20 = 196608 then some (.hstat (reg w 7))
  else if fld w 17 15 = 7168 then some (.haccRd (reg w 7) (reg w 12))
  else if fld w 17 15 = 7184 then some (.haccWr (reg w 7) (reg w 12))
  else if fld w 7 5 = 0 ∧ fld w 17 15 = 8192 then some (.hsetClr (reg w 12))
  else if fld w 7 25 = 8404992 then some .hsetDiscard
  else none

/-- Major 0x2C (Table 5.6). -/
def decodeMajor2C (w : Nat) : Option Instr :=
  if fld w 7 5 = 0 ∧ fld w 22 10 = 0 then some (.sys (reg w 12) (reg w 17))
  else if fld w 7 25 = 524288 then some .brk
  else if fld w 7 25 = 1048576 then some .xret
  else if fld w 7 5 = 0 ∧ fld w 17 15 = 1536 then some (.idle (reg w 12))
  else if fld w 7 25 = 2097152 then some .halt
  else if fld w 7 5 = 0 ∧ fld w 17 5 = 0 ∧ fld w 26 6 = 5 then (VfScope.ofCode (fld w 24 2)).bind fun s => (VfKind.ofCode (fld w 22 2)).bind fun k => some (.vfence (reg w 12) s k)
  else if fld w 7 25 = 3145728 then some .ctxsave
  else if fld w 7 5 = 0 ∧ fld w 17 15 = 3584 then some (.ctxload (reg w 12))
  else if fld w 17 15 = 4096 then some (.migr (reg w 7) (reg w 12))
  else if fld w 7 5 = 0 ∧ fld w 17 15 = 4608 then some (.pwreq (reg w 12))
  else if fld w 7 25 = 5242880 then some .pwrel
  else none

/-- Major 0x2D (Table 5.6). -/
def decodeMajor2D (w : Nat) : Option Instr :=
  if fld w 12 5 = 0 ∧ fld w 29 3 = 0 then some (.crr (reg w 7) (BitVec.ofNat 12 (w / 2 ^ 17)))
  else if fld w 29 3 = 1 then some (.crw (reg w 7) (reg w 12) (BitVec.ofNat 12 (w / 2 ^ 17)))
  else if fld w 29 3 = 2 then some (.crs (reg w 7) (reg w 12) (BitVec.ofNat 12 (w / 2 ^ 17)))
  else if fld w 29 3 = 3 then some (.crc (reg w 7) (reg w 12) (BitVec.ofNat 12 (w / 2 ^ 17)))
  else none

/-- Major 0x2E (Table 5.6). -/
def decodeMajor2E (w : Nat) : Option Instr :=
  if fld w 22 10 = 0 then some (.wopen (reg w 7) (reg w 12) (reg w 17))
  else if fld w 7 5 = 0 ∧ fld w 17 15 = 512 then some (.wclose (reg w 12))
  else if fld w 22 10 = 32 then some (.wcall (reg w 7) (reg w 12) (reg w 17))
  else if fld w 22 10 = 48 then some (.wtok (reg w 7) (reg w 12) (reg w 17))
  else if fld w 23 9 = 32 then some (.wreq (reg w 7) (reg w 12) (reg w 17) (fld w 22 1 == 1))
  else if fld w 24 8 = 20 then some (.wcheck (reg w 7) (reg w 12) (reg w 17) (Fin.ofNat 4 (w / 2 ^ 22)))
  else if fld w 17 15 = 3072 then some (.wretire (reg w 7) (reg w 12))
  else if fld w 7 5 = 0 ∧ fld w 24 8 = 28 then some (.wrewind (reg w 12) (reg w 17) (Fin.ofNat 4 (w / 2 ^ 22)))
  else if fld w 17 15 = 4096 then some (.wstat (reg w 7) (reg w 12))
  else if fld w 17 15 = 4128 then some (.wstatSmp (reg w 7) (reg w 12))
  else if fld w 17 5 = 0 ∧ fld w 26 6 = 8 then (kOfModifier (fld w 22 4)).bind fun m => some (.wstatP (reg w 7) (reg w 12) m)
  else none

/-- A 32-bit word by its major opcode, bits [6:1] (R69, R70); none where it is no instruction of Table 5.6. -/
def decodeWord (w : Nat) : Option Instr :=
  match fld w 1 6 with
  | 0x01 => decodeMajor01 w
  | 0x02 => decodeMajor02 w
  | 0x03 => decodeMajor03 w
  | 0x04 => decodeMajor04 w
  | 0x05 => decodeMajor05 w
  | 0x06 => decodeMajor06 w
  | 0x07 => decodeMajor07 w
  | 0x08 => decodeMajor08 w
  | 0x09 => decodeMajor09 w
  | 0x0A => decodeMajor0A w
  | 0x0B => decodeMajor0B w
  | 0x0C => decodeMajor0C w
  | 0x0D => decodeMajor0D w
  | 0x0E => decodeMajor0E w
  | 0x0F => decodeMajor0F w
  | 0x10 => decodeMajor10 w
  | 0x11 => decodeMajor11 w
  | 0x12 => decodeMajor12 w
  | 0x13 => decodeMajor13 w
  | 0x14 => decodeMajor14 w
  | 0x15 => decodeMajor15 w
  | 0x16 => decodeMajor16 w
  | 0x17 => decodeMajor17 w
  | 0x18 => decodeMajor18 w
  | 0x19 => decodeMajor19 w
  | 0x1A => decodeMajor1A w
  | 0x1B => decodeMajor1B w
  | 0x1C => decodeMajor1C w
  | 0x1D => decodeMajor1D w
  | 0x1E => decodeMajor1E w
  | 0x1F => decodeMajor1F w
  | 0x20 => decodeMajor20 w
  | 0x21 => decodeMajor21 w
  | 0x22 => decodeMajor22 w
  | 0x23 => decodeMajor23 w
  | 0x24 => decodeMajor24 w
  | 0x25 => decodeMajor25 w
  | 0x26 => decodeMajor26 w
  | 0x27 => decodeMajor27 w
  | 0x28 => decodeMajor28 w
  | 0x29 => decodeMajor29 w
  | 0x2A => decodeMajor2A w
  | 0x2B => decodeMajor2B w
  | 0x2C => decodeMajor2C w
  | 0x2D => decodeMajor2D w
  | 0x2E => decodeMajor2E w
  | _ => none

/-- A 16-bit halfword by its class, bits [2:1] (R67, R68); none where it is no instruction of Table 5.4. -/
def decodeHalf (w : Nat) : Option Instr :=
  if fld w 1 2 = 0 ∧ fld w 13 3 = 0 then some (.mov16 (reg w 3) (reg w 8))
  else if fld w 1 2 = 0 ∧ fld w 13 3 = 1 then some (.add16 (reg w 3) (reg w 8))
  else if fld w 1 2 = 0 ∧ fld w 13 3 = 2 then some (.sub16 (reg w 3) (reg w 8))
  else if fld w 1 2 = 0 ∧ fld w 13 3 = 3 then some (.and16 (reg w 3) (reg w 8))
  else if fld w 1 2 = 0 ∧ fld w 13 3 = 4 then some (.or16 (reg w 3) (reg w 8))
  else if fld w 1 2 = 0 ∧ fld w 13 3 = 5 then some (.xor16 (reg w 3) (reg w 8))
  else if fld w 1 2 = 0 ∧ fld w 13 3 = 6 then some (.shl16 (reg w 3) (reg w 8))
  else if fld w 1 2 = 0 ∧ fld w 13 3 = 7 then some (.shr16 (reg w 3) (reg w 8))
  else if fld w 1 2 = 1 ∧ fld w 14 2 = 0 then some (.addi16 (reg w 3) (BitVec.ofNat 6 (w / 2 ^ 8)))
  else if fld w 1 2 = 1 ∧ fld w 14 2 = 1 then some (.movi16 (reg w 3) (BitVec.ofNat 6 (w / 2 ^ 8)))
  else if fld w 1 2 = 1 ∧ fld w 14 2 = 2 then some (.ldD16 (reg w 3) (BitVec.ofNat 6 (w / 2 ^ 8)))
  else if fld w 1 2 = 1 ∧ fld w 14 2 = 3 then some (.stD16 (reg w 3) (BitVec.ofNat 6 (w / 2 ^ 8)))
  else if fld w 1 2 = 2 ∧ fld w 14 2 = 0 then some (.jmp16 (BitVec.ofNat 11 (w / 2 ^ 3)))
  else if fld w 1 2 = 2 ∧ fld w 8 8 = 64 then some (.jr16 (reg w 3))
  else if fld w 1 2 = 2 ∧ fld w 8 8 = 65 then some (.jalr16 (reg w 3))
  else if fld w 1 15 = 16386 then some .nop16
  else if fld w 1 15 = 16390 then some .yield16
  else if fld w 1 15 = 16394 then some .ret16
  else if fld w 1 3 = 7 then some (.whenSet (reg w 4) (Fin.ofNat 128 (w / 2 ^ 9)))
  else if fld w 1 3 = 3 then some (.unlessSet (reg w 4) (Fin.ofNat 128 (w / 2 ^ 9)))
  else none

/-- Keep an instruction only when it is well-formed. -/
def onlyWf (o : Option Instr) : Option Instr := o.bind fun i => if i.wf then some i else none

/-- The instruction of a 32-bit word (R69 to R72). -/
def decode32 (w : Nat) : Instr :=
  match onlyWf (decodeWord w) with
  | some i => i
  | none => .illegalInstruction (BitVec.ofNat 32 w) false

/-- The instruction of a 16-bit halfword (R67, R68). -/
def decode16 (w : Nat) : Instr :=
  match onlyWf (decodeHalf w) with
  | some i => i
  | none => .illegalInstruction (BitVec.ofNat 32 (w % 2 ^ 16)) true

/-- A halfword begins a 32-bit instruction when its bit 0 is 1 (R66). -/
def isLong (h : Nat) : Bool := h % 2 == 1

/-- The instruction at the head of a list of bytes, little-endian, with the bytes after it (R66); none where the
bytes end first. -/
def decodeBytes : List Byte → Option (Instr × List Byte)
  | b0 :: b1 :: rest =>
    let h := b0.toNat + 2 ^ 8 * b1.toNat
    if isLong h then
      match rest with
      | b2 :: b3 :: rest' => some (decode32 (h + 2 ^ 16 * b2.toNat + 2 ^ 24 * b3.toNat), rest')
      | _ => none
    else some (decode16 h, rest)
  | _ => none

/-- The bytes of a number, little-endian. -/
def leBytes : Nat → Nat → List Byte
  | 0, _ => []
  | n + 1, v => BitVec.ofNat 8 v :: leBytes n (v / 2 ^ 8)

/-- The instruction that the decoder reads from `nbits` bits `w`, the opcode table's numbering: bit 0 is the least
significant bit of the first halfword. Bits above `nbits` are 0. -/
def decodeTableWord (nbits w : Nat) : Option Instr := (decodeBytes (leBytes 4 (w % 2 ^ nbits))).map Prod.fst

/-- The length in bytes of an encoded instruction: 2 for the 16-bit forms, 4 otherwise (R66). -/
def Instr.bytes : Instr → Nat
  | .mov16 _ _ | .add16 _ _ | .sub16 _ _ | .and16 _ _ | .or16 _ _ | .xor16 _ _ | .shl16 _ _ | .shr16 _ _
  | .addi16 _ _ | .movi16 _ _ | .ldD16 _ _ | .stD16 _ _ | .jmp16 _ | .jr16 _ | .jalr16 _ | .nop16 | .yield16
  | .ret16 | .whenSet _ _ | .unlessSet _ _ => 2
  | .illegalInstruction _ short => if short then 2 else 4
  | _ => 4

/-- A word with a field value put at bit `lo`. -/
def put (w v lo : Nat) : Nat := w + v * 2 ^ lo

/-- The 32-bit word or 16-bit halfword of an instruction, written from Tables 5.4 to 5.7; none for an event. -/
def encode : Instr → Option Nat
  | .illegalInstruction word _ => some word.toNat
  | .add d a b m => some (put (put (put (put 0x3 d.val 7) a.val 12) b.val 17) m.code 22)
  | .sub d a b m => some (put (put (put (put 0x4000003 d.val 7) a.val 12) b.val 17) m.code 22)
  | .neg d a m => some (put (put (put 0x8000003 d.val 7) a.val 12) m.code 22)
  | .mul d a b m => some (put (put (put (put 0xC000003 d.val 7) a.val 12) b.val 17) m.code 22)
  | .mulh d a b => some (put (put (put 0x10000003 d.val 7) a.val 12) b.val 17)
  | .mulhn d a b => some (put (put (put 0x14000003 d.val 7) a.val 12) b.val 17)
  | .div d a b => some (put (put (put 0x18000003 d.val 7) a.val 12) b.val 17)
  | .divn d a b => some (put (put (put 0x1C000003 d.val 7) a.val 12) b.val 17)
  | .rem d a b => some (put (put (put 0x20000003 d.val 7) a.val 12) b.val 17)
  | .remn d a b => some (put (put (put 0x24000003 d.val 7) a.val 12) b.val 17)
  | .min d a b => some (put (put (put 0x28000003 d.val 7) a.val 12) b.val 17)
  | .max d a b => some (put (put (put 0x2C000003 d.val 7) a.val 12) b.val 17)
  | .minn d a b => some (put (put (put 0x30000003 d.val 7) a.val 12) b.val 17)
  | .maxn d a b => some (put (put (put 0x34000003 d.val 7) a.val 12) b.val 17)
  | .abs d a m => some (put (put (put 0x38000003 d.val 7) a.val 12) m.code 22)
  | .and d a b => some (put (put (put 0x3C000003 d.val 7) a.val 12) b.val 17)
  | .or d a b => some (put (put (put 0x40000003 d.val 7) a.val 12) b.val 17)
  | .xor d a b => some (put (put (put 0x44000003 d.val 7) a.val 12) b.val 17)
  | .not d a => some (put (put 0x48000003 d.val 7) a.val 12)
  | .shl d a b => some (put (put (put 0x4C000003 d.val 7) a.val 12) b.val 17)
  | .shr d a b => some (put (put (put 0x50000003 d.val 7) a.val 12) b.val 17)
  | .sar d a b => some (put (put (put 0x54000003 d.val 7) a.val 12) b.val 17)
  | .rotl d a b => some (put (put (put 0x58000003 d.val 7) a.val 12) b.val 17)
  | .clz d a => some (put (put 0x5C000003 d.val 7) a.val 12)
  | .ctz d a => some (put (put 0x60000003 d.val 7) a.val 12)
  | .popc d a => some (put (put 0x64000003 d.val 7) a.val 12)
  | .brev d a => some (put (put 0x68000003 d.val 7) a.val 12)
  | .bext d a b => some (put (put (put 0x6C000003 d.val 7) a.val 12) b.val 17)
  | .bins d a b => some (put (put (put 0x70000003 d.val 7) a.val 12) b.val 17)
  | .bset d a b => some (put (put (put 0x74000003 d.val 7) a.val 12) b.val 17)
  | .bclr d a b => some (put (put (put 0x78000003 d.val 7) a.val 12) b.val 17)
  | .bflip d a b => some (put (put (put 0x7C000003 d.val 7) a.val 12) b.val 17)
  | .sext d a sz => some (put (put (put 0x80000003 d.val 7) a.val 12) sz.code 22)
  | .zext d a sz => some (put (put (put 0x84000003 d.val 7) a.val 12) sz.code 22)
  | .mov d a => some (put (put 0x88000003 d.val 7) a.val 12)
  | .cmp d a b => some (put (put (put 0x8C000003 d.val 7) a.val 12) b.val 17)
  | .pand d a b => some (put (put (put 0x90000003 d.val 7) a.val 12) b.val 17)
  | .por d a b => some (put (put (put 0x94000003 d.val 7) a.val 12) b.val 17)
  | .pxor d a b => some (put (put (put 0x98000003 d.val 7) a.val 12) b.val 17)
  | .addi d a imm => some (put (put (put 0x5 d.val 7) a.val 12) imm.toNat 17)
  | .andi d a imm => some (put (put (put 0x7 d.val 7) a.val 12) imm.toNat 17)
  | .ori d a imm => some (put (put (put 0x9 d.val 7) a.val 12) imm.toNat 17)
  | .xori d a imm => some (put (put (put 0xB d.val 7) a.val 12) imm.toNat 17)
  | .shli d a imm => some (put (put (put 0xD d.val 7) a.val 12) imm.toNat 17)
  | .shri d a imm => some (put (put (put 0xF d.val 7) a.val 12) imm.toNat 17)
  | .sari d a imm => some (put (put (put 0x11 d.val 7) a.val 12) imm.toNat 17)
  | .cmpi d a imm => some (put (put (put 0x13 d.val 7) a.val 12) imm.toNat 17)
  | .movi d imm => some (put (put 0x15 d.val 7) imm.toNat 12)
  | .movhi d imm => some (put (put 0x17 d.val 7) imm.toNat 12)
  | .bt r off n => some (put (put (put 0x80019 r.val 7) off.toNat 20) n.val 12)
  | .bf r off n => some (put (put (put 0x19 r.val 7) off.toNat 20) n.val 12)
  | .jmp off => some (put 0x1B off.toNat 7)
  | .jal off => some (put 0x1D off.toNat 7)
  | .jr a => some (put 0x1F a.val 12)
  | .jalr d a => some (put (put 0x400001F d.val 7) a.val 12)
  | .ret => some 0x800001F
  | .yield => some 0xC00001F
  | .nop => some 0x1000001F
  | .drill k s n => some (put (put (put 0x21 k.toNat 17) s.toNat 12) n.toNat 7)
  | .cgetaddr d a => some (put (put 0x23 d.val 7) a.val 12)
  | .cgetbase d a => some (put (put 0x4000023 d.val 7) a.val 12)
  | .cgetlen d a => some (put (put 0x8000023 d.val 7) a.val 12)
  | .cgetperm d a => some (put (put 0xC000023 d.val 7) a.val 12)
  | .cgettype d a => some (put (put 0x10000023 d.val 7) a.val 12)
  | .cgettag d a => some (put (put 0x14000023 d.val 7) a.val 12)
  | .csetaddr d a b => some (put (put (put 0x18000023 d.val 7) a.val 12) b.val 17)
  | .cincaddr d a b => some (put (put (put 0x1C000023 d.val 7) a.val 12) b.val 17)
  | .csetbounds d a b => some (put (put (put 0x20000023 d.val 7) a.val 12) b.val 17)
  | .csetboundsx d a b => some (put (put (put 0x24000023 d.val 7) a.val 12) b.val 17)
  | .candperm d a b => some (put (put (put 0x28000023 d.val 7) a.val 12) b.val 17)
  | .cseal d a b => some (put (put (put 0x2C000023 d.val 7) a.val 12) b.val 17)
  | .cunseal d a b => some (put (put (put 0x30000023 d.val 7) a.val 12) b.val 17)
  | .cclrtag d a => some (put (put 0x34000023 d.val 7) a.val 12)
  | .ctestsub d a b => some (put (put (put 0x38000023 d.val 7) a.val 12) b.val 17)
  | .cbuild d a b => some (put (put (put 0x3C000023 d.val 7) a.val 12) b.val 17)
  | .cincaddri d a imm => some (put (put (put 0x25 d.val 7) a.val 12) imm.toNat 17)
  | .ldB d a imm => some (put (put (put 0x27 d.val 7) a.val 12) imm.toNat 17)
  | .ldH d a imm => some (put (put (put 0x29 d.val 7) a.val 12) imm.toNat 17)
  | .ldW d a imm => some (put (put (put 0x2B d.val 7) a.val 12) imm.toNat 17)
  | .ldD d a imm => some (put (put (put 0x2D d.val 7) a.val 12) imm.toNat 17)
  | .ldQ d a imm => some (put (put (put 0x2F d.val 7) a.val 12) imm.toNat 17)
  | .ldzB d a imm => some (put (put (put 0x31 d.val 7) a.val 12) imm.toNat 17)
  | .ldzH d a imm => some (put (put (put 0x33 d.val 7) a.val 12) imm.toNat 17)
  | .ldzW d a imm => some (put (put (put 0x35 d.val 7) a.val 12) imm.toNat 17)
  | .ldC d a imm => some (put (put (put 0x37 d.val 7) a.val 12) imm.toNat 17)
  | .stB a b off => some (put (put (put (put 0x39 a.val 12) b.val 17) (off.toNat / 32) 22) (off.toNat % 32) 7)
  | .stH a b off => some (put (put (put (put 0x3B a.val 12) b.val 17) (off.toNat / 32) 22) (off.toNat % 32) 7)
  | .stW a b off => some (put (put (put (put 0x3D a.val 12) b.val 17) (off.toNat / 32) 22) (off.toNat % 32) 7)
  | .stD a b off => some (put (put (put (put 0x3F a.val 12) b.val 17) (off.toNat / 32) 22) (off.toNat % 32) 7)
  | .stQ a b off => some (put (put (put (put 0x41 a.val 12) b.val 17) (off.toNat / 32) 22) (off.toNat % 32) 7)
  | .stC a b off => some (put (put (put (put 0x43 a.val 12) b.val 17) (off.toNat / 32) 22) (off.toNat % 32) 7)
  | .lda d a sz s => some (put (put (put (put 0x45 d.val 7) a.val 12) sz.code 25) s.code 22)
  | .strl a b sz s => some (put (put (put (put 0x10000045 a.val 12) b.val 17) sz.code 25) s.code 22)
  | .amoadd d a b sz s => some (put (put (put (put (put 0x20000045 d.val 7) a.val 12) b.val 17) sz.code 25) s.code 22)
  | .amoswap d a b sz s => some (put (put (put (put (put 0x30000045 d.val 7) a.val 12) b.val 17) sz.code 25) s.code 22)
  | .amocas d a b sz s => some (put (put (put (put (put 0x40000045 d.val 7) a.val 12) b.val 17) sz.code 25) s.code 22)
  | .amocasq d a b s => some (put (put (put (put 0x58000045 d.val 7) a.val 12) b.val 17) s.code 22)
  | .amomin d a b sz s => some (put (put (put (put (put 0x60000045 d.val 7) a.val 12) b.val 17) sz.code 25) s.code 22)
  | .amomax d a b sz s => some (put (put (put (put (put 0x70000045 d.val 7) a.val 12) b.val 17) sz.code 25) s.code 22)
  | .amominn d a b sz s => some (put (put (put (put (put 0x80000045 d.val 7) a.val 12) b.val 17) sz.code 25) s.code 22)
  | .amomaxn d a b sz s => some (put (put (put (put (put 0x90000045 d.val 7) a.val 12) b.val 17) sz.code 25) s.code 22)
  | .amoand d a b sz s => some (put (put (put (put (put 0xA0000045 d.val 7) a.val 12) b.val 17) sz.code 25) s.code 22)
  | .amoor d a b sz s => some (put (put (put (put (put 0xB0000045 d.val 7) a.val 12) b.val 17) sz.code 25) s.code 22)
  | .amoxor d a b sz s => some (put (put (put (put (put 0xC0000045 d.val 7) a.val 12) b.val 17) sz.code 25) s.code 22)
  | .fence k s => some (put (put 0x47 k.code 25) s.code 22)
  | .fsc s => some (put 0x10000047 s.code 22)
  | .sheaf => some 0x20000047
  | .cinv a b => some (put (put 0x30C00047 a.val 12) b.val 17)
  | .cinvAll => some 0x32C00047
  | .cwb a b => some (put (put 0x40C00047 a.val 12) b.val 17)
  | .cwbAll => some 0x42C00047
  | .pfL1 a => some (put 0x50000047 a.val 12)
  | .pfL2 a => some (put 0x52000047 a.val 12)
  | .sbind d a p tm => some (put (put (put (put 0x49 d.val 7) a.val 12) p.toNat 21) tm.val 17)
  | .sbindch d a p h => some (put (put (put (put 0x8000049 d.val 7) a.val 12) p.toNat 21) h.val 17)
  | .sfree a => some (put 0x10000049 a.val 12)
  | .sstat d a => some (put (put 0x18000049 d.val 7) a.val 12)
  | .sstatCh d h => some (put (put 0x18200049 d.val 7) h.val 17)
  | .sskip a n => some (put (put 0x20000049 a.val 12) n.val 21)
  | .cbinit d a h => some (put (put (put 0x4B d.val 7) a.val 12) h.val 17)
  | .cbwait d a h => some (put (put (put 0x800004B d.val 7) a.val 12) h.val 17)
  | .cbfree d a h => some (put (put (put 0x1000004B d.val 7) a.val 12) h.val 17)
  | .cbadv a h => some (put (put 0x1800004B a.val 12) h.val 17)
  | .cbcomm a h => some (put (put 0x2000004B a.val 12) h.val 17)
  | .epush a f => some (put (put 0x4D a.val 12) f.code 21)
  | .epop d f => some (put (put 0x800004D d.val 7) f.code 21)
  | .epeek d f => some (put (put 0x1000004D d.val 7) f.code 21)
  | .estat d f => some (put (put 0x1800004D d.val 7) f.code 21)
  | .fadd d a b t => some (put (put (put (put 0x4F d.val 7) a.val 12) b.val 17) t.code 22)
  | .fsub d a b t => some (put (put (put (put 0x400004F d.val 7) a.val 12) b.val 17) t.code 22)
  | .fmul d a b t => some (put (put (put (put 0x800004F d.val 7) a.val 12) b.val 17) t.code 22)
  | .fma d a b t => some (put (put (put (put 0xC00004F d.val 7) a.val 12) b.val 17) t.code 22)
  | .fms d a b t => some (put (put (put (put 0x1000004F d.val 7) a.val 12) b.val 17) t.code 22)
  | .fnma d a b t => some (put (put (put (put 0x1400004F d.val 7) a.val 12) b.val 17) t.code 22)
  | .fmin d a b t => some (put (put (put (put 0x1800004F d.val 7) a.val 12) b.val 17) t.code 22)
  | .fmax d a b t => some (put (put (put (put 0x1C00004F d.val 7) a.val 12) b.val 17) t.code 22)
  | .fabs d a t => some (put (put (put 0x2000004F d.val 7) a.val 12) t.code 22)
  | .fneg d a t => some (put (put (put 0x2400004F d.val 7) a.val 12) t.code 22)
  | .fdiv d a b t => some (put (put (put (put 0x2800004F d.val 7) a.val 12) b.val 17) t.code 22)
  | .fsqrt d a t => some (put (put (put 0x2C00004F d.val 7) a.val 12) t.code 22)
  | .fcmp d a b t => some (put (put (put (put 0x3000004F d.val 7) a.val 12) b.val 17) t.code 22)
  | .fclass d a t => some (put (put (put 0x3400004F d.val 7) a.val 12) t.code 22)
  | .fcvt d a t s => some (put (put (put (put 0x3800004F d.val 7) a.val 12) t.code 22) s.code 17)
  | .fcvti d a t z s => some (put (put (put (put (put 0x3C00004F d.val 7) a.val 12) t.code 22) z.toNat 21) s.code 17)
  | .icvtf d a t s => some (put (put (put (put 0x4000004F d.val 7) a.val 12) t.code 22) s.code 17)
  | .vadd d a b t => some (put (put (put (put 0x51 d.val 7) a.val 12) b.val 17) t.code 22)
  | .vsub d a b t => some (put (put (put (put 0x4000051 d.val 7) a.val 12) b.val 17) t.code 22)
  | .vmul d a b t => some (put (put (put (put 0x8000051 d.val 7) a.val 12) b.val 17) t.code 22)
  | .vfma d a b t => some (put (put (put (put 0xC000051 d.val 7) a.val 12) b.val 17) t.code 22)
  | .vmin d a b t => some (put (put (put (put 0x10000051 d.val 7) a.val 12) b.val 17) t.code 22)
  | .vmax d a b t => some (put (put (put (put 0x14000051 d.val 7) a.val 12) b.val 17) t.code 22)
  | .vscale d a b t => some (put (put (put (put 0x18000051 d.val 7) a.val 12) b.val 17) t.code 22)
  | .vdot d a b t => some (put (put (put (put 0x1C000051 d.val 7) a.val 12) b.val 17) t.code 22)
  | .vsum d a t => some (put (put (put 0x20000051 d.val 7) a.val 12) t.code 22)
  | .vrmax d a t => some (put (put (put 0x24000051 d.val 7) a.val 12) t.code 22)
  | .vcvt d a t s => some (put (put (put (put 0x28000051 d.val 7) a.val 12) t.code 22) s.code 17)
  | .vpack d a b t => some (put (put (put (put 0x2C000051 d.val 7) a.val 12) b.val 17) t.code 22)
  | .vunpack d a t h s => some (put (put (put (put (put 0x30000051 d.val 7) a.val 12) t.code 22) h.toNat 21) s.code 17)
  | .vsel d a b t => some (put (put (put (put 0x34000051 d.val 7) a.val 12) b.val 17) t.code 22)
  | .vcmp d a b t => some (put (put (put (put 0x38000051 d.val 7) a.val 12) b.val 17) t.code 22)
  | .vshuf d a b t => some (put (put (put (put 0x3C000051 d.val 7) a.val 12) b.val 17) t.code 22)
  | .vbcast d a t => some (put (put (put 0x40000051 d.val 7) a.val 12) t.code 22)
  | .vexp2 d a t => some (put (put (put 0x53 d.val 7) a.val 12) t.code 22)
  | .vlog2 d a t => some (put (put (put 0x4000053 d.val 7) a.val 12) t.code 22)
  | .vrcp d a t => some (put (put (put 0x8000053 d.val 7) a.val 12) t.code 22)
  | .vrsqrt d a t => some (put (put (put 0xC000053 d.val 7) a.val 12) t.code 22)
  | .vtanh d a t => some (put (put (put 0x10000053 d.val 7) a.val 12) t.code 22)
  | .vsin d a t => some (put (put (put 0x14000053 d.val 7) a.val 12) t.code 22)
  | .vtopk d a b => some (put (put (put 0x1A000053 d.val 7) a.val 12) b.val 17)
  | .vamax d a t => some (put (put (put 0x1C000053 d.val 7) a.val 12) t.code 22)
  | .vquant d a b t => some (put (put (put (put 0x20000053 d.val 7) a.val 12) b.val 17) t.code 22)
  | .vdeq d a b t => some (put (put (put (put 0x24000053 d.val 7) a.val 12) b.val 17) t.code 22)
  | .send r a b => some (put (put (put 0x55 r.val 7) a.val 12) b.val 17)
  | .sendv r a b => some (put (put (put 0x4000055 r.val 7) a.val 12) b.val 17)
  | .spawn d a b => some (put (put (put 0x8000055 d.val 7) a.val 12) b.val 17)
  | .tdec a b => some (put (put 0xC000055 a.val 12) b.val 17)
  | .tarm a b => some (put (put 0x10000055 a.val 12) b.val 17)
  | .tarmSp a => some (put 0x10400055 a.val 12)
  | .tend => some 0x14000055
  | .tself d => some (put 0x18000055 d.val 7)
  | .stageTask d a b => some (put (put (put 0x1C000055 d.val 7) a.val 12) b.val 17)
  | .succ a b => some (put (put 0x20000055 a.val 12) b.val 17)
  | .bar n => some (put 0x24000055 n.val 22)
  | .wdog => some 0x28000055
  | .hpack d a n => some (put (put (put 0x2C000055 d.val 7) a.val 12) n.val 22)
  | .hparse d a n => some (put (put (put 0x30000055 d.val 7) a.val 12) n.val 22)
  | .hlay => some 0x34000055
  | .hload a tm => some (put (put 0x57 a.val 12) tm.val 17)
  | .hswap => some 0x8000057
  | .hgo d a imm tm => some (put (put (put (put 0x10000057 d.val 7) a.val 12) imm.toNat 21) tm.val 17)
  | .hzero a => some (put 0x18000057 a.val 12)
  | .hdrain d a f => some (put (put (put 0x20000057 d.val 7) a.val 12) f.toNat 21)
  | .hwait a done => some (put (put 0x28000057 a.val 12) done.toNat 21)
  | .hstat d => some (put 0x30000057 d.val 7)
  | .haccRd d a => some (put (put 0x38000057 d.val 7) a.val 12)
  | .haccWr d a => some (put (put 0x38200057 d.val 7) a.val 12)
  | .hsetClr a => some (put 0x40000057 a.val 12)
  | .hsetDiscard => some 0x40200057
  | .sys a b => some (put (put 0x59 a.val 12) b.val 17)
  | .brk => some 0x4000059
  | .xret => some 0x8000059
  | .idle a => some (put 0xC000059 a.val 12)
  | .halt => some 0x10000059
  | .vfence a s k => some (put (put (put 0x14000059 a.val 12) s.code 24) k.code 22)
  | .ctxsave => some 0x18000059
  | .ctxload a => some (put 0x1C000059 a.val 12)
  | .migr d a => some (put (put 0x20000059 d.val 7) a.val 12)
  | .pwreq a => some (put 0x24000059 a.val 12)
  | .pwrel => some 0x28000059
  | .crr d c => some (put (put 0x5B d.val 7) c.toNat 17)
  | .crw d a c => some (put (put (put 0x2000005B d.val 7) a.val 12) c.toNat 17)
  | .crs d a c => some (put (put (put 0x4000005B d.val 7) a.val 12) c.toNat 17)
  | .crc d a c => some (put (put (put 0x6000005B d.val 7) a.val 12) c.toNat 17)
  | .wopen d a b => some (put (put (put 0x5D d.val 7) a.val 12) b.val 17)
  | .wclose a => some (put 0x400005D a.val 12)
  | .wcall d a b => some (put (put (put 0x800005D d.val 7) a.val 12) b.val 17)
  | .wtok s a b => some (put (put (put 0xC00005D s.val 7) a.val 12) b.val 17)
  | .wreq s a b e => some (put (put (put (put 0x1000005D s.val 7) a.val 12) b.val 17) e.toNat 22)
  | .wcheck d a b k => some (put (put (put (put 0x1400005D d.val 7) a.val 12) b.val 17) k.val 22)
  | .wretire d a => some (put (put 0x1800005D d.val 7) a.val 12)
  | .wrewind a b k => some (put (put (put 0x1C00005D a.val 12) b.val 17) k.val 22)
  | .wstat d a => some (put (put 0x2000005D d.val 7) a.val 12)
  | .wstatSmp d a => some (put (put 0x2040005D d.val 7) a.val 12)
  | .wstatP d a m => some (put (put (put 0x2000005D d.val 7) a.val 12) (m.val + 2) 22)
  | .mov16 d b => some (put (put 0x0 d.val 3) b.val 8)
  | .add16 d b => some (put (put 0x2000 d.val 3) b.val 8)
  | .sub16 d b => some (put (put 0x4000 d.val 3) b.val 8)
  | .and16 d b => some (put (put 0x6000 d.val 3) b.val 8)
  | .or16 d b => some (put (put 0x8000 d.val 3) b.val 8)
  | .xor16 d b => some (put (put 0xA000 d.val 3) b.val 8)
  | .shl16 d b => some (put (put 0xC000 d.val 3) b.val 8)
  | .shr16 d b => some (put (put 0xE000 d.val 3) b.val 8)
  | .addi16 d imm => some (put (put 0x2 d.val 3) imm.toNat 8)
  | .movi16 d imm => some (put (put 0x4002 d.val 3) imm.toNat 8)
  | .ldD16 d imm => some (put (put 0x8002 d.val 3) imm.toNat 8)
  | .stD16 d imm => some (put (put 0xC002 d.val 3) imm.toNat 8)
  | .jmp16 off => some (put 0x4 off.toNat 3)
  | .jr16 a => some (put 0x4004 a.val 3)
  | .jalr16 a => some (put 0x4104 a.val 3)
  | .nop16 => some 0x8004
  | .yield16 => some 0x800C
  | .ret16 => some 0x8014
  | .whenSet r n => some (put (put 0xE r.val 4) n.val 9)
  | .unlessSet r n => some (put (put 0x6 r.val 4) n.val 9)
  | .asyncCauseDelivery | .watchdogExpiry | .idleEnd | .dispatch | .firingStart | .yokeMove
  | .messageRouterCheck | .messageTask | .messageSpawn | .messageSpawnAnswer | .messageTdec | .messageCredit
  | .messageRemoteWindow | .messageLaunch | .messageUnusedKind | .messageHoldRelease | .scrubComplete
  | .successorHandoff | .barrierPhaseComplete | .sheafCommit | .soloGrant | .lineEviction
  | .streamElementFetch | .streamElementDrain | .copy | .fill | .xcopy | .gather | .scatter | .quernOpen
  | .quernEncode | .quernStep | .quernMask | .quernReservedCommand | .allreduce | .allgather | .reducescatter
  | .broadcast | .collBarrier | .mailboxSend | .mailboxRecv | .engineResultReturn | .windrowRequestSend
  | .hloadComplete | .harrowOperationBegin | .operandsConsumed | .accumulatorRowFinal | .operationDone
  | .drainRowWrite | .drainWakeup | .headlandGrant | .thermalThrottle | .thermalRecover | .thermalTrip
  | .moduleReset | .rotRelease | .measurementRegister4Write | .stileStart | .svcWrite | .pcapWrite | .haltend
  | .releaseHeld | .preemptWrite | .resumeWrite | .fqheadWrite | .sqheadWrite | .krheadWrite | .submeshWrite
  | .kvDescriptorWrite | .tbindWrite | .ownreqToHost | .ownreqToDevice | .ownershipFlipComplete | .rekey
  | .dissolve | .systemRegisterWrite | .inPush | .inStatRead | .outAck | .extfenceRead | .hostMemRead
  | .hostMemWrite | .hostSnoop | .fabricPacketReceive | .markReceive | .rekeySwitch | .removeReceive
  | .enclaveCreate | .enclaveEnd | .clusterSwitch | .handoverSeal | .handoverSent | .handoverConfirm
  | .handoverFail | .handoverAuthorise | .handoverRefuse | .spdmGetVersion | .spdmGetCapabilities
  | .spdmNegotiateAlgorithms | .spdmGetDigests | .spdmGetCertificate | .spdmChallenge | .spdmGetMeasurements
  | .spdmKeyExchange | .spdmFinish | .spdmKeyUpdate | .spdmHeartbeat | .spdmEndSession
  | .spdmUnsupportedRequest | .harrowEndCycle | .uncorrectableMemoryError | .hostLinkDown | .hostLinkUp
  | .hdmDecoderWrite | .hostBarRegisterWrite => none

/-- The instruction with every register field passed through `tr` (R112: the stagger of a drill pass). Registers that a
form names implicitly, and immediates, are unchanged. -/
def Instr.mapRegs (tr : RegIdx → RegIdx) : Instr → Instr
  | .add d a b m => .add (tr d) (tr a) (tr b) m
  | .sub d a b m => .sub (tr d) (tr a) (tr b) m
  | .neg d a m => .neg (tr d) (tr a) m
  | .mul d a b m => .mul (tr d) (tr a) (tr b) m
  | .mulh d a b => .mulh (tr d) (tr a) (tr b)
  | .mulhn d a b => .mulhn (tr d) (tr a) (tr b)
  | .div d a b => .div (tr d) (tr a) (tr b)
  | .divn d a b => .divn (tr d) (tr a) (tr b)
  | .rem d a b => .rem (tr d) (tr a) (tr b)
  | .remn d a b => .remn (tr d) (tr a) (tr b)
  | .min d a b => .min (tr d) (tr a) (tr b)
  | .max d a b => .max (tr d) (tr a) (tr b)
  | .minn d a b => .minn (tr d) (tr a) (tr b)
  | .maxn d a b => .maxn (tr d) (tr a) (tr b)
  | .abs d a m => .abs (tr d) (tr a) m
  | .and d a b => .and (tr d) (tr a) (tr b)
  | .or d a b => .or (tr d) (tr a) (tr b)
  | .xor d a b => .xor (tr d) (tr a) (tr b)
  | .not d a => .not (tr d) (tr a)
  | .shl d a b => .shl (tr d) (tr a) (tr b)
  | .shr d a b => .shr (tr d) (tr a) (tr b)
  | .sar d a b => .sar (tr d) (tr a) (tr b)
  | .rotl d a b => .rotl (tr d) (tr a) (tr b)
  | .clz d a => .clz (tr d) (tr a)
  | .ctz d a => .ctz (tr d) (tr a)
  | .popc d a => .popc (tr d) (tr a)
  | .brev d a => .brev (tr d) (tr a)
  | .bext d a b => .bext (tr d) (tr a) (tr b)
  | .bins d a b => .bins (tr d) (tr a) (tr b)
  | .bset d a b => .bset (tr d) (tr a) (tr b)
  | .bclr d a b => .bclr (tr d) (tr a) (tr b)
  | .bflip d a b => .bflip (tr d) (tr a) (tr b)
  | .sext d a sz => .sext (tr d) (tr a) sz
  | .zext d a sz => .zext (tr d) (tr a) sz
  | .mov d a => .mov (tr d) (tr a)
  | .cmp d a b => .cmp (tr d) (tr a) (tr b)
  | .pand d a b => .pand (tr d) (tr a) (tr b)
  | .por d a b => .por (tr d) (tr a) (tr b)
  | .pxor d a b => .pxor (tr d) (tr a) (tr b)
  | .addi d a imm => .addi (tr d) (tr a) imm
  | .andi d a imm => .andi (tr d) (tr a) imm
  | .ori d a imm => .ori (tr d) (tr a) imm
  | .xori d a imm => .xori (tr d) (tr a) imm
  | .shli d a imm => .shli (tr d) (tr a) imm
  | .shri d a imm => .shri (tr d) (tr a) imm
  | .sari d a imm => .sari (tr d) (tr a) imm
  | .cmpi d a imm => .cmpi (tr d) (tr a) imm
  | .movi d imm => .movi (tr d) imm
  | .movhi d imm => .movhi (tr d) imm
  | .bt r off n => .bt (tr r) off n
  | .bf r off n => .bf (tr r) off n
  | .jr a => .jr (tr a)
  | .jalr d a => .jalr (tr d) (tr a)
  | .cgetaddr d a => .cgetaddr (tr d) (tr a)
  | .cgetbase d a => .cgetbase (tr d) (tr a)
  | .cgetlen d a => .cgetlen (tr d) (tr a)
  | .cgetperm d a => .cgetperm (tr d) (tr a)
  | .cgettype d a => .cgettype (tr d) (tr a)
  | .cgettag d a => .cgettag (tr d) (tr a)
  | .csetaddr d a b => .csetaddr (tr d) (tr a) (tr b)
  | .cincaddr d a b => .cincaddr (tr d) (tr a) (tr b)
  | .csetbounds d a b => .csetbounds (tr d) (tr a) (tr b)
  | .csetboundsx d a b => .csetboundsx (tr d) (tr a) (tr b)
  | .candperm d a b => .candperm (tr d) (tr a) (tr b)
  | .cseal d a b => .cseal (tr d) (tr a) (tr b)
  | .cunseal d a b => .cunseal (tr d) (tr a) (tr b)
  | .cclrtag d a => .cclrtag (tr d) (tr a)
  | .ctestsub d a b => .ctestsub (tr d) (tr a) (tr b)
  | .cbuild d a b => .cbuild (tr d) (tr a) (tr b)
  | .cincaddri d a imm => .cincaddri (tr d) (tr a) imm
  | .ldB d a imm => .ldB (tr d) (tr a) imm
  | .ldH d a imm => .ldH (tr d) (tr a) imm
  | .ldW d a imm => .ldW (tr d) (tr a) imm
  | .ldD d a imm => .ldD (tr d) (tr a) imm
  | .ldQ d a imm => .ldQ (tr d) (tr a) imm
  | .ldzB d a imm => .ldzB (tr d) (tr a) imm
  | .ldzH d a imm => .ldzH (tr d) (tr a) imm
  | .ldzW d a imm => .ldzW (tr d) (tr a) imm
  | .ldC d a imm => .ldC (tr d) (tr a) imm
  | .stB a b off => .stB (tr a) (tr b) off
  | .stH a b off => .stH (tr a) (tr b) off
  | .stW a b off => .stW (tr a) (tr b) off
  | .stD a b off => .stD (tr a) (tr b) off
  | .stQ a b off => .stQ (tr a) (tr b) off
  | .stC a b off => .stC (tr a) (tr b) off
  | .lda d a sz s => .lda (tr d) (tr a) sz s
  | .strl a b sz s => .strl (tr a) (tr b) sz s
  | .amoadd d a b sz s => .amoadd (tr d) (tr a) (tr b) sz s
  | .amoswap d a b sz s => .amoswap (tr d) (tr a) (tr b) sz s
  | .amocas d a b sz s => .amocas (tr d) (tr a) (tr b) sz s
  | .amocasq d a b s => .amocasq (tr d) (tr a) (tr b) s
  | .amomin d a b sz s => .amomin (tr d) (tr a) (tr b) sz s
  | .amomax d a b sz s => .amomax (tr d) (tr a) (tr b) sz s
  | .amominn d a b sz s => .amominn (tr d) (tr a) (tr b) sz s
  | .amomaxn d a b sz s => .amomaxn (tr d) (tr a) (tr b) sz s
  | .amoand d a b sz s => .amoand (tr d) (tr a) (tr b) sz s
  | .amoor d a b sz s => .amoor (tr d) (tr a) (tr b) sz s
  | .amoxor d a b sz s => .amoxor (tr d) (tr a) (tr b) sz s
  | .cinv a b => .cinv (tr a) (tr b)
  | .cwb a b => .cwb (tr a) (tr b)
  | .pfL1 a => .pfL1 (tr a)
  | .pfL2 a => .pfL2 (tr a)
  | .sbind d a p tm => .sbind (tr d) (tr a) p tm
  | .sbindch d a p h => .sbindch (tr d) (tr a) p h
  | .sfree a => .sfree (tr a)
  | .sstat d a => .sstat (tr d) (tr a)
  | .sstatCh d h => .sstatCh (tr d) h
  | .sskip a n => .sskip (tr a) n
  | .cbinit d a h => .cbinit (tr d) (tr a) h
  | .cbwait d a h => .cbwait (tr d) (tr a) h
  | .cbfree d a h => .cbfree (tr d) (tr a) h
  | .cbadv a h => .cbadv (tr a) h
  | .cbcomm a h => .cbcomm (tr a) h
  | .epush a f => .epush (tr a) f
  | .epop d f => .epop (tr d) f
  | .epeek d f => .epeek (tr d) f
  | .estat d f => .estat (tr d) f
  | .fadd d a b t => .fadd (tr d) (tr a) (tr b) t
  | .fsub d a b t => .fsub (tr d) (tr a) (tr b) t
  | .fmul d a b t => .fmul (tr d) (tr a) (tr b) t
  | .fma d a b t => .fma (tr d) (tr a) (tr b) t
  | .fms d a b t => .fms (tr d) (tr a) (tr b) t
  | .fnma d a b t => .fnma (tr d) (tr a) (tr b) t
  | .fmin d a b t => .fmin (tr d) (tr a) (tr b) t
  | .fmax d a b t => .fmax (tr d) (tr a) (tr b) t
  | .fabs d a t => .fabs (tr d) (tr a) t
  | .fneg d a t => .fneg (tr d) (tr a) t
  | .fdiv d a b t => .fdiv (tr d) (tr a) (tr b) t
  | .fsqrt d a t => .fsqrt (tr d) (tr a) t
  | .fcmp d a b t => .fcmp (tr d) (tr a) (tr b) t
  | .fclass d a t => .fclass (tr d) (tr a) t
  | .fcvt d a t s => .fcvt (tr d) (tr a) t s
  | .fcvti d a t z s => .fcvti (tr d) (tr a) t z s
  | .icvtf d a t s => .icvtf (tr d) (tr a) t s
  | .vadd d a b t => .vadd (tr d) (tr a) (tr b) t
  | .vsub d a b t => .vsub (tr d) (tr a) (tr b) t
  | .vmul d a b t => .vmul (tr d) (tr a) (tr b) t
  | .vfma d a b t => .vfma (tr d) (tr a) (tr b) t
  | .vmin d a b t => .vmin (tr d) (tr a) (tr b) t
  | .vmax d a b t => .vmax (tr d) (tr a) (tr b) t
  | .vscale d a b t => .vscale (tr d) (tr a) (tr b) t
  | .vdot d a b t => .vdot (tr d) (tr a) (tr b) t
  | .vsum d a t => .vsum (tr d) (tr a) t
  | .vrmax d a t => .vrmax (tr d) (tr a) t
  | .vcvt d a t s => .vcvt (tr d) (tr a) t s
  | .vpack d a b t => .vpack (tr d) (tr a) (tr b) t
  | .vunpack d a t h s => .vunpack (tr d) (tr a) t h s
  | .vsel d a b t => .vsel (tr d) (tr a) (tr b) t
  | .vcmp d a b t => .vcmp (tr d) (tr a) (tr b) t
  | .vshuf d a b t => .vshuf (tr d) (tr a) (tr b) t
  | .vbcast d a t => .vbcast (tr d) (tr a) t
  | .vexp2 d a t => .vexp2 (tr d) (tr a) t
  | .vlog2 d a t => .vlog2 (tr d) (tr a) t
  | .vrcp d a t => .vrcp (tr d) (tr a) t
  | .vrsqrt d a t => .vrsqrt (tr d) (tr a) t
  | .vtanh d a t => .vtanh (tr d) (tr a) t
  | .vsin d a t => .vsin (tr d) (tr a) t
  | .vtopk d a b => .vtopk (tr d) (tr a) (tr b)
  | .vamax d a t => .vamax (tr d) (tr a) t
  | .vquant d a b t => .vquant (tr d) (tr a) (tr b) t
  | .vdeq d a b t => .vdeq (tr d) (tr a) (tr b) t
  | .send r a b => .send (tr r) (tr a) (tr b)
  | .sendv r a b => .sendv (tr r) (tr a) (tr b)
  | .spawn d a b => .spawn (tr d) (tr a) (tr b)
  | .tdec a b => .tdec (tr a) (tr b)
  | .tarm a b => .tarm (tr a) (tr b)
  | .tarmSp a => .tarmSp (tr a)
  | .tself d => .tself (tr d)
  | .stageTask d a b => .stageTask (tr d) (tr a) (tr b)
  | .succ a b => .succ (tr a) (tr b)
  | .hpack d a n => .hpack (tr d) (tr a) n
  | .hparse d a n => .hparse (tr d) (tr a) n
  | .hload a tm => .hload (tr a) tm
  | .hgo d a imm tm => .hgo (tr d) (tr a) imm tm
  | .hzero a => .hzero (tr a)
  | .hdrain d a f => .hdrain (tr d) (tr a) f
  | .hwait a done => .hwait (tr a) done
  | .hstat d => .hstat (tr d)
  | .haccRd d a => .haccRd (tr d) (tr a)
  | .haccWr d a => .haccWr (tr d) (tr a)
  | .hsetClr a => .hsetClr (tr a)
  | .sys a b => .sys (tr a) (tr b)
  | .idle a => .idle (tr a)
  | .vfence a s k => .vfence (tr a) s k
  | .ctxload a => .ctxload (tr a)
  | .migr d a => .migr (tr d) (tr a)
  | .pwreq a => .pwreq (tr a)
  | .crr d c => .crr (tr d) c
  | .crw d a c => .crw (tr d) (tr a) c
  | .crs d a c => .crs (tr d) (tr a) c
  | .crc d a c => .crc (tr d) (tr a) c
  | .wopen d a b => .wopen (tr d) (tr a) (tr b)
  | .wclose a => .wclose (tr a)
  | .wcall d a b => .wcall (tr d) (tr a) (tr b)
  | .wtok s a b => .wtok (tr s) (tr a) (tr b)
  | .wreq s a b e => .wreq (tr s) (tr a) (tr b) e
  | .wcheck d a b k => .wcheck (tr d) (tr a) (tr b) k
  | .wretire d a => .wretire (tr d) (tr a)
  | .wrewind a b k => .wrewind (tr a) (tr b) k
  | .wstat d a => .wstat (tr d) (tr a)
  | .wstatSmp d a => .wstatSmp (tr d) (tr a)
  | .wstatP d a m => .wstatP (tr d) (tr a) m
  | .mov16 d b => .mov16 (tr d) (tr b)
  | .add16 d b => .add16 (tr d) (tr b)
  | .sub16 d b => .sub16 (tr d) (tr b)
  | .and16 d b => .and16 (tr d) (tr b)
  | .or16 d b => .or16 (tr d) (tr b)
  | .xor16 d b => .xor16 (tr d) (tr b)
  | .shl16 d b => .shl16 (tr d) (tr b)
  | .shr16 d b => .shr16 (tr d) (tr b)
  | .addi16 d imm => .addi16 (tr d) imm
  | .movi16 d imm => .movi16 (tr d) imm
  | .ldD16 d imm => .ldD16 (tr d) imm
  | .stD16 d imm => .stD16 (tr d) imm
  | .jr16 a => .jr16 (tr a)
  | .jalr16 a => .jalr16 (tr a)
  | .whenSet r n => .whenSet (tr r) n
  | .unlessSet r n => .unlessSet (tr r) n
  | i => i

/-- The stagger of a register field in a pass whose p × stride mod 16 is `k` (R112). -/
def stagger (k : Nat) (r : RegIdx) : RegIdx :=
  if h : 8 ≤ r.val ∧ r.val ≤ 23 then ⟨8 + (r.val - 8 + k) % 16, by omega⟩ else r

end Sys2Proof
end

