-- ==== Sys2Proof/Machine/Bits.lean ====
section
/-! DEFINITION. Bit fields, sign extension, byte order, and the values of registers that the instructions read and
write (R51, R91). -/

namespace Sys2Proof.Machine

/-- Bits [63:0] of a register value. -/
def d64 (q : Q) : D := q.setWidth 64

/-- Bits [63:0] read as a signed integer (R91). -/
def s64 (q : Q) : Int := (d64 q).toInt

/-- Bits [63:0] read as an unsigned integer (R91). -/
def n64 (q : Q) : Nat := (d64 q).toNat

/-- What wr64 writes: v mod 2^64, with bit 63 copied into bits [127:64] (R91). -/
def wr64 (v : Int) : Q := (BitVec.ofInt 64 v).signExtend 128

/-- wr64 of a doubleword. -/
def wrD (v : D) : Q := v.signExtend 128

/-- Bits [lo+n-1:lo] of a register value as a number. -/
def bits (q : Q) (lo n : Nat) : Nat := q.toNat / 2 ^ lo % 2 ^ n

/-- A number read as a signed integer of `w` bits. -/
def signed (w v : Nat) : Int := if v % 2 ^ w < 2 ^ (w - 1) then (v % 2 ^ w : Nat) else (v % 2 ^ w : Nat) - (2 ^ w : Nat)

/-- An integer as an unsigned number of `w` bits. -/
def wrap (w : Nat) (v : Int) : Nat := (v % (2 ^ w : Nat)).toNat

/-- The number that bytes hold, little-endian (R3). -/
def ofBytes : List Byte → Nat
  | [] => 0
  | b :: t => b.toNat + 2 ^ 8 * ofBytes t

/-- 128 bits from 16 bytes. -/
def qOfBytes (l : List Byte) : Q := BitVec.ofNat 128 (ofBytes l)

/-- The 16 bytes of 128 bits. -/
def qBytes (q : Q) : List Byte := leBytes 16 q.toNat

/-- A number as a 128-bit value. -/
def q (v : Nat) : Q := BitVec.ofNat 128 v

/-- Lane `i` of width `w` (R51). -/
def lane (v : Q) (w i : Nat) : Nat := bits v (w * i) w

/-- 128 bits from lanes of width `w`, lane 0 first. -/
def ofLanes (w : Nat) : List Nat → Nat
  | [] => 0
  | l :: t => l % 2 ^ w + 2 ^ w * ofLanes w t

/-- The numbers from `a` up to but not including `a + n`. -/
def upFrom : Nat → Nat → List Nat
  | _, 0 => []
  | a, n + 1 => a :: upFrom (a + 1) n

/-- The number of times that `n` can be halved before it is 0: the length of `n` in bits. -/
def bitLength : Nat → Nat → Nat
  | 0, _ => 0
  | fuel + 1, n => if n = 0 then 0 else 1 + bitLength fuel (n / 2)

/-- DIE of a coordinate field (R19). -/
def dieOf (c : CoreId) : Nat := c.toNat / 1024

/-- CLUSTER of a coordinate field. -/
def clusterOf (c : CoreId) : Nat := c.toNat / 16 % 64

/-- CORE of a coordinate field. -/
def coreOf (c : CoreId) : Nat := c.toNat % 16

/-- The grid position x of a cluster (R9). -/
def gridX (c : CoreId) : Nat := 8 * (dieOf c % 4) + clusterOf c % 8

/-- The grid position y of a cluster (R9). -/
def gridY (c : CoreId) : Nat := 8 * (dieOf c / 4) + clusterOf c / 8

/-- The cluster at a grid position, as the coordinates of its core 0 (R9). -/
def clusterAt (x y : Nat) : Nat := (x / 8 + 4 * (y / 8)) * 1024 + (x % 8 + 8 * (y % 8)) * 16

end Sys2Proof.Machine
end

