-- ==== Sys2Proof/Machine/State.lean ====
section
/-! DEFINITION. The state of the machine as plain data, and the machine right after reset. The parts follow the
levels of Table 1.5: a slot, the core with its four slots, the row with its harrow, the cluster, the compute die,
the module. Where several things are held sparsely (memory bytes, tags, registers of system space), they are
lists of pairs in one canonical form: keys rising, no entry equal to what an unlisted key reads as. -/

namespace Sys2Proof.Machine

/-- A sparse table: keys rising, no entry equal to the default of the table. -/
abbrev Table (α : Type) := List (Nat × α)

/-! ### One slot -/

/-- The privilege levels (R278). -/
inductive Level where | user | supervisor | monitor
  deriving DecidableEq, Repr, Inhabited

/-- The trap registers of one level (Tables 5.11 to 5.13): `xpc`, `xcause`, `xval`, `xval2`, `xstat`, `xvec`. -/
structure TrapRegs where
  pc    : Reg
  cause : BitVec 16
  val   : Q
  val2  : Q
  stat  : BitVec 22
  vec   : Reg
  deriving DecidableEq, Repr, Inhabited

/-- What a slot waits for (R222). A wait ends when its condition holds; the waiting instruction then goes on. -/
inductive Wait where
  /-- the drill buffer (R113) -/
  | drillBuffer
  /-- a free ready-ring entry (R218) -/
  | ringEntry
  /-- a free place in the network interface (R227) -/
  | netPlace
  /-- the arrival of the core's own earlier writes, through the remote window, of some of `n` bytes at `loc` (R171). DEDUCED
  (log entry 71). -/
  | landing (loc n : Nat)
  /-- an arrived element of a read port (R53) -/
  | element (port : Fin 8)
  /-- a free buffer place, or a free ring slot, of a write port (R148, R150) -/
  | place (port : Fin 8)
  /-- the commit of the sheaf in which another slot has freed a port (R164). DEDUCED (log entry 57). -/
  | freed (port : Fin 8)
  /-- every pushed element of a write port stored (R151) -/
  | drained (port : Fin 8)
  /-- FILLED of a handle at or above a count (R156) -/
  | filled (h : Fin 16) (n : Nat)
  /-- FREE of a handle at or above a count (R156) -/
  | vacant (h : Fin 16) (n : Nat)
  /-- a result element (R157) -/
  | result (f : Fifo)
  /-- a place in an engine's input queue (R158) -/
  | input (f : Fifo)
  /-- the end of a phase of a gang barrier (R232) -/
  | barrier (n : Fin 4) (phase : Nat)
  /-- the answer of a spawn, and the answer once it has come (R238) -/
  | spawn (answer : Option (BitVec 64))
  /-- power leave in a class (R287) -/
  | leave (cls : Nat)
  /-- the turn of an `hload` (R256) -/
  | planeLoad
  /-- the turn of an `hset.discard` (R269) -/
  | discard
  /-- the turn of an `hswap` (R257) -/
  | planeSwap
  /-- the turn of an `hgo` on an operation slot (R259) -/
  | operation (ops : Fin 4)
  /-- OC of an operation slot (R262) -/
  | consumed (ops : Fin 4)
  /-- DONE of an operation slot (R262) -/
  | done (ops : Fin 4)
  /-- a place in the drain queue (R264) -/
  | drainPlace
  /-- the turn of an `hacc` on a row (R267) -/
  | row (row : Fin 64)
  /-- the quern's commands for a sequence (R334) -/
  | quern (seq : Fin 256)
  /-- an arrival, or `some n` more cycles (R285); `done` once either has come -/
  | idle (left : Option Nat) (done : Bool)
  /-- a free forwarding entry (R293) -/
  | forwarding
  /-- the other slots and the units in a handoff (R235) -/
  | handoff
  /-- a flip of the page reached (R365) -/
  | flip
  /-- a re-keying barrier (R381) -/
  | rekey
  /-- the sectors of engine commands that used translations that a `vfence` of a kind and address dropped (R311) -/
  | walks (k : VfKind) (va : Nat)
  /-- a free frame for the save of a firing that the system image ends (R403) -/
  | frame (cause : Nat)
  /-- the end of another slot's solo grant, under which an invalidation, a snoop or a write waits (R178) -/
  | solo
  /-- the vector or special-function unit, which another slot's run holds (R192, R222) -/
  | vectorUnit (special : Bool)
  /-- the answers of earlier stores to peer memory (R139) -/
  | peerStores
  /-- a place in the ready ring for a task that the slot's sheaf has queued (R218). DEDUCED (log entry 68). -/
  | placing
  deriving DecidableEq, Repr, Inhabited

/-- A wait with the instruction address at which the slot stands in it. -/
structure Standing where
  wait : Wait
  pc   : Nat
  deriving DecidableEq, Repr, Inhabited

/-- A unit of a drill block as the buffer holds it (R111, R113): its guard, its instruction, and the length of the
instruction in bytes. -/
structure DrillUnit where
  guarded : Option Instr
  instr   : Instr
  bytes   : Nat
  deriving DecidableEq, Repr, Inhabited

/-- A drill replay (R113, R116). `units` are the units captured so far; `live` is false while a trap interrupts it. -/
structure Drill where
  origin : Nat
  n      : Nat
  k      : Nat
  stride : Nat
  pass   : Nat
  pos    : Nat
  units  : List DrillUnit
  live   : Bool
  deriving DecidableEq, Repr, Inhabited

/-- A vector run in progress (R190, R191): the address of its instruction, iterations left, and the rounding mode
taken at issue, and the ports among the registers that it names, which are checked for the whole of it. A whole-run
instruction keeps the elements popped so far. -/
structure Run where
  pc     : Nat
  left   : Nat
  mode   : BitVec 2
  whole  : Bool
  ports  : List (Fin 8)
  popped : List Q
  deriving DecidableEq, Repr, Inhabited

/-- The firing a slot holds: its ready-ring entry (Table 14.5), whether a task record of LM stands behind it, for a
message task its receive place and the bytes of its payload, and for a counter task whether another die's `tdec` changed
its counter (R139, R170). -/
structure Firing where
  entry    : Q
  recorded : Bool
  recv     : Option Nat
  bytes    : Nat
  far      : Bool
  deriving DecidableEq, Repr, Inhabited

/-- The first fetch of a handler that is still to be made (R280): the cause being delivered, and whether the
handler is the user-level local one. -/
structure Entering where
  cause : Nat
  localHandler : Bool
  deriving DecidableEq, Repr, Inhabited

/-- What a trap interrupts and `xret` resumes (R281, R191): a wait, a vector run, the power leave that a restored context
asks for again (R395). -/
structure Parked where
  wait  : Option Standing
  run   : Option Run
  again : Option Nat
  deriving DecidableEq, Repr, Inhabited

/-- The guard of the unit being issued: its 16 bits, whether its bit holds as its POL asks, and the length in bytes
of the instruction after it (R63, R64). -/
structure Guard where
  word  : BitVec 16
  holds : Bool
  bytes : Nat
  deriving DecidableEq, Repr, Inhabited

/-- The registers of a slot and what else a squash restores or a context carries (R292, R115). -/
structure Ctx where
  regs   : Vector Reg 32
  /-- the program counter: the code capability with ADDR at the next instruction (R61) -/
  code   : Reg
  level  : Level
  uxact  : Bool
  frnd   : BitVec 2
  /-- NX, UF, OF, DZ, NV, SAT in bits 0 to 5 (Table 3.6) -/
  fstat  : BitVec 6
  uxpc    : Reg
  uxcause : BitVec 16
  uxval   : Q
  uxvec   : Reg
  hfmt   : BitVec 8
  hsca   : Reg
  hscb   : Reg
  sx     : TrapRegs
  mx     : TrapRegs
  /-- the speculation tag (R336) -/
  spec   : BitVec 12
  firing : Option Firing
  /-- the slot holds a handler that interrupts no firing (R296) -/
  handler : Bool
  drill  : Option Drill
  run    : Option Run
  /-- the guard of the unit being issued, once evaluated (R64) -/
  guarded : Option Guard
  wait   : Option Standing
  /-- the class that a restored context asks again before its next instruction (R395) -/
  again  : Option Nat
  /-- what traps interrupted, the latest first (R281, R292) -/
  parked : List Parked
  entering : Option Entering
  /-- the handlers at `sxvec` are those of the Ovodex system image (R403; log entry 10) -/
  image  : Bool
  deriving DecidableEq, Repr, Inhabited

/-- How far a command of e0 or e2 has come (R160, R304). Units are its sectors or rows; `buf` holds the bytes of the
current unit that are still to be written into a ring, `hole` says that the unit is missing. `pages` remembers the
walk of each page touched: a failing cause with the level and the entry where the walk stopped, or the leaf entry with its
level (R311). `late` holds what is still to be written, with its locations and key identifiers, of a command whose result is
out already (R171). -/
structure Progress where
  begun  : Bool
  unit   : Nat
  passed : Nat
  done   : Nat
  buf    : List Byte
  hole   : Bool
  miss   : Option Nat
  map    : Nat
  kind   : Nat
  cause  : Nat
  va     : Nat
  pages  : List (Nat × Bool × ((Nat × Nat × Nat) ⊕ (Nat × Nat)))
  late   : List (Nat × BitVec 10 × List Byte)
  deriving DecidableEq, Repr, Inhabited

/-- A command that an engine has taken (R158): its elements, and the privilege, the protection windows, the tenant and
the ROOT of the issuing core with which it acts (R311, R362, R375). `stamp` is its place in the order in which the core's
commands were taken (R321). `owner` is the forwarding entry of the context that gave it, once that context has left the
slot (R293, R295). -/
structure Command where
  elems   : List Reg
  level   : Level
  windows : List Q
  tenant  : BitVec 12
  root    : Nat
  rooted  : Bool
  stamp   : Nat
  progress : Progress
  owner   : Option Nat
  deriving DecidableEq, Repr, Inhabited

/-- One engine FIFO of a slot (R157, R159): the input queue, the output queue, whole results waiting outside it, and
the commands taken and not yet answered, and the number that the context has unanswered elsewhere (R295). -/
structure Engine where
  input   : List Reg
  output  : List Q
  waiting : List (List Q)
  taken   : List Command
  away    : Nat
  deriving DecidableEq, Repr, Inhabited

/-- What the uncommitted sheaf holds back (R164, R176, R245), to leave in program order at the commit. -/
inductive Held where
  /-- bytes written at a location, with the granule tag they leave -/
  | write (loc : Nat) (data : List Byte) (tag : Bool) (key : BitVec 10)
  /-- bytes written through the remote window, and the message that takes them to their core (R18, R227) -/
  | window (loc : Nat) (data : List Byte) (tag : Bool) (m : Msg)
  /-- a credit of `n` slots of a handle: the message to the peer core that the handle had, none where an engine is the
  peer -/
  | credit (h : Fin 16) (n : Nat) (m : Option Msg)
  /-- a command completed by `epush` -/
  | command (f : Fifo) (c : Command)
  /-- a message to the network interface -/
  | message (m : Msg)
  /-- a `tdec` on a record of the core's own LM -/
  | tdec (rec : Nat) (n : Nat)
  /-- the queuing of a record by `tarm` -/
  | queue (rec : Nat) (kind : Fin 4)
  /-- the arming or disarming of a channel record by `tarm` -/
  | arm (rec : Nat) (on : Bool)
  /-- a release at `.dev` of an arrival at a barrier (R139) -/
  | release
  /-- an element pushed to a write port over memory, which drains from its buffer -/
  | pushed (port : Fin 8)
  deriving DecidableEq, Repr, Inhabited

/-- A channel handle (R154, R155): `avail` is FILLED of a consumer and FREE of a producer, `pos` head or tail. -/
structure Handle where
  init     : Bool
  producer : Bool
  engine   : Bool
  fifo     : Nat
  peer     : CoreId
  phandle  : Nat
  slotlog  : Nat
  countlog : Nat
  ring     : Reg
  avail    : Nat
  pos      : Nat
  ovf      : Bool
  stream   : Bool
  deriving DecidableEq, Repr, Inhabited

/-- One thing done inside the sheaf to what is shared, which a squash takes back (R164). -/
inductive Undo where
  | result (f : Fifo) (e : Q)
  | advanced (h : Fin 16) (n : Nat)
  | committed (h : Fin 16) (n : Nat)
  | initialised (h : Fin 16) (old : Handle)
  deriving DecidableEq, Repr, Inhabited

/-- A pattern of a tensor map over a capability (R143, R145). -/
structure Pattern where
  addr    : Nat
  base    : Int
  esize   : Nat
  bounds  : List Nat
  strides : List Int
  deriving DecidableEq, Repr, Inhabited

/-- What a stream port is bound to (R145, R150). -/
inductive Binding where
  | pattern (p : Pattern)
  | channel (h : Fin 16)
  deriving DecidableEq, Repr, Inhabited

/-- A fetched element, and the location of an uncorrectable error found in it (R309). -/
structure Element where
  bits : Q
  bad  : Option Nat
  deriving DecidableEq, Repr, Inhabited

/-- A stream port (R144 to R153). `moved` counts elements popped or pushed, `fetched` holds the elements fetched and
not popped, `undrained` counts pushed elements that still stand in the buffer, `sector` the sector read last. -/
structure Port where
  owner   : Option SlotId
  write   : Bool
  bound   : Option Binding
  trip    : Nat
  moved   : Nat
  fetched : List Element
  undrained : Nat
  sector  : Option (Nat × List Byte)
  deriving DecidableEq, Repr, Inhabited

/-- The state of a slot at the first instruction of its sheaf (R115, R164). -/
structure Snapshot where
  ctx    : Ctx
  grant  : Option Nat
  inputs : List (List Reg)
  ports  : Vector Port 8
  deriving DecidableEq, Repr, Inhabited

/-- A slot's uncommitted sheaf (R174 to R178). Lines are 32-byte lines of CM and global memory; sectors are 32-byte
sectors of LM. `born` orders sheaves by their first tracked access. -/
structure Sheaf where
  count    : Nat
  reads    : List Nat
  writes   : List Nat
  lmReads  : List Nat
  lmWrites : List Nat
  born     : Option Nat
  held     : List Held
  undo     : List Undo
  snapshot : Option Snapshot
  squashes : Nat
  solo     : Bool
  deriving DecidableEq, Repr, Inhabited

/-- One slot of the core (R11). -/
structure Slot where
  ctx    : Ctx
  sheaf  : Sheaf
  e0     : Engine
  e1     : Engine
  e2     : Engine
  e3     : Engine
  e7     : Engine
  /-- pending bits of the asynchronous causes 0x00C, 0x00D and 0x210 (R281) -/
  preempt  : Bool
  resume   : Bool
  watchdog : Bool
  /-- the frame that a resume request passes (R296) -/
  frame    : BitVec 16
  /-- the class of the power leave held (R394) -/
  grant    : Option Nat
  /-- a firing taken by the dispatcher whose start is due (R219) -/
  starting : Bool
  /-- a message has arrived, or a cause become pending, since `idle` began (R285) -/
  woken    : Bool
  /-- cycles ready and not issued (R222) -/
  waited   : Nat
  /-- the bubble after a taken transfer or the entry of a trap (R248) -/
  bubble   : Bool
  /-- other cores that hold a forwarding entry for the slot's context (R292) -/
  entries  : List CoreId
  deriving DecidableEq, Repr, Inhabited

/-! ### The core -/

/-- The states of a core (Table 18.3); `halting` is running with a `halt` to take effect (R286). -/
inductive CoreMode where | running | halting | halted | held
  deriving DecidableEq, Repr, Inhabited

/-- The kernel of a core: the bits of its code capability, the fields of its header and its place in the gang
(R211 to R213). -/
structure Kernel where
  code    : Q
  slots   : Nat
  lmsize  : Nat
  harrow  : Bool
  gang    : Nat
  gw      : Nat
  gh      : Nat
  tenant  : BitVec 12
  entry   : Nat
  origin  : CoreId
  rank    : Nat
  members : Nat
  deriving DecidableEq, Repr, Inhabited

/-- What the dispatcher records of a queued task (R215): its place in the ready ring, its KIND, FURROW, STAGED and
SRC, whether a record of LM stands behind it, and for a message its receive place and payload bytes. -/
structure Queued where
  place  : Nat
  kind   : Fin 4
  furrow : Nat
  staged : Bool
  src    : CoreId
  recorded : Bool
  recv   : Option Nat
  bytes  : Nat
  deriving DecidableEq, Repr, Inhabited

/-- A task that is queued but for a place in the ready ring, which was full when its sheaf committed (R218): its entry, what
the dispatcher records of it, and the slot that waits for the place. -/
structure Unplaced where
  entry : Q
  task  : Queued
  slot  : Option SlotId
  deriving DecidableEq, Repr, Inhabited

/-- The watchdog register and its count (Table 5.17, R233). No step of one core sets PAUSED: DESIGN CHOICE (log entry 14). -/
structure Watchdog where
  limit  : BitVec 32
  en     : Bool
  paused : Bool
  count  : Nat
  deriving DecidableEq, Repr, Inhabited

/-- A barrier of the gang as this core sees it (R232): whether the core has arrived at the phase, the phase, and the
phases complete so far are those below `phase`. -/
structure Barrier where
  arrived : Bool
  phase   : Nat
  deriving DecidableEq, Repr, Inhabited

/-- Where a context that left answers outstanding now stands (R293, R295). -/
inductive Whereabouts where
  | frame (f : Nat)
  | slot (c : CoreId) (s : SlotId)
  deriving DecidableEq, Repr, Inhabited

/-- A forwarding entry (R295): the place of a context that left this core with answers outstanding. -/
structure Forward where
  id    : Nat
  place : Whereabouts
  deriving DecidableEq, Repr, Inhabited

/-- A spawn whose answer is outstanding (R238): its target, the slot that waits, and the forwarding entry once the
context has left. Answers of one target come in the order of the spawns (R225). -/
structure Spawned where
  target : CoreId
  slot   : SlotId
  owner  : Option Nat
  deriving DecidableEq, Repr, Inhabited

/-- A TLB entry of the core or its cluster (R301): the leaf entry and the walk it came from. -/
structure TlbEntry where
  root   : Nat
  tenant : BitVec 12
  page   : Nat
  level  : Nat
  pte    : BitVec 64
  deriving DecidableEq, Repr, Inhabited

/-- A handoff to a successor kernel (R235): the issuing slot, the successor's code capability and header, the mask,
and the LM ranges inherited. -/
structure Handoff where
  slot   : SlotId
  code   : Reg
  header : BitVec 512
  mask   : Q
  ranges : List (Nat × Nat)
  /-- the guard of the `succ` -/
  guard  : Option Guard
  deriving DecidableEq, Repr, Inhabited

/-- An event that is due: its row of the opcode table, and what it is about. DESIGN CHOICE (log entry 1). -/
structure Due where
  what   : Instr
  detail : Detail
  deriving DecidableEq, Repr, Inhabited

/-- The slot that holds the vector datapath or the special-function unit, and the iterations that its run still makes once
another slot waits for the unit (R192). -/
structure UnitHold where
  slot : SlotId
  left : Nat
  deriving DecidableEq, Repr, Inhabited

/-- The core (R11, R21 and the registers marked core in Table 5.10). -/
structure Core where
  id     : CoreId
  slots  : Vector Slot 4
  /-- the slot that issues: `cur` and `last` of R222 -/
  cur    : SlotId
  last   : SlotId
  yielded : Bool
  /-- the unit tried last stalled (R222) -/
  stalled : Bool
  ipol   : Bool
  cyc    : BitVec 64
  stg    : BitVec 4
  /-- a stage change that waits for a task boundary (R12) -/
  stgNext : Option (BitVec 4)
  tenant : BitVec 12
  pkey   : BitVec 32
  tmbase  : BitVec 13
  clsbase : BitVec 13
  rrbase  : BitVec 13
  hlbase  : BitVec 13
  wdg    : Watchdog
  pwin   : Vector Q 16
  mode   : CoreMode
  /-- the cause that the held state records (R297) -/
  heldCause : Nat
  rerr   : Bool
  kernel : Option Kernel
  /-- the core has run a kernel since module reset (R214) -/
  ran    : Bool
  ring   : List Queued
  /-- tasks that wait for a place in the ring, the oldest first. DEDUCED (log entry 68). -/
  unplaced : List Unplaced
  /-- receive places in use (R215) -/
  received : List Nat
  /-- the channel records that are armed, by LM offset (R218) -/
  armed    : List Nat
  /-- the counter records that a `tdec` of another die has changed since they last fired, by LM offset (R170) -/
  farDecs  : List Nat
  cf     : Nat
  runs   : Nat
  localRuns : Nat
  handoff : Option Handoff
  scrubbing : Bool
  ports  : Vector Port 8
  handles : Vector Handle 16
  drillOwner : Option SlotId
  /-- the holders of the vector datapath and the special-function unit (R192) -/
  vectorHold  : Option UnitHold
  specialHold : Option UnitHold
  layouts : Vector Q 8
  /-- outgoing messages, the oldest first (R227), and arrived messages held at the interface (R228) -/
  outgoing : List Msg
  arrived  : List Msg
  barriers : Vector Barrier 4
  forwards : List Forward
  spawned  : List Spawned
  tlb      : List TlbEntry
  /-- slots that ask a solo grant, in request order (R178), and events deferred under one -/
  soloAsked : List SlotId
  deferred  : List Due
  /-- the order in which the binder and the core register accesses (R177) -/
  births   : Nat
  /-- commands taken by the engines so far (R321) -/
  pushes   : Nat
  /-- the 32-byte lines that the L1 data cache holds, the latest first (R14, R400) -/
  l1       : List Nat
  deriving DecidableEq, Repr, Inhabited

/-! ### The row: the harrow -/

/-- A weight plane (R249): its format, whether it holds a tile, and the tile image. -/
structure Plane where
  fmt   : BitVec 4
  valid : Bool
  tile  : List Byte
  deriving DecidableEq, Repr, Inhabited

/-- A load of the shadow plane in progress (R256): the tile as it stood when the load began, where its items lie (location,
bytes, key identifier), whether they are translated, and the first sector that failed (R270). -/
structure PlaneLoad where
  tile : List Byte
  runs : List (Nat × Nat × BitVec 10)
  far  : Bool
  bad  : Option Nat
  deriving DecidableEq, Repr, Inhabited

/-- A slice (R249, R268, R274). ACTV is `active.valid` and SHLD `shadow.valid`; SHLG holds while `load` is some. `bad`
is the error that the next `hswap` raises. `spare` says that the slice's map needs a spare row, `unmapped` that it has
no map within the limits. DESIGN CHOICE (log entry 4). -/
structure Slice where
  active : Plane
  shadow : Plane
  load   : Option PlaneLoad
  bad    : Option Nat
  spare  : Bool
  unmapped : Bool
  deriving DecidableEq, Repr, Inhabited

/-- What an `hgo` samples at issue (R259), and what the operation has read (R260, R261). -/
structure Operation where
  row0   : Nat
  rows   : Nat
  klen   : Nat
  init   : Bool
  afmt   : BitVec 4
  bfmt   : BitVec 4
  pattern : Pattern
  scaleA : List Byte
  scaleB : List Byte
  /-- the activation sectors as they stood when the operation began (R185) -/
  early  : List Byte
  begun  : Bool
  ended  : Bool
  weights : List (List Byte)
  acts   : List Byte
  badRows : List Nat
  deriving DecidableEq, Repr, Inhabited

/-- An operation slot (R249, R262): OC, DONE, ERR with the first failing address, and its operation. -/
structure OpSlot where
  oc   : Bool
  done : Bool
  err  : Option Nat
  op   : Option Operation
  deriving DecidableEq, Repr, Inhabited

/-- A drain (R264 to R266). `dest` is the destination capability, `next` the next row to write. -/
structure Drain where
  dest   : Reg
  ownLm  : Bool
  offset : Nat
  target : CoreId
  tag    : BitVec 32
  zero   : Bool
  wake   : Bool
  cls    : BitVec 8
  nrows  : Nat
  row0   : Nat
  bf16   : Bool
  next   : Nat
  err    : Bool
  flags  : BitVec 6
  spec   : BitVec 12
  /-- bytes of the next row that messages have taken away -/
  sent   : Nat
  deriving DecidableEq, Repr, Inhabited

/-- Work on accumulator rows in row order (R252): who does it and the rows it has still to act on. -/
inductive RowWork where
  | operation (ops : Fin 4) (rows : List Nat)
  | zero (rows : List Nat)
  | drain (rows : List Nat)
  /-- an `hset.clr` of row flags -/
  | flags (mask : BitVec 6)
  deriving DecidableEq, Repr, Inhabited

/-- The harrow of the core's row (R249). `cells` holds cell n of row m of slice p at 4096 p + 64 m + n. `badRows`
are the rows that an operation with an error left (R270). -/
structure Harrow where
  slices : Vector Slice 8
  cells  : Table (BitVec 32)
  ops    : Vector OpSlot 4
  flags  : BitVec 6
  /-- operations that have not begun, in row order -/
  queue  : List (Fin 4)
  work   : List RowWork
  drains : List Drain
  badRows : List Nat
  deriving DecidableEq, Repr, Inhabited

/-! ### The cluster -/

/-- What the cluster's units know of each of its cores (R213, R231). -/
structure Neighbour where
  stage  : BitVec 4
  next   : Option (BitVec 4)
  busy   : Bool
  kernel : Bool
  deriving DecidableEq, Repr, Inhabited

/-- A stage queue (R229): entries held and the place of the oldest. -/
structure StageQueue where
  count : Nat
  head  : Nat
  deriving DecidableEq, Repr, Inhabited

structure Cluster where
  tenant : Option (BitVec 12)
  stages : Vector StageQueue 16
  cores  : Vector Neighbour 16
  scrubbing : Bool
  deriving DecidableEq, Repr, Inhabited

/-! ### The compute die -/

/-- This die's copy of a 32-byte sector homed on another die (R181): valid bit of each 8-byte word, dirty bit of
each byte, the bytes, the key identifier of the dirty bytes, the tags of its two granules. -/
structure Copy where
  words : BitVec 4
  dirty : BitVec 32
  data  : List Byte
  key   : BitVec 10
  tags  : BitVec 2
  deriving DecidableEq, Repr, Inhabited

/-- A text state of the quern (R314). `tables` is none while unbound. -/
structure Text where
  tables  : Option Reg
  gram    : Bool
  state   : Nat
  stack   : List Nat
  held    : List Byte
  stopped : Bool
  stopnum : Nat
  stops   : List (List Byte)
  deriving DecidableEq, Repr, Inhabited

/-- A token entry of the windrow (R322). -/
structure Token where
  token   : BitVec 32
  pos     : Nat
  retired : Bool
  deriving DecidableEq, Repr, Inhabited

/-- A request that waits in its place (R322): payload, mailbox, tag. -/
structure Request where
  payload  : List Byte
  mailbox  : Nat
  tag      : Nat
  deriving DecidableEq, Repr, Inhabited

/-- A released request that its mailbox has still to accept (R330); `placed` while it keeps its place. -/
structure Outward where
  payload : List Byte
  mailbox : Nat
  tenant  : BitVec 12
  placed  : Bool
  deriving DecidableEq, Repr, Inhabited

/-- A prediction slot in use (R322). -/
structure Prediction where
  c       : Nat
  tokens  : List (BitVec 32)
  sampler : Q
  text    : Text
  deriving DecidableEq, Repr, Inhabited

/-- One entry or request in the order in which it was made (R330). -/
inductive Made where
  | token (t : Token)
  | request (r : Request)
  deriving DecidableEq, Repr, Inhabited

/-- A sequence of the windrow (R322) with its text state (R314). `binding` 0 names no descriptor; `root` is the value
of ROOT recorded with it (R340). `made` holds token entries and unreleased requests in the order in which they were
made, `sending` the released requests in release order. -/
structure Seq where
  isOpen  : Bool
  tenant  : BitVec 12
  kvlen   : Nat
  sampler : Q
  stalled : Bool
  binding : Nat
  root    : BitVec 64
  made    : List Made
  sending : List Outward
  slots   : Vector (Option Prediction) 4
  text    : Text
  deriving DecidableEq, Repr, Inhabited

/-- A request at the headland of the die (R394), or a grant held: the slot, its class, and its core where it is another
than this one. -/
structure Ask where
  slot  : SlotId
  cls   : Nat
  other : Option CoreId
  deriving DecidableEq, Repr, Inhabited

/-- A slot's context as a frame or a migration carries it (R292, R395). `level` is the saving level; `home` is the base
of the kernel's code capability and its TENANT, `enclave` the key identifier and the key under which an enclave's
frame is sealed (R377). -/
structure Frame where
  ctx     : Ctx
  level   : Level
  ports   : List (Fin 8 × Port)
  engines : List Engine
  leave   : Option Nat
  home    : Option (Nat × BitVec 12)
  enclave : Option (BitVec 10 × Nat)
  entries : List CoreId
  /-- the forwarding entry that this core holds for a context that another core's `migr` brings back (R295) -/
  entry   : Option Nat
  spilled : Bool
  deriving DecidableEq, Repr, Inhabited

structure Die where
  copies : Table Copy
  /-- the 256-byte lines of pages with HOME 2 that a slice of this die keeps: 1 plus the slice, by line (Table 1.4) -/
  pinned : Table Nat
  seqs   : Table Seq
  /-- silo and spill frames by number, the least recently written first (R290, R291) -/
  frames : List (Nat × Frame)
  /-- the requests that wait at the headland, the oldest first, and the grants that other cores of the die hold -/
  asks   : List Ask
  granted : List Ask
  /-- contexts that other cores' `migr` brings to this core, the oldest first (R295) -/
  migrants : List Frame
  /-- HUSED: weight of the grants held (Table 28.2) -/
  used   : Nat
  throttle : Bool
  /-- cycles of the die's clock since reset, by which the yokes move (R231) -/
  clock  : Nat
  deriving DecidableEq, Repr, Inhabited

/-! ### The module and what stands round it -/

/-- Where bring-up stands (Table 28.1). -/
inductive Phase where | inReset | released | started | stopped
  deriving DecidableEq, Repr, Inhabited

/-- An inbound mailbox (R358 to R360). -/
structure Inbox where
  entries  : List (List Byte)
  accepted : BitVec 32
  dropped  : Bool
  credAddr : BitVec 51
  credEn   : Bool
  deriving DecidableEq, Repr, Inhabited

/-- An outbound mailbox (R361). -/
structure Outbox where
  entries : List (List Byte)
  headseq : BitVec 32
  msi     : Bool
  early   : Bool
  deriving DecidableEq, Repr, Inhabited

/-- An ownership flip in progress (R365). -/
structure Flip where
  page   : Nat
  toHost : Bool
  deriving DecidableEq, Repr, Inhabited

/-- The algorithms of Table 26.2. -/
inductive Algorithm where | mlDsa44 | sha3 | mlKem768 | aes256Gcm
  deriving DecidableEq, Repr, Inhabited

/-- The Alias certificate (R371): the Alias public key, registers 0 to 4, and the signature of the DeviceID key. -/
structure Certificate where
  aliasKey  : BitVec 256
  registers : List (BitVec 256)
  signature : BitVec 256
  deriving DecidableEq, Repr, Inhabited

/-- An SPDM session (R372): its number, whether FINISH has closed its handshake, and the updates of its keys. -/
structure Session where
  id      : BitVec 32
  secured : Bool
  updates : Nat
  deriving DecidableEq, Repr, Inhabited

/-- What the SPDM responder answered last (R372). -/
inductive SpdmAnswer where
  | version | capabilities
  | algorithms (l : List Algorithm)
  | digests (slot0 : BitVec 256)
  | certificate (chain : List Byte)
  | challengeAuth (nonce signature : BitVec 256)
  | measurements (blocks : List (BitVec 256)) (signature : BitVec 256)
  | keyExchange (session : BitVec 32)
  | finish (session : BitVec 32)
  | keyUpdate (session : BitVec 32)
  | heartbeat (session : BitVec 32)
  | endSession (session : BitVec 32)
  | unsupportedRequest (code : BitVec 8)
  | unexpectedRequest
  | invalidSession (session : BitVec 32)
  deriving DecidableEq, Repr, Inhabited

/-- What the device answered the host last: nothing yet, a success, a retry (R360), an error response (R351), the bytes
of a read. -/
inductive HostReply where
  | none | done | retry | error
  | data (l : List Byte)
  deriving DecidableEq, Repr, Inhabited

/-- A fabric link from a peer (R379, R381): the next sequence number, whether the link is out of service, and whether
its MARK has come. -/
structure Link where
  seqNo   : Nat
  out     : Bool
  mark    : Bool
  deriving DecidableEq, Repr, Inhabited

/-- The states of a handover at the source (Table 26.6). -/
inductive HandoverState where
  | sealed | sent | confirmed | failedKeysHeld | failedKeysErased | resumed | lost
  deriving DecidableEq, Repr, Inhabited

/-- A handover at the source (R383): its state, the peer, the nonce of the transfer, and the tenant and measurement of
the enclave whose frame it is. The frame stands in the silo under its number; `sealedFrame` is what the digest is bound to. -/
structure Handover where
  state  : HandoverState
  sealedFrame : Frame
  peer   : Fin 64
  nonce  : Nat
  tenant : BitVec 12
  meas   : BitVec 256
  deriving DecidableEq, Repr, Inhabited

/-- An enclave (R376): its tenant, key identifier, measurement, the signature of the Alias key in the report of the
measurement, the cluster that it has; `epoch` numbers the key that the identifier has. -/
structure Enclave where
  key    : BitVec 10
  tenant : BitVec 12
  meas   : BitVec 256
  report : BitVec 256
  cluster : Option Nat
  epoch  : Nat
  deriving DecidableEq, Repr, Inhabited

/-- The identity that a release gives (R371): the DeviceID seed, CDI0, CDI1 once computed, and the Alias certificate. -/
structure Identity where
  deviceId : BitVec 256
  cdi0  : BitVec 256
  cdi1  : Option (BitVec 256)
  aliasCert : Option Certificate
  deriving DecidableEq, Repr, Inhabited

/-- The settings of Table 28.6, as the management controller names one that was replaced (R389). -/
inductive Setting where | servers | silo | hvtop | spill | rowMap (p : Fin 8) | pcap
  deriving DecidableEq, Repr, Inhabited

/-- A store to peer memory that the peer has still to answer (R380): the slot, the peer, the physical address. -/
structure PeerStore where
  slot : SlotId
  peer : Nat
  pa   : Nat
  deriving DecidableEq, Repr, Inhabited

structure Module where
  phase    : Phase
  settings : Settings
  /-- settings in use after step 5 (R389) -/
  servers  : Option (List CoreId)
  silo     : Nat
  hvtop    : Nat
  spill    : Nat × Nat
  pcap     : Nat
  /-- the settings that step 5 replaced, which the management controller reports (R389) -/
  replaced : List Setting
  /-- the other compute dies whose THROTTLE is set (R396) -/
  throttled : List Nat
  /-- fused limits (Table 26.7) -/
  fusecap  : Nat
  fusedHvtop : Nat
  fusedWindows : Nat
  fusedPorts : BitVec 16
  meas     : Vector (BitVec 256) 16
  meas4    : Bool
  identity : Option Identity
  inbox    : Table Inbox
  outbox   : Table Outbox
  /-- MSI-X vectors signalled: function and vector (R361) -/
  msi      : List (Nat × Nat)
  hostOwned : Table Bool
  flip     : Option Flip
  ownErr   : Bool
  hdmbase  : BitVec 64
  /-- lines of 64 bytes that the host caches, the least recently allocated first, and whether it may hold each in a state
  in which it writes it (R352) -/
  snooped  : List (Nat × Bool)
  linkUp   : Bool
  reply    : HostReply
  /-- the last answer of the SPDM responder (R372) -/
  spdm     : Option SpdmAnswer
  negotiated : Nat
  sessions : List Session
  links    : Table Link
  /-- stores to peer memory that are not answered yet, the oldest first (R380) -/
  inFlight : List PeerStore
  /-- what the standing barrier has sent: the peer, and whether MARK or, else, REMOVE (R381, R386) -/
  signals  : List (Nat × Bool)
  barrier  : Bool
  dissolving : Bool
  enclaves : List Enclave
  epoch    : Nat
  handovers : List (Nat × Handover)
  tripped  : Bool
  deriving DecidableEq, Repr, Inhabited

/-- The machine: one core with its row, cluster and die, the module, memory, the registers of system space, and the
events that are due, the oldest first. -/
structure State where
  core    : Core
  harrow  : Harrow
  cluster : Cluster
  die     : Die
  module  : Module
  /-- bytes by location; an unlisted location reads 0 -/
  mem     : List Host.Cell
  /-- granules with tag 1, by the location of their first byte -/
  tags    : Table Bool
  /-- HBM blocks that have been written: 1 plus the key identifier they are sealed under (R374), by block number -/
  seals   : Table Nat
  /-- blocks of 256 bytes with an uncorrectable error (R309) -/
  bad     : Table Bool
  /-- registers of system space by address [67:0] (R298) -/
  sys     : Table (BitVec 64)
  agenda  : List Due
  /-- what the event being performed is about -/
  event   : Detail
  eventTurn : Bool
  /-- counts the free values taken -/
  fresh   : Nat
  deriving DecidableEq, Repr, Inhabited

/-- Why the machine stops with a fault. The spec leaves no access without its trap, so no meaning raises this; it
stands for a state that no run reaches. Safe. DEDUCED (log entry 38). -/
inductive Fault where
  /-- raised by nothing: a slot number always names a slot; safe -/
  | noSlot
  deriving DecidableEq, Repr, Inhabited

/-- Why an instruction is refused. -/
inductive Refusal where
  /-- raised by `exec` for an instruction without a meaning, of which there is none; safe -/
  | notModelled (mnemonic : String)
  deriving DecidableEq, Repr, Inhabited

/-! ### Reset -/

def TrapRegs.reset : TrapRegs := ⟨Reg.null, 0#16, 0#128, 0#128, 0#22, Reg.null⟩

/-- The registers of a slot after reset (Tables 3.5, 3.6, 5.11 to 5.16). Those without a value there have the
model's. DESIGN CHOICE (log entry 2). -/
def Ctx.reset : Ctx where
  regs := Vector.replicate 32 Reg.null
  code := Reg.null
  level := .user
  uxact := false
  frnd := 0#2
  fstat := 0#6
  uxpc := Reg.null
  uxcause := 0#16
  uxval := 0#128
  uxvec := Reg.null
  hfmt := 0#8
  hsca := Reg.null
  hscb := Reg.null
  sx := TrapRegs.reset
  mx := TrapRegs.reset
  spec := 0#12
  firing := none
  handler := false
  drill := none
  run := none
  guarded := none
  wait := none
  again := none
  parked := []
  entering := none
  image := false

/-- A command not begun. -/
def Progress.start : Progress := ⟨false, 0, 0, 0, [], false, none, 0, 0, 0, 0, [], []⟩

def Engine.reset : Engine := ⟨[], [], [], [], 0⟩

def Sheaf.empty : Sheaf := ⟨0, [], [], [], [], none, [], [], none, 0, false⟩

def Slot.reset : Slot where
  ctx := Ctx.reset
  sheaf := Sheaf.empty
  e0 := Engine.reset
  e1 := Engine.reset
  e2 := Engine.reset
  e3 := Engine.reset
  e7 := Engine.reset
  preempt := false
  resume := false
  watchdog := false
  frame := 0#16
  grant := none
  starting := false
  woken := false
  waited := 0
  bubble := false
  entries := []

/-- An unbound port (R151). -/
def Port.free : Port := ⟨none, false, none, 0, 0, [], 0, none⟩

/-- An uninitialised channel handle. -/
def Handle.reset : Handle :=
  ⟨false, false, false, 0, 0#13, 0, 0, 0, Reg.null, 0, 0, false, false⟩

/-- The core after reset (Tables 5.14 to 5.18, 18.3). Its coordinates, 16 = (0,1,0), are a DESIGN CHOICE (log entry 3);
so are the values of log entry 2. -/
def Core.reset : Core where
  id := 16#13
  slots := Vector.replicate 4 Slot.reset
  cur := 0
  last := 0
  yielded := false
  stalled := false
  ipol := false
  cyc := 0#64
  stg := 0#4
  stgNext := none
  tenant := 0#12
  pkey := 0#32
  tmbase := 0#13
  clsbase := 0#13
  rrbase := 0#13
  hlbase := 0#13
  wdg := ⟨0#32, false, false, 0⟩
  pwin := Vector.replicate 16 0#128
  mode := .running
  heldCause := 0
  rerr := false
  kernel := none
  ran := false
  ring := []
  unplaced := []
  received := []
  armed := []
  farDecs := []
  cf := 0
  runs := 0
  localRuns := 0
  handoff := none
  scrubbing := false
  ports := Vector.replicate 8 Port.free
  handles := Vector.replicate 16 Handle.reset
  drillOwner := none
  vectorHold := none
  specialHold := none
  layouts := Vector.replicate 8 0#128
  outgoing := []
  arrived := []
  barriers := Vector.replicate 4 ⟨false, 0⟩
  forwards := []
  spawned := []
  tlb := []
  soloAsked := []
  deferred := []
  births := 0
  pushes := 0
  l1 := []

/-- A plane that holds no tile. -/
def Plane.clear : Plane := ⟨0#4, false, []⟩

/-- A slice after reset: no tile, and no row map, which the boot firmware has still to write (R274, R389). -/
def Slice.reset : Slice := ⟨Plane.clear, Plane.clear, none, none, false, true⟩

/-- The harrow after reset: OC and DONE set, all else clear (Table 16.7). -/
def Harrow.reset : Harrow where
  slices := Vector.replicate 8 Slice.reset
  cells := []
  ops := Vector.replicate 4 ⟨true, true, none, none⟩
  flags := 0#6
  queue := []
  work := []
  drains := []
  badRows := []

def Cluster.reset : Cluster where
  tenant := none
  stages := Vector.replicate 16 ⟨0, 0⟩
  cores := Vector.replicate 16 ⟨0#4, none, false, false⟩
  scrubbing := false

def Die.reset : Die := ⟨[], [], [], [], [], [], [], 0, false, 0⟩

/-- The module after reset, held by the root of trust (R369); the fused limits and the unwritten settings are the
model's. DESIGN CHOICE (log entry 5). -/
def Module.reset : Module where
  phase := .inReset
  settings := ⟨none, none, none, [], none, []⟩
  servers := none
  silo := 64
  hvtop := 0
  spill := (0, 0)
  pcap := 9000
  replaced := []
  throttled := []
  fusecap := 9000
  fusedHvtop := 1279
  fusedWindows := 16
  fusedPorts := 0xFFFF#16
  meas := Vector.replicate 16 0#256
  meas4 := false
  identity := none
  inbox := []
  outbox := []
  msi := []
  hostOwned := []
  flip := none
  ownErr := false
  hdmbase := 0#64
  snooped := []
  linkUp := true
  reply := .none
  spdm := none
  negotiated := 0
  sessions := []
  links := []
  inFlight := []
  signals := []
  barrier := false
  dissolving := false
  enclaves := []
  epoch := 0
  handovers := []
  tripped := false

/-- The machine right after reset. -/
def State.reset : State where
  core := Core.reset
  harrow := Harrow.reset
  cluster := Cluster.reset
  die := Die.reset
  module := Module.reset
  mem := []
  tags := []
  seals := []
  bad := []
  sys := []
  agenda := []
  event := .plain
  eventTurn := false
  fresh := 0

end Sys2Proof.Machine
end

