-- ==== Sys2Proof/Machine/Sparse.lean ====
section
/-! DEFINITION. The operations on sparse tables: reading, writing in canonical form, clearing a range. -/

namespace Sys2Proof.Machine

/-- The entry at key `a`, or the table's default `d`. -/
def Table.get {α : Type} (d : α) : Table α → Nat → α
  | [], _ => d
  | e :: t, a => if e.1 = a then e.2 else Table.get d t a

/-- The table without key `a`. -/
def Table.erase {α : Type} (t : Table α) (a : Nat) : Table α := t.filter fun e => e.1 != a

/-- An entry put in its place among rising keys. -/
def Table.insert {α : Type} : Table α → Nat → α → Table α
  | [], a, x => [(a, x)]
  | e :: t, a, x => if a < e.1 then (a, x) :: e :: t else e :: Table.insert t a x

/-- Write entry `x` at key `a`; writing the default removes the entry. -/
def Table.set {α : Type} [DecidableEq α] (d : α) (t : Table α) (a : Nat) (x : α) : Table α :=
  if x = d then t.erase a else (t.erase a).insert a x

/-- Every key from `lo` up to but not including `hi` back at the default. -/
def Table.clear {α : Type} (t : Table α) (lo hi : Nat) : Table α := t.filter fun e => e.1 < lo || hi ≤ e.1

/-- Keys rise strictly, each above `lo` where one is given. -/
def Table.rising {α : Type} : Table α → Bool
  | [] => true
  | [_] => true
  | e :: f :: t => e.1 < f.1 && Table.rising (f :: t)

/-- The canonical form: keys rise and no entry equals the default. -/
def Table.wf {α : Type} [DecidableEq α] (d : α) (t : Table α) : Bool := t.rising && t.all fun e => e.2 != d

/-- The canonical form of memory, whose unlisted bytes read 0. DESIGN CHOICE (log entry 6). -/
def Memory.wf (m : List Host.Cell) : Bool := Table.wf 0#8 m

end Sys2Proof.Machine
end

