-- ==== Sys2Proof/Machine/Ops.lean ====
section
/-! DEFINITION. The named operations over the state: slots and registers, the registers of system space, fault
records, and the taking of an exception (R279) with the held state (R297). -/

namespace Sys2Proof.Machine

/-! ### Slots and their registers -/

def State.slot (s : State) (k : SlotId) : Slot := s.core.slots.get k

def State.setSlot (s : State) (k : SlotId) (x : Slot) : State :=
  { s with core := { s.core with slots := s.core.slots.set k.val x k.isLt } }

def State.modSlot (s : State) (k : SlotId) (f : Slot → Slot) : State := s.setSlot k (f (s.slot k))

def State.ctx (s : State) (k : SlotId) : Ctx := (s.slot k).ctx

def State.modCtx (s : State) (k : SlotId) (f : Ctx → Ctx) : State :=
  s.modSlot k fun x => { x with ctx := f x.ctx }

def State.modSheaf (s : State) (k : SlotId) (f : Sheaf → Sheaf) : State :=
  s.modSlot k fun x => { x with sheaf := f x.sheaf }

/-- The slot that issues. -/
def State.cur (s : State) : SlotId := s.core.cur

def State.modCore (s : State) (f : Core → Core) : State := { s with core := f s.core }

def State.modHarrow (s : State) (f : Harrow → Harrow) : State := { s with harrow := f s.harrow }

def State.modDie (s : State) (f : Die → Die) : State := { s with die := f s.die }

def State.modCluster (s : State) (f : Cluster → Cluster) : State := { s with cluster := f s.cluster }

def State.modModule (s : State) (f : Module → Module) : State := { s with module := f s.module }

/-- A general register as every instruction reads it: g0 is 128 zero bits with tag 0 (R50). -/
def Ctx.reg (c : Ctx) (r : RegIdx) : Reg := if r = 0 then Reg.null else c.regs.get r

/-- A write to a general register; a write to g0 is discarded (R50). -/
def Ctx.setReg (c : Ctx) (r : RegIdx) (v : Reg) : Ctx :=
  if r = 0 then c else { c with regs := c.regs.set r.val v r.isLt }

/-- ADDR, bits [71:0], of capability bits (Table 5.1). -/
def addrOf (b : Q) : Nat := b.toNat % 2 ^ 72

/-- Capability bits with ADDR replaced. -/
def withAddr (b : Q) (a : Nat) : Q := BitVec.ofNat 128 (b.toNat / 2 ^ 72 * 2 ^ 72 + a % 2 ^ 72)

/-- The program counter: ADDR of the code capability (R61). -/
def Ctx.pc (c : Ctx) : Nat := addrOf c.code.bits

def Ctx.setPc (c : Ctx) (a : Nat) : Ctx := { c with code := { c.code with bits := withAddr c.code.bits a } }

/-- The number of a level: 0 user, 1 supervisor, 2 monitor (R278). -/
def Level.num : Level → Nat
  | .user => 0
  | .supervisor => 1
  | .monitor => 2

def Level.ofNum : Nat → Level
  | 0 => .user
  | 1 => .supervisor
  | _ => .monitor

/-- An engine FIFO of a slot. -/
def Slot.engine (x : Slot) : Fifo → Engine
  | .e0 => x.e0
  | .e1 => x.e1
  | .e2 => x.e2
  | .e3 => x.e3
  | .e7 => x.e7

def Slot.setEngine (x : Slot) (f : Fifo) (e : Engine) : Slot :=
  match f with
  | .e0 => { x with e0 := e }
  | .e1 => { x with e1 := e }
  | .e2 => { x with e2 := e }
  | .e3 => { x with e3 := e }
  | .e7 => { x with e7 := e }

def fifos : List Fifo := [.e0, .e1, .e2, .e3, .e7]

def slotIds : List SlotId := [0, 1, 2, 3]

def sliceIds : List (Fin 8) := [0, 1, 2, 3, 4, 5, 6, 7]

/-- A slot that holds no firing and no handler: FREE of CSTATE (Table 18.3). -/
def Slot.isFree (x : Slot) : Bool := x.ctx.firing.isNone && !x.ctx.handler

def portIds : List (Fin 8) := [0, 1, 2, 3, 4, 5, 6, 7]

def State.port (s : State) (p : Fin 8) : Port := s.core.ports.get p

def State.setPort (s : State) (p : Fin 8) (x : Port) : State :=
  s.modCore fun c => { c with ports := c.ports.set p.val x p.isLt }

def State.handle (s : State) (h : Fin 16) : Handle := s.core.handles.get h

def State.setHandle (s : State) (h : Fin 16) (x : Handle) : State :=
  s.modCore fun c => { c with handles := c.handles.set h.val x h.isLt }

/-! ### Events and free values -/

/-- Put an event at the end of those that are due. -/
def State.schedule (s : State) (what : Instr) (detail : Detail := .plain) : State :=
  { s with agenda := s.agenda ++ [⟨what, detail⟩] }

/-- Put an event at the end of those that are due, unless it is due already. -/
def State.scheduleOnce (s : State) (what : Instr) (detail : Detail := .plain) : State :=
  if ⟨what, detail⟩ ∈ s.agenda then s else s.schedule what detail

/-- The next free value counts on. -/
def State.tick (s : State) : State := { s with fresh := s.fresh + 1 }

/-! ### Registers of system space (R298) -/

/-- The address [67:0] of a register of system space (Table 18.4). -/
def sysAddr (die cluster core block offset : Nat) : Nat :=
  die * 2 ^ 65 + cluster * 2 ^ 59 + core * 2 ^ 55 + block * 2 ^ 48 + offset

def State.sysReg (s : State) (a : Nat) : BitVec 64 := Table.get 0#64 s.sys a

def State.setSysReg (s : State) (a : Nat) (v : BitVec 64) : State := { s with sys := Table.set 0#64 s.sys a v }

/-- The die of this core. -/
def State.dieNo (s : State) : Nat := dieOf s.core.id

/-- The address of a register of this core's control block (Table 18.3). -/
def State.controlBlock (s : State) (offset : Nat) : Nat :=
  sysAddr s.dieNo (clusterOf s.core.id) (coreOf s.core.id) 0 offset

/-- ROOT.PPN of this core, and whether EN is set (Table 18.3). -/
def State.root (s : State) : Nat := (s.sysReg (s.controlBlock 0x20)).toNat / 2 ^ 12 % 2 ^ 44

def State.rootEnabled (s : State) : Bool := (s.sysReg (s.controlBlock 0x20)).getLsbD 0

/-- SUBMESH(t) (Table 14.11): tenant 0 has the whole grid. -/
def State.submesh (s : State) (t : BitVec 12) : BitVec 64 :=
  if t = 0#12 then BitVec.ofNat 64 (2 ^ 18 + 15 * 2 ^ 14 + 31 * 2 ^ 9)
  else s.sysReg (sysAddr 0 0 0 10 (8 * t.toNat))

/-- Whether a core's cluster lies in a tenant's sub-mesh (R226). -/
def State.inSubmesh (s : State) (t : BitVec 12) (c : CoreId) : Bool :=
  let r := (s.submesh t).toNat
  let x0 := r % 2 ^ 5
  let y0 := r / 2 ^ 5 % 2 ^ 4
  (s.submesh t).getLsbD 18 && x0 ≤ gridX c && gridX c ≤ x0 + r / 2 ^ 9 % 2 ^ 5 &&
    y0 ≤ gridY c && gridY c ≤ y0 + r / 2 ^ 14 % 2 ^ 4

/-- Whether a core is a server core: by the mask in use, whose default is cluster 0 of every die (R23). -/
def State.isServer (s : State) (c : CoreId) : Bool :=
  match s.module.servers with
  | none => clusterOf c == 0
  | some l => l.contains c

/-- LEVEL of SVC (Table 28.2). -/
def State.serviceLevel (s : State) : Nat := (s.sysReg (sysAddr 0 0 0 9 0)).toNat % 4

/-- L1DIE of SVC. -/
def State.l1die (s : State) : Nat := (s.sysReg (sysAddr 0 0 0 9 0)).toNat / 4 % 8

/-! ### Fault records (R305, R402) -/

/-- A fault-queue record (Table 18.6). -/
structure FaultRecord where
  kind : Nat := 0
  map : Nat := 0
  stopoff : Nat := 0
  missoff : Nat := 0
  done : Nat := 0
  frame : Nat := 0
  gen : Nat := 0
  handle : Nat := 0
  tag : Nat := 0
  origin : CoreId
  slot : Nat := 0
  source : Nat
  cause : Nat
  va : Nat := 0

/-- The 512 bits of a record, V set. -/
def FaultRecord.encode (r : FaultRecord) : Nat :=
  2 ^ 511 + r.kind % 4 * 2 ^ 448 + r.map % 2 ^ 64 * 2 ^ 384 + r.stopoff % 2 ^ 64 * 2 ^ 320 +
  r.missoff % 2 ^ 64 * 2 ^ 256 + r.done % 2 ^ 64 * 2 ^ 192 + r.frame % 2 ^ 16 * 2 ^ 176 + r.gen % 2 ^ 16 * 2 ^ 160 +
  r.handle % 2 ^ 32 * 2 ^ 128 + r.tag % 2 ^ 16 * 2 ^ 112 + r.origin.toNat * 2 ^ 88 + r.slot % 4 * 2 ^ 86 +
  r.source % 16 * 2 ^ 82 + r.cause % 2 ^ 10 * 2 ^ 72 + r.va % 2 ^ 72

/-- Write `n` 64-bit words of `v` at a system address. -/
def State.writeWords (s : State) (a v : Nat) : Nat → State
  | 0 => s
  | n + 1 => (s.setSysReg a (BitVec.ofNat 64 v)).writeWords (a + 8) (v / 2 ^ 64) n

/-- Read `n` 64-bit words at a system address. -/
def State.readWords (s : State) (a : Nat) : Nat → Nat
  | 0 => 0
  | n + 1 => (s.sysReg a).toNat + 2 ^ 64 * s.readWords (a + 8) n

/-- A ring of R402: the block and offset of HEAD, of TAIL, and its places. -/
structure RingRegs where
  block : Nat
  head : Nat
  tail : Nat
  places : Nat

def faultRing : RingRegs := ⟨3, 0x00, 0x08, 4096⟩
def supervisorRing : RingRegs := ⟨4, 0x20000, 0x20008, 256⟩
def releaseRing : RingRegs := ⟨6, 0x8000, 0x8008, 4096⟩

def State.ringHead (s : State) (die : Nat) (r : RingRegs) : Nat := (s.sysReg (sysAddr die 0 0 r.block r.head)).toNat

def State.ringTail (s : State) (die : Nat) (r : RingRegs) : Nat := (s.sysReg (sysAddr die 0 0 r.block r.tail)).toNat

/-- The places that a ring holds (R402). -/
def State.ringCount (s : State) (die : Nat) (r : RingRegs) : Nat :=
  (s.ringTail die r + r.places - s.ringHead die r % r.places) % r.places

/-- A ring is full when it holds one place fewer than it has (R402). -/
def State.ringFull (s : State) (die : Nat) (r : RingRegs) : Bool := s.ringCount die r == r.places - 1

def State.ringAdvance (s : State) (die : Nat) (r : RingRegs) : State :=
  s.setSysReg (sysAddr die 0 0 r.block r.tail) (BitVec.ofNat 64 ((s.ringTail die r + 1) % r.places))

/-- A write of `v` to a ring's HEAD: it frees the places up to `v`, or is ignored whole (R402). -/
def State.ringRelease (s : State) (die : Nat) (r : RingRegs) (v : BitVec 64) : State :=
  if v.toNat < r.places ∧ (v.toNat + r.places - s.ringHead die r % r.places) % r.places ≤ s.ringCount die r then
    s.setSysReg (sysAddr die 0 0 r.block r.head) v
  else s

/-- Append a record to the fault queue of die `d`; one that finds it full is dropped and counted (R305). -/
def State.recordAt (s : State) (d : Nat) (r : FaultRecord) : State :=
  let lost := sysAddr d 0 0 3 0x10
  if s.ringFull d faultRing then
    if (s.sysReg lost).toNat = 2 ^ 64 - 1 then s else s.setSysReg lost (s.sysReg lost + 1#64)
  else
    (s.writeWords (sysAddr d 0 0 2 (64 * s.ringTail d faultRing)) r.encode 8).ringAdvance d faultRing

/-- Append a record to this die's fault queue. -/
def State.record (s : State) (r : FaultRecord) : State := s.recordAt s.dieNo r

/-! ### Power leave (R287, R394) -/

/-- The weight of an energy class (Table 28.4); 0 where there is no such class. -/
def classWeight : Nat → Nat
  | 1 => 8
  | 2 => 2
  | 3 => 4
  | 4 => 12
  | _ => 0

/-- The leave budget of the die (R392). -/
def State.budget (s : State) : Nat := if s.die.throttle then 0 else 1024 * s.module.pcap / 9000

/-- Return the grant that a slot holds; the headland then looks at its queue (R287, R394). -/
def State.returnGrant (s : State) (k : SlotId) : State :=
  match (s.slot k).grant with
  | none => s
  | some c =>
    ((s.modSlot k fun x => { x with grant := none }).modDie fun d => { d with used := d.used - classWeight c }).scheduleOnce
      .headlandGrant

/-- A request of slot `k` of this core. -/
def Ask.isOf (a : Ask) (k : SlotId) : Bool := a.other.isNone && a.slot == k

/-- Withdraw a slot's request from the headland's queue (R398); the headland then looks at the one that is oldest now. -/
def State.withdrawAsk (s : State) (k : SlotId) : State :=
  if s.die.asks.any fun a => a.isOf k then
    (s.modDie fun d => { d with asks := d.asks.filter fun a => !a.isOf k }).scheduleOnce .headlandGrant
  else s

/-! ### The issue policy (R222) -/

/-- Of two slots the one that has waited longer, the first of equals. -/
def State.longer (s : State) (a : SlotId) (b : SlotId) : SlotId := if (s.slot a).waited < (s.slot b).waited then b else a

/-- The slot with the largest wait, the lower number of equals. -/
def State.longest (s : State) : List SlotId → Option SlotId
  | [] => none
  | k :: t => some (t.foldl s.longer k)

/-- The first ready slot after `last` (mod 4). -/
def nextInTurn (last : SlotId) (r : List SlotId) : Option SlotId := [last + 1, last + 2, last + 3, last].find? fun k => k ∈ r

/-- The slot of a list that the policy chooses, if any. -/
def State.pick (s : State) (r : List SlotId) : Option SlotId :=
  match s.longest (r.filter fun k => decide (61 ≤ (s.slot k).waited)) with
  | some k => some k
  | none =>
    if s.core.ipol = false then
      if s.core.cur ∈ r ∧ s.core.yielded = false then some s.core.cur else s.longest r
    else nextInTurn s.core.last r

/-! ### Other slots -/

/-- Another slot waits for what `f` picks. -/
def State.othersWait (s : State) (k : SlotId) (f : Wait → Bool) : Bool :=
  slotIds.any fun j => j != k &&
    match (s.ctx j).wait with
    | some w => f w.wait
    | none => false

/-! ### Taking an exception -/

/-- What a trap reports: the cause, `xval` and `xval2`, and whether the trapping unit is 16 bits long and guarded. -/
structure TrapInfo where
  cause   : Nat
  val     : Q
  val2    : Q
  len16   : Bool
  guarded : Bool

/-- The causes that go to the monitor whatever the raising level (Table 18.9, kind mon). -/
def toMonitor (c : Nat) : Bool := c == 0x006 || c == 0x124

/-- `xcause`: SLOT, LEN16, GUARDED, CAUSE (Table 5.12). -/
def causeWord (k : SlotId) (t : TrapInfo) : BitVec 16 :=
  BitVec.ofNat 16 (k.val * 2 ^ 14 + t.len16.toNat * 2 ^ 11 + t.guarded.toNat * 2 ^ 10 + t.cause % 2 ^ 10)

/-- INTRAP of `xstat` (Table 5.13). -/
def TrapRegs.intrap (r : TrapRegs) : Bool := r.stat.getLsbD 2

/-- PPL of `xstat`. -/
def TrapRegs.ppl (r : TrapRegs) : Nat := r.stat.toNat % 4

/-- DRILL of `xstat`. -/
def TrapRegs.drill (r : TrapRegs) : Bool := r.stat.getLsbD 3

/-- DPOS of `xstat`. -/
def TrapRegs.dpos (r : TrapRegs) : Nat := r.stat.toNat / 2 ^ 4 % 2 ^ 4

/-- DPASS of `xstat`. -/
def TrapRegs.dpass (r : TrapRegs) : Nat := r.stat.toNat / 2 ^ 8 % 2 ^ 14

/-- The slot's replay goes on (R113), so that a trap now is one taken during it. -/
def Ctx.replaying (c : Ctx) : Bool :=
  match c.drill with
  | some d => d.live
  | none => false

/-- `xstat` at the entry of a trap: PPL, INTRAP, and the drill fields of R116. -/
def Ctx.entryStat (c : Ctx) : BitVec 22 :=
  let base := c.level.num + 4
  match c.drill with
  | some d =>
    if d.live then BitVec.ofNat 22 (base + 8 + d.pos % 2 ^ 4 * 2 ^ 4 + (d.k - 1 - d.pass) % 2 ^ 14 * 2 ^ 8)
    else BitVec.ofNat 22 base
  | none => BitVec.ofNat 22 base

/-- Where a handler is entered: ADDR with [8:0] cleared, plus 64 × (c div 128) (Table 5.11). -/
def vectorTo (vec : Reg) (c : Nat) : Reg :=
  { vec with bits := withAddr vec.bits (addrOf vec.bits / 2 ^ 9 * 2 ^ 9 + 64 * (c / 128)) }

/-- A replay interrupted by a trap keeps its buffer but does not go on (R116). -/
def Ctx.haltReplay (c : Ctx) : Ctx := { c with drill := c.drill.map fun d => { d with live := false } }

/-- Every slot of the core loses its grant and its request, and the core is held: a record with SOURCE 4 names the
cause (R287, R297, R305). The unit that trapped goes no further. DEDUCED (log entry 25). -/
def State.enterHeld (s : State) (k : SlotId) (c : Nat) : State :=
  let s := slotIds.foldl (fun s k => (s.returnGrant k).withdrawAsk k) (s.modCtx k fun c => { c with guarded := none })
  (s.modCore fun x => { x with mode := .held, heldCause := c }).record
    { origin := s.core.id, slot := k.val, source := 4, cause := c }

/-- The bubble of slot `k` after a taken transfer or the entry of a trap (R248). -/
def State.setBubble (s : State) (k : SlotId) : State := s.modSlot k fun x => { x with bubble := true }

/-- Whether a cause goes to the user-level local handler (R279). -/
def Ctx.takesLocally (c : Ctx) (cause : Nat) : Bool :=
  (cause == 0x080 || cause == 0x142) && c.level == .user && c.uxvec.bits.getLsbD 0 && !c.uxact && c.drill.isNone

/-- The trap registers of a level written at an entry (R279). -/
def Ctx.entered (c : Ctx) (k : SlotId) (t : TrapInfo) (r : TrapRegs) : TrapRegs :=
  { r with pc := c.code, cause := causeWord k t, val := t.val, val2 := t.val2, stat := c.entryStat }

/-- Entry of the user-level local handler (R279). -/
def Ctx.enterLocal (c : Ctx) (k : SlotId) (t : TrapInfo) : Ctx :=
  { c with
    uxpc := c.code, uxcause := causeWord k t, uxval := t.val, uxact := true
    code := { c.uxvec with bits := withAddr c.uxvec.bits (addrOf c.uxvec.bits / 2 ^ 9 * 2 ^ 9) }
    parked := ⟨c.wait, c.run, c.again⟩ :: c.parked, wait := none, run := none, again := none, guarded := none
    entering := some ⟨t.cause, true⟩ }

/-- Entry of the supervisor's handler. -/
def Ctx.enterSupervisor (c : Ctx) (k : SlotId) (t : TrapInfo) : Ctx :=
  { c.haltReplay with
    sx := c.entered k t c.sx
    level := .supervisor, code := vectorTo c.sx.vec t.cause
    parked := ⟨c.wait, c.run, c.again⟩ :: c.parked, wait := none, run := none, again := none, guarded := none
    entering := some ⟨t.cause, false⟩ }

/-- Entry of the monitor's handler. -/
def Ctx.enterMonitor (c : Ctx) (k : SlotId) (t : TrapInfo) : Ctx :=
  { c.haltReplay with
    mx := c.entered k t c.mx
    level := .monitor, code := vectorTo c.mx.vec t.cause
    parked := ⟨c.wait, c.run, c.again⟩ :: c.parked, wait := none, run := none, again := none, guarded := none
    entering := some ⟨t.cause, false⟩ }

/-- The level at which a cause is handled: max(v, 1), the monitor for its own causes, one higher while INTRAP (R279). -/
def Ctx.trapLevel (c : Ctx) (cause : Nat) : Level :=
  if toMonitor cause || c.level == .monitor || c.sx.intrap then .monitor else .supervisor

/-- Take a trap (R279) on slot `k`, whose program counter stands at the unit that traps, its guard where it has one. -/
def State.deliver (s : State) (k : SlotId) (t : TrapInfo) : State :=
  let c := s.ctx k
  if c.takesLocally t.cause then (s.modCtx k fun c => c.enterLocal k t).setBubble k
  else if c.trapLevel t.cause = .supervisor then (s.modCtx k fun c => c.enterSupervisor k t).setBubble k
  else if c.mx.intrap then s.enterHeld k t.cause
  else (s.modCtx k fun c => c.enterMonitor k t).setBubble k

/-- The causes that a first fetch of a handler gives (R280): 0x006 to the monitor with the address fetched and the
cause being delivered; for the user-level local handler 0x006 to the supervisor from the instruction that raised the
original cause, with uxact cleared; for a monitor handler the held state, which records the cause that was being
delivered. DEDUCED (log entry 29). -/
def State.handlerFetchFault (s : State) (k : SlotId) (e : Entering) : State :=
  let c := s.ctx k
  let at_ := q c.pc
  if e.localHandler then
    let s := s.modCtx k fun c => { c with code := c.uxpc, uxact := false, entering := none, parked := c.parked.drop 1 }
    let c := s.ctx k
    let t : TrapInfo := ⟨0x006, at_, q e.cause, c.uxcause.getLsbD 11, c.uxcause.getLsbD 10⟩
    if c.sx.intrap then
      if c.mx.intrap then s.enterHeld k 0x006 else (s.modCtx k fun c => c.enterMonitor k t).setBubble k
    else (s.modCtx k fun c => c.enterSupervisor k t).setBubble k
  else if c.level = .monitor then s.enterHeld k e.cause
  else if c.mx.intrap then s.enterHeld k 0x006
  else (s.modCtx k fun c => { c with entering := none }.enterMonitor k ⟨0x006, at_, q e.cause, false, false⟩).setBubble k

/-- The code that a return resumes, with the wait, the vector run and the power leave still asked for that the trap
interrupted (R281, R191, R395); a wait and a run stay with the instruction that stood in them. -/
def Ctx.resumeAt (c : Ctx) (code : Reg) : Ctx :=
  let p := c.parked.head?.getD ⟨none, none, none⟩
  { c with
    code := code, entering := none, guarded := none
    wait := p.wait.bind fun w => if w.pc = addrOf code.bits then some w else none
    run := p.run.bind fun r => if r.pc = addrOf code.bits then some r else none
    again := p.again
    parked := c.parked.drop 1 }

/-- Return from a trap at a level above user (R284): the level and the code that the trap registers saved. -/
def Ctx.returnFrom (c : Ctx) (r : TrapRegs) : Ctx :=
  { c.resumeAt r.pc with level := Level.ofNum r.ppl }

end Sys2Proof.Machine
end

