-- ==== Sys2Proof/Machine/Caps.lean ====
section
/-! DEFINITION. Capabilities: their fields, bounds, representability and encoding (R54 to R59), and the checks of an
access (R60, R62). -/

namespace Sys2Proof.Machine

/-- PERM, bits [111:100], and its bits (Table 5.2). -/
def permOf (b : Q) : Nat := bits b 100 12

inductive Perm where | host | windrow | system | unseal | seal | engine | remote | storecap | loadcap | execute | store | load
  deriving DecidableEq, Repr

/-- The place of a permission in PERM. -/
def Perm.bit : Perm → Nat
  | .host => 11
  | .windrow => 10
  | .system => 9
  | .unseal => 8
  | .seal => 7
  | .engine => 6
  | .remote => 5
  | .storecap => 4
  | .loadcap => 3
  | .execute => 2
  | .store => 1
  | .load => 0

def hasPerm (b : Q) (p : Perm) : Bool := b.getLsbD (100 + p.bit)

/-- OTYPE, bits [123:116]; 0 is unsealed. -/
def otypeOf (b : Q) : Nat := bits b 116 8

/-- EXP, bits [99:94]. -/
def expOf (b : Q) : Nat := bits b 94 6

/-- BLO, bits [93:83]. -/
def bloOf (b : Q) : Nat := bits b 83 11

/-- TLO, bits [82:72]. -/
def tloOf (b : Q) : Nat := bits b 72 11

/-- The bounds by R56, exact integers. The base is the one b with b mod turn = BLO × g and a − 1920 g < b ≤ a + 128 g:
the top of the window, less what its distance to BLO × g leaves modulo a turn. -/
def capBounds (c : Q) : Int × Int :=
  let g : Int := (2 ^ expOf c : Nat)
  let turn : Int := 2048 * g
  let top : Int := (addrOf c : Int) + 128 * g
  let base : Int := top - (top - (bloOf c : Int) * g) % turn
  (base, base + (((tloOf c : Int) - (bloOf c : Int)) % 2048) * g)

/-- Malformed bounds (R57). -/
def malformed (c : Q) : Bool :=
  let b := capBounds c
  expOf c == 63 || b.1 < 0 || (2 ^ 72 : Int) < b.2 || (1792 : Int) < ((tloOf c : Int) - (bloOf c : Int)) % 2048

/-- An address is representable in c when c with that address decodes to the same bounds (R58). -/
def representable (c : Q) (a : Nat) : Bool := capBounds (withAddr c a) == capBounds c

/-- The smallest exponent from `e` on, within `fuel` tries, at which the bounds span at most 1,792 granules (R59). -/
def encodeExp (b t : Nat) : Nat → Nat → Nat
  | 0, e => e
  | fuel + 1, e => if (t + 2 ^ e - 1) / 2 ^ e - b / 2 ^ e ≤ 1792 then e else encodeExp b t fuel (e + 1)

/-- EXP, BLO, TLO and exactness for the bounds b to t (R59). -/
def capEncode (b t : Nat) : Nat × Nat × Nat × Bool :=
  let e := encodeExp b t 62 0
  (e, b / 2 ^ e % 2048, (t + 2 ^ e - 1) / 2 ^ e % 2048, b % 2 ^ e == 0 && t % 2 ^ e == 0)

/-- Capability bits with bounds and address replaced, OTYPE and PERM kept. -/
def withBounds (c : Q) (e bl tl a : Nat) : Q :=
  BitVec.ofNat 128 (c.toNat / 2 ^ 100 * 2 ^ 100 + e % 2 ^ 6 * 2 ^ 94 + bl % 2 ^ 11 * 2 ^ 83 + tl % 2 ^ 11 * 2 ^ 72 + a % 2 ^ 72)

/-- Capability bits with OTYPE replaced. -/
def withOtype (c : Q) (o : Nat) : Q :=
  BitVec.ofNat 128 (c.toNat / 2 ^ 124 * 2 ^ 124 + o % 2 ^ 8 * 2 ^ 116 + c.toNat % 2 ^ 116)

/-- Capability bits with PERM replaced. -/
def withPerm (c : Q) (p : Nat) : Q :=
  BitVec.ofNat 128 (c.toNat / 2 ^ 112 * 2 ^ 112 + p % 2 ^ 12 * 2 ^ 100 + c.toNat % 2 ^ 100)

/-- The unsealed capability with permissions `perm`, address a and the bounds that R59 gives for a to t. -/
def makeCap (perm a t : Nat) : Reg :=
  let (e, bl, tl, _) := capEncode a t
  ⟨withBounds (withPerm 0#128 perm) e bl tl a, true⟩

def Perm.mask (l : List Perm) : Nat := l.foldl (fun n p => n + 2 ^ p.bit) 0

/-- The address of an operand with offset: (c.ADDR + offset) mod 2^72 (R124). -/
def operandAddr (c : Q) (off : Int) : Nat := (((addrOf c : Int) + off) % (2 ^ 72 : Nat)).toNat

/-- `xval2` of the capability causes (R62): the register, whether the code capability or a control register holds
it, and the access size, saturating at 2^24 − 1 (R122). -/
def capVal2 (r : Nat) (code ctl : Bool) (size : Nat) : Q :=
  q (r % 32 + code.toNat * 32 + ctl.toNat * 64 + Nat.min size (2 ^ 24 - 1) * 2 ^ 8)

/-- Steps 1 to 4 of R60 for `n` bytes at `a`: the cause of the first that fails. -/
def capFault (c : Reg) (perms : List Perm) (a n : Nat) : Option Nat :=
  if c.tag = false then some 0x180
  else if otypeOf c.bits ≠ 0 then some 0x181
  else if perms.all (hasPerm c.bits) = false then some 0x182
  else
    let b := capBounds c.bits
    if b.1 ≤ (a : Int) ∧ (a : Int) + (n : Int) ≤ b.2 then none else some 0x185

/-- R121: the bits of y are a capability within the authority of x. -/
def within (x y : Q) : Bool :=
  let xb := capBounds x
  let yb := capBounds y
  bits y 124 4 == 0 && bits y 112 4 == 0 && otypeOf y == 0 && !malformed y &&
    xb.1 ≤ yb.1 && yb.2 ≤ xb.2 && permOf y &&& permOf x == permOf y

/-- The region of an address, bits [71:68] (Table 1.2). -/
def regionOf (a : Nat) : Nat := a / 2 ^ 68 % 16

/-- The reflected table step of CRC-32C over one bit. -/
def crcBits : Nat → Nat → Nat
  | 0, c => c
  | n + 1, c => crcBits n (if c % 2 = 1 then c / 2 ^^^ 0x82F63B78 else c / 2)

/-- CRC-32C, reflected, initial value and final xor 0xFFFFFFFF (R224). -/
def crc32c (l : List Byte) : Nat := l.foldl (fun c b => crcBits 8 (c ^^^ b.toNat)) 0xFFFFFFFF ^^^ 0xFFFFFFFF

/-- pkey_of(c): the CRC-32C of the base and the top of c, each as 9 bytes little-endian, the top modulo 2^72 (R224). -/
def pkeyOf (c : Q) : BitVec 32 :=
  let b := capBounds c
  BitVec.ofNat 32 (crc32c (leBytes 9 (b.1 % (2 ^ 72 : Nat)).toNat ++ leBytes 9 (b.2 % (2 ^ 72 : Nat)).toNat))

end Sys2Proof.Machine
end

