-- ==== Sys2Proof/Machine/Memory.lean ====
section
/-! DEFINITION. Memory: the locations of every space, bytes and granule tags at their homes (R126, R374), and the
copies that this die keeps of sectors homed on other dies (R181). -/

namespace Sys2Proof.Machine

/-! ### Locations -/

/-- The location of byte `off` of a core's LM. -/
def lmLoc (c : CoreId) (off : Nat) : Nat := 2 ^ 60 + c.toNat * 2 ^ 18 + off

/-- The location of byte `off` of the CM of a core's cluster. -/
def cmLoc (c : CoreId) (off : Nat) : Nat := 2 ^ 61 + c.toNat / 16 * 2 ^ 22 + off

/-- The location of a byte of host-granted storage (Table 18.7). -/
def storageLoc (a : Nat) : Nat := 2 ^ 62 + a

/-- The physical addresses of one die's HBM span this many bytes (R15). -/
def dieBytes : Nat := 0x2800000000

/-- The first physical address above HBM (R15). -/
def hbmTop : Nat := 8 * dieBytes

/-- The first physical address of host memory, and of peer memory (Table 18.4). -/
def hostBase : Nat := 0x80000000000000
def peerBase : Nat := 0xC0000000000000

/-- Where a location lies. -/
inductive Space where | hbm | host | peer | lm | cm | storage
  deriving DecidableEq, Repr, Inhabited

def spaceOf (loc : Nat) : Space :=
  if loc < hbmTop then .hbm
  else if loc < peerBase then .host
  else if loc < 2 ^ 60 then .peer
  else if loc < 2 ^ 61 then .lm
  else if loc < 2 ^ 62 then .cm
  else .storage

/-- The die that homes an HBM address (R15). -/
def homeDie (loc : Nat) : Nat := loc / dieBytes

/-- The home L2 slice of the line that holds an HBM address, on its home die (R15). -/
def homeSlice (loc : Nat) : Nat := fld loc 8 6 ^^^ fld loc 14 6

/-- The mesh stop at which a line's home slice stands: that of a cluster of its home die (R15). -/
def homeStop (loc : Nat) : Nat := homeDie loc * 64 + homeSlice loc

/-- The HBM stack of its die that holds an address: even 256-byte lines in the first, odd ones in the second (R15). -/
def hbmStack (loc : Nat) : Nat := loc / 256 % 2

/-- A page of device memory that the host owns (R365). -/
def State.hostOwns (s : State) (page : Nat) : Bool := Table.get false s.module.hostOwned page

/-- An HBM location of which this die keeps copies: homed on another die, and not the host's, whose pages stay coherent
under CXL.cache (R181, R365). -/
def State.remote (s : State) (loc : Nat) : Bool :=
  spaceOf loc == .hbm && homeDie loc != s.dieNo && !s.hostOwns (loc / 2 ^ 12)

/-- The spaces that keep granule tags (R126). -/
def keepsTags (loc : Nat) : Bool :=
  match spaceOf loc with
  | .hbm | .lm | .cm => true
  | _ => false

/-! ### Bytes and tags at the home -/

def State.byte (s : State) (loc : Nat) : Byte := Table.get 0#8 s.mem loc

def State.bytes (s : State) (loc n : Nat) : List Byte := (upFrom loc n).map s.byte

/-- The tag of the granule that holds a byte (R126). -/
def State.granuleTag (s : State) (loc : Nat) : Bool := Table.get false s.tags (loc / 16 * 16)

/-- Write bytes from `loc` upward. -/
def Memory.write (m : List Host.Cell) (loc : Nat) : List Byte → List Host.Cell
  | [] => m
  | b :: t => Memory.write (Table.set 0#8 m loc b) (loc + 1) t

/-- Set the tag of every granule that `n` bytes from `loc` touch. -/
def Tags.write (t : Table Bool) (loc n : Nat) (v : Bool) : Table Bool :=
  (upFrom (loc / 16) ((loc + n + 15) / 16 - loc / 16)).foldl (fun t g => Table.set false t (16 * g) v) t

/-- Bytes and the tag of their granules stored, with no check. -/
def State.poke (s : State) (loc : Nat) (data : List Byte) (tag : Bool) : State :=
  { s with
    mem := Memory.write s.mem loc data
    tags := if keepsTags loc then Tags.write s.tags loc data.length tag else s.tags }

/-- Every byte from `lo` to `hi` zero with tag 0 (R126). -/
def State.zero (s : State) (lo hi : Nat) : State :=
  { s with mem := Table.clear s.mem lo hi, tags := Table.clear s.tags (lo / 16 * 16) hi }

/-- The seal of the block that holds a location: 0 unwritten, else 1 plus the key identifier (R374). -/
def State.seal (s : State) (loc : Nat) : Nat := Table.get 0 s.seals (loc / 256)

/-- Whether the block that holds a location has an uncorrectable error (R309). -/
def State.isBad (s : State) (loc : Nat) : Bool := Table.get false s.bad (loc / 256)

/-- Whether a block opens under a key identifier (R374), with no uncorrectable error. -/
def State.opens (s : State) (key : BitVec 10) (loc : Nat) : Bool :=
  !s.isBad loc && (spaceOf loc != .hbm || s.seal loc == 0 || s.seal loc == 1 + key.toNat)

/-- Whether every block of `n` bytes from `loc` opens. -/
def State.opensAll (s : State) (key : BitVec 10) (loc n : Nat) : Bool :=
  (upFrom (loc / 256) ((loc + n + 255) / 256 - loc / 256)).all fun b => s.opens key (256 * b)

/-- The record of an error found with no consumer (R309). -/
def State.recordError (s : State) (loc : Nat) : State :=
  s.record { origin := s.core.id, source := 5, cause := 0x130, va := loc }

/-- A write to part of one HBM block or to the whole of it (R374): a whole block is sealed anew; a part is merged
where the block opens, and discarded with a record where it does not. -/
def State.sealWrite (s : State) (key : BitVec 10) (loc : Nat) (data : List Byte) (tag : Bool) : State :=
  if loc % 256 = 0 ∧ data.length = 256 then
    { s.poke loc data tag with
      seals := Table.set 0 s.seals (loc / 256) (1 + key.toNat), bad := Table.set false s.bad (loc / 256) false }
  else if s.opens key loc then
    { s.poke loc data tag with seals := Table.set 0 s.seals (loc / 256) (1 + key.toNat) }
  else s.recordError loc

/-- A write to HBM at the home, block by block. -/
def State.homeWrite (s : State) (key : BitVec 10) (loc : Nat) (data : List Byte) (tag : Bool) : Nat → State
  | 0 => s
  | fuel + 1 =>
    if data = [] then s
    else
      let room := 256 - loc % 256
      (s.sealWrite key loc (data.take room) tag).homeWrite key (loc + room) (data.drop room) tag fuel

/-! ### What the host holds (R352) -/

/-- The line of 64 bytes that the host caches, and whether it may have changed it. -/
def State.hostHolds (s : State) (line : Nat) : Option Bool :=
  (s.module.snooped.find? fun l => l.1 == line).map Prod.snd

/-- Whether an access to a line waits for a back-invalidation snoop. -/
def State.snoopNeeded (s : State) (write : Bool) (line : Nat) : Bool :=
  match s.hostHolds line with
  | some dirty => write || dirty
  | none => false

/-- The lines of 64 bytes that `n` bytes at `loc` touch. -/
def linesOf (loc n : Nat) : List Nat := upFrom (loc / 64) ((loc + n + 63) / 64 - loc / 64)

/-- The lines of an access for which the host must be asked. -/
def State.snoopLines (s : State) (loc n : Nat) (write : Bool) : List Nat := (linesOf loc n).filter (s.snoopNeeded write)

/-- A line that a back-invalidation snoop asks the host for: data that the host has changed is merged at the home, and
the filter follows the state that is left (R352). DESIGN CHOICE (log entry 40). -/
def State.backSnoop (write : Bool) (s : State) (line : Nat) : State :=
  let s := match s.hostHolds line with
    | some true =>
      if Config.hostDirty s.fresh then
        (s.sealWrite 1#10 (64 * line) ((upFrom 0 64).map (Config.hostLine s.fresh)) false).tick
      else s.tick
    | _ => s
  s.modModule fun m =>
    { m with
      snooped := if write then m.snooped.filter fun l => l.1 != line
        else m.snooped.map fun l => if l.1 = line then (line, false) else l }

/-- The lines of an access taken from the host, as the home's own act. -/
def State.unsnoop (s : State) (loc n : Nat) (write : Bool) : State := (s.snoopLines loc n write).foldl (State.backSnoop write) s

/-! ### This die's copies of sectors homed on other dies (R181) -/

def Copy.none : Copy := ⟨0#4, 0#32, [], 0#10, 0#2⟩

def State.copy (s : State) (sec : Nat) : Copy := Table.get Copy.none s.die.copies sec

def State.setCopy (s : State) (sec : Nat) (c : Copy) : State :=
  s.modDie fun d => { d with copies := Table.set Copy.none d.copies sec c }

/-- The bytes of a copy, padded where none is held yet. -/
def Copy.bytes (c : Copy) : List Byte := c.data ++ List.replicate (32 - c.data.length) 0#8

/-- The copy with word `w` fetched: bytes not dirty come from the home, and a granule's tag with its first word. -/
def Copy.fill (c : Copy) (home : List Byte) (homeTags : List Bool) (w : Nat) : Copy :=
  { c with
    words := c.words ||| BitVec.ofNat 4 (2 ^ w)
    data := (upFrom 0 32).map fun i =>
      if i / 8 = w ∧ c.dirty.getLsbD i = false then home.getD i 0#8 else c.bytes.getD i 0#8
    tags :=
      if fld c.words.toNat (w / 2 * 2) 2 = 0 ∧ fld c.dirty.toNat (16 * (w / 2)) 16 = 0 then
        BitVec.ofNat 2 (c.tags.toNat % 2 ^ (w / 2) + c.tags.toNat / 2 ^ (w / 2 + 1) * 2 ^ (w / 2 + 1) +
          (homeTags.getD (w / 2) false).toNat * 2 ^ (w / 2))
      else c.tags }

/-- The words of a copy that are dirty throughout: they stay valid when clean words go (R181). -/
def fullWords (dirty : BitVec 32) : BitVec 4 :=
  BitVec.ofNat 4 (((upFrom 0 4).map fun w => if fld dirty.toNat (8 * w) 8 = 255 then 2 ^ w else 0).sum)

/-- The words of a sector that an access to `n` bytes at `loc` needs: its own, or all where the sector holds none
valid (R181). -/
def Copy.wanted (c : Copy) (loc n : Nat) : List Nat :=
  if c.words = 0#4 then [0, 1, 2, 3]
  else (upFrom (loc % 32 / 8) ((loc % 32 + n + 7) / 8 - loc % 32 / 8)).filter fun w => !c.words.getLsbD w

/-- Make the words of one sector that an access needs valid in this die's copy (R181). -/
def State.fetchSector (s : State) (loc n : Nat) : State :=
  let sec := loc / 32
  let s := s.unsnoop (32 * sec) 32 false
  let c := s.copy sec
  let home := s.bytes (32 * sec) 32
  let tags := [s.granuleTag (32 * sec), s.granuleTag (32 * sec + 16)]
  s.setCopy sec ((c.wanted loc n).foldl (fun c w => c.fill home tags w) c)

/-- The dirty bytes of a copy written at the home under the copy's key, and its tags with them (R181, R126). -/
def State.writeBackBytes (s : State) (sec : Nat) (c : Copy) : List Nat → State
  | [] => s
  | i :: t =>
    (if c.dirty.getLsbD i then s.sealWrite c.key (32 * sec + i) [c.bytes.getD i 0#8] (c.tags.getLsbD (i / 16)) else s).writeBackBytes
      sec c t

/-- Write back the dirty bytes of one sector; where the home block does not open, all of them are discarded (R374). -/
def State.writeBack (s : State) (sec : Nat) : State :=
  let c := s.copy sec
  if c.dirty = 0#32 then s
  else
    let s := s.unsnoop (32 * sec) 32 true
    (if s.opens c.key (32 * sec) then s.writeBackBytes sec c (upFrom 0 32) else s.recordError (32 * sec)).setCopy sec
      { c with dirty := 0#32 }

/-- The clean valid words of a copy. -/
def Copy.clean (c : Copy) : BitVec 4 := c.words &&& ~~~(fullWords c.dirty)

/-- Drop the clean words of one sector; dirty bytes stay (R181). -/
def State.dropClean (s : State) (sec : Nat) : State :=
  let c := s.copy sec
  s.setCopy sec (if c.dirty = 0#32 then Copy.none else { c with words := c.words &&& fullWords c.dirty })

/-- The sectors of which this die keeps a copy, in ascending order. -/
def State.copiedSectors (s : State) : List Nat := s.die.copies.map Prod.fst

/-- A release at `.dev` or `.sys` (R139, R181). -/
def State.writeBackAll (s : State) : State := s.copiedSectors.foldl State.writeBack s

/-- Sector `sec` written back and no longer copied, as before an act at the home. -/
def State.flushSector (s : State) (sec : Nat) : State := (s.writeBack sec).setCopy sec Copy.none

/-- An open sheaf of this core has read a sector: its copy stays, so that the sheaf's reads of the sector are atomic together
(R181). -/
def State.keptSector (s : State) (sec : Nat) : Bool := slotIds.any fun k => (s.slot k).sheaf.reads.contains sec

/-- A sector evicted from L2: its dirty bytes to their home, and its copy gone unless an open sheaf has read it. -/
def State.evictSector (s : State) (sec : Nat) : State := if s.keptSector sec then s.writeBack sec else s.flushSector sec

/-- A line of 256 bytes evicted from L2: its eight sectors (R13, R400). -/
def State.flushLine (s : State) (line : Nat) : State := (upFrom (8 * line) 8).foldl State.evictSector s

/-- The lines of 256 bytes that a slice of this die's L2 holds copies in: a line homed on another die has here the slice
number that it has at its home. DESIGN CHOICE (log entry 59). -/
def State.copiedLines (s : State) (slice : Nat) : List Nat :=
  ((s.copiedSectors.map fun x => x / 8).eraseDups).filter fun l => homeSlice (256 * l) == slice

/-- The lines that a slice has for ordinary data: 16 MiB less its part of the silo (R16, Table 0.1). -/
def State.sliceLines (s : State) : Nat := 65536 - 64 * s.module.silo

/-- Room for a line in its slice: where the slice is full another is evicted, of which no open sheaf has read a sector.
DESIGN CHOICE (log entry 59). -/
def State.l2Room (s : State) (loc : Nat) : State :=
  let l := (s.copiedLines (homeSlice loc)).filter fun x => x != loc / 256
  let free := l.filter fun x => !((upFrom (8 * x) 8).any s.keptSector)
  if l.length < s.sliceLines then s
  else
    match free[Config.l2Victim s.fresh % free.length]? with
    | some line => (s.flushLine line).tick
    | none => s

/-- The bytes, one sector at a time, that a write of `data` at offset `o` leaves in a copy: its dirty bytes and the
tags of the granules it touches. -/
def Copy.update (c : Copy) (key : BitVec 10) (o : Nat) (data : List Byte) (tag : Bool) : Copy :=
  let n := data.length
  let touched (g : Nat) : Bool := o < 16 * g + 16 && 16 * g < o + n
  let dirty := c.dirty ||| BitVec.ofNat 32 (2 ^ o * (2 ^ n - 1))
  { c with
    words := c.words ||| fullWords dirty
    dirty := dirty
    data := c.bytes.take o ++ data ++ c.bytes.drop (o + n)
    key := key
    tags := BitVec.ofNat 2 ((if touched 0 then tag.toNat else (c.tags.getLsbD 0).toNat) +
      2 * (if touched 1 then tag.toNat else (c.tags.getLsbD 1).toNat)) }

/-- A write to a copy, sector by sector; dirty bytes under another identifier are first written back (R181). -/
def State.copyWrite (s : State) (key : BitVec 10) (loc : Nat) (data : List Byte) (tag : Bool) : Nat → State
  | 0 => s
  | fuel + 1 =>
    if data = [] then s
    else
      let room := 32 - loc % 32
      let sec := loc / 32
      let s := s.l2Room loc
      let s := if (s.copy sec).dirty ≠ 0#32 ∧ (s.copy sec).key ≠ key then s.writeBack sec else s
      let c := (s.copy sec).update key (loc % 32) (data.take room) tag
      (s.setCopy sec c).copyWrite key (loc + room) (data.drop room) tag fuel

/-! ### What this die reads and writes -/

/-- A write as it reaches memory: its home for what this die homes and for other spaces, this die's copy otherwise. -/
def State.store (s : State) (key : BitVec 10) (loc : Nat) (data : List Byte) (tag : Bool) : State :=
  match spaceOf loc with
  | .hbm =>
    if s.remote loc then s.copyWrite key loc data tag (data.length + 1)
    else (s.unsnoop loc data.length true).homeWrite key loc data tag (data.length + 1)
  | _ => s.poke loc data tag

/-- Whether this die's copy of a sector can be read under a key: dirty bytes are sealed under the identifier they
were written with (R181, R374). -/
def State.copyOpens (s : State) (key : BitVec 10) (sec : Nat) : Bool :=
  (s.copy sec).dirty == 0#32 || (s.copy sec).key == key

/-- The sectors that `n` bytes at `loc` touch. -/
def sectorsOf (loc n : Nat) : List Nat := upFrom (loc / 32) ((loc + n + 31) / 32 - loc / 32)

/-- Fetch what a read of `n` bytes needs into this die's copies. -/
def State.fetchCopies (s : State) (loc n : Nat) : State :=
  if s.remote loc then
    (sectorsOf loc n).foldl (fun s sec =>
      let lo := if loc < 32 * sec then 32 * sec else loc
      let hi := if loc + n < 32 * sec + 32 then loc + n else 32 * sec + 32
      (s.l2Room lo).fetchSector lo (hi - lo)) s
  else s

/-- A byte as this die reads it: its copy where the location is homed elsewhere. -/
def State.dieByte (s : State) (loc : Nat) : Byte :=
  if s.remote loc then (s.copy (loc / 32)).bytes.getD (loc % 32) 0#8 else s.byte loc

def State.dieTag (s : State) (loc : Nat) : Bool :=
  if s.remote loc then (s.copy (loc / 32)).tags.getLsbD (loc % 32 / 16) else s.granuleTag loc && keepsTags loc

/-- Whether `n` bytes at `loc` can be read under a key with no uncorrectable error. -/
def State.readable (s : State) (key : BitVec 10) (loc n : Nat) : Bool :=
  s.opensAll key loc n && (!s.remote loc || (sectorsOf loc n).all (s.copyOpens key))

/-! ### The L1 data cache and pinned lines (R14, R20, R400) -/

/-- A line of 32 bytes that the L1 data cache allocates; of more than 1,024 the oldest leaves. DESIGN CHOICE (log entry
59). -/
def State.fillL1 (s : State) (line : Nat) : State :=
  s.modCore fun c => { c with l1 := (line :: c.l1.filter fun l => l != line).take 1024 }

/-- The lines of an access to a cached page in the L1 data cache: CM and LM never allocate there, nor does a page with
HOME 2 in a core of another die. A line of such a page stays in its slice of its home die. -/
def State.allocate (s : State) (pin : Option Nat) (loc n : Nat) : State :=
  if spaceOf loc = .lm ∨ spaceOf loc = .cm then s
  else
    match pin with
    | none => (sectorsOf loc n).foldl State.fillL1 s
    | some slice =>
      if homeDie loc = s.dieNo then
        ((sectorsOf loc n).foldl State.fillL1 s).modDie fun d => { d with pinned := Table.set 0 d.pinned (loc / 256) (1 + slice) }
      else s

/-- LINE_EVICTION (R400): a line leaves this die's L2, its dirty bytes to their home, and the L1 data cache; a line that
HOME 2 keeps in its slice stays. -/
def State.evictLine (s : State) (loc : Nat) : State :=
  if Table.get 0 s.die.pinned (loc / 256) ≠ 0 then s
  else (s.flushLine (loc / 256)).modCore fun c => { c with l1 := c.l1.filter fun l => l / 8 != loc / 256 }

/-- The caches of this die without any line of `n` bytes at `loc`, clean or dirty. -/
def State.uncache (s : State) (loc n : Nat) : State :=
  (s.modDie fun d =>
    { d with
      copies := Table.clear d.copies (loc / 32) ((loc + n) / 32)
      pinned := Table.clear d.pinned (loc / 256) ((loc + n) / 256) }).modCore fun c =>
    { c with l1 := c.l1.filter fun l => !(decide (loc / 32 ≤ l) && decide (l < (loc + n) / 32)) }

/-! ### What a slot sees -/

/-- The location to which a remote-window message writes, and the bytes that it writes: as many as bits [111:96] say, or
all (R18, R265). DESIGN CHOICE (log entry 9). -/
def windowLoc (m : Msg) : Nat :=
  let off := ofBytes m.payload % 2 ^ 22
  if fld (ofBytes m.payload) 53 1 = 1 then cmLoc m.dst off else lmLoc m.dst off

def windowBytes (m : Msg) : List Byte :=
  let n := fld (ofBytes m.payload) 96 16
  if n = 0 then m.payload.drop 16 else (m.payload.drop 16).take n

/-- The tag that a remote-window message gives granule `i` of its data. DESIGN CHOICE (log entry 9). -/
def windowTag (m : Msg) (i : Nat) : Bool := fld (ofBytes m.payload) (64 + i) 1 == 1

/-- The byte that a remote-window message of this core still on its way writes at a location. -/
def flightByte (loc : Nat) (m : Msg) : Option Byte :=
  if m.kind = 5 ∧ windowLoc m ≤ loc ∧ loc < windowLoc m + (windowBytes m).length then
    (windowBytes m)[loc - windowLoc m]?
  else none

/-- The tag that it leaves its granule. -/
def flightTag (g : Nat) (m : Msg) : Option Bool :=
  if m.kind = 5 ∧ windowLoc m < g + 16 ∧ g < windowLoc m + (windowBytes m).length then
    some (windowTag m (g / 16 - windowLoc m / 16))
  else none

/-- The messages of this core that are on their way, the latest first. A message to the core itself is due once its
routers have let it pass. -/
def State.onTheWay (s : State) : List Msg :=
  let due := s.agenda.filterMap fun d =>
    match d.what, d.detail with
    | .messageRemoteWindow, .msg m => if m.src = s.core.id then some m else none
    | _, _ => none
  s.core.outgoing.reverse ++ due.reverse ++ (s.core.arrived.filter fun m => m.src == s.core.id).reverse

/-- The byte at `loc` and the tag of its granule that the held effects of a sheaf leave, the latest first; none where
they leave it alone. -/
def heldByte (loc : Nat) : List Held → Option Byte
  | [] => none
  | .write l d _ _ :: t | .window l d _ _ :: t =>
    match heldByte loc t with
    | some b => some b
    | none => if l ≤ loc ∧ loc < l + d.length then some (d.getD (loc - l) 0#8) else none
  | _ :: t => heldByte loc t

def heldTag (g : Nat) : List Held → Option Bool
  | [] => none
  | .write l d tag _ :: t | .window l d tag _ :: t =>
    match heldTag g t with
    | some b => some b
    | none => if l < g + 16 ∧ g < l + d.length then some tag else none
  | _ :: t => heldTag g t

/-- A byte as this core reads it: what its remote-window messages on their way write over what the die holds (R18). -/
def State.coreByte (s : State) (loc : Nat) : Byte := (s.onTheWay.findSome? (flightByte loc)).getD (s.dieByte loc)

def State.coreBytes (s : State) (loc n : Nat) : List Byte := (upFrom loc n).map s.coreByte

/-- A remote-window write of this core to some of `n` bytes at `loc` is on its way. -/
def State.windowFlies (s : State) (loc n : Nat) : Bool :=
  s.onTheWay.any fun m => m.kind == 5 && decide (windowLoc m < loc + n ∧ loc < windowLoc m + (windowBytes m).length)

/-- A byte as slot `k` reads it: its own sheaf's writes over what its core reads (R176). -/
def State.seenByte (s : State) (k : SlotId) (loc : Nat) : Byte :=
  (heldByte loc (s.slot k).sheaf.held).getD (s.coreByte loc)

def State.seenBytes (s : State) (k : SlotId) (loc n : Nat) : List Byte := (upFrom loc n).map (s.seenByte k)

def State.seenTag (s : State) (k : SlotId) (loc : Nat) : Bool :=
  keepsTags loc && (heldTag (loc / 16 * 16) (s.slot k).sheaf.held).getD
    ((s.onTheWay.findSome? (flightTag (loc / 16 * 16))).getD (s.dieTag loc))

end Sys2Proof.Machine
end

