-- ==== Sys2Proof/Machine/Ready.lean ====
section
/-! DEFINITION. Task records, the ready ring and messages as the core's own parts act on them: queuing (R215 to R218),
furrows (R220), the diversion of messages (R228), `tdec` at its record (R239). -/

namespace Sys2Proof.Machine

/-! ### LM as the core's parts reach it -/

/-- The location of an offset of this core's LM; offsets wrap at its 256 KiB. DEDUCED (log entry 15). -/
def State.lm (s : State) (off : Nat) : Nat := lmLoc s.core.id (off % 2 ^ 18)

/-- `n` bytes of this core's LM as a number. -/
def State.lmNat (s : State) (off n : Nat) : Nat := ofBytes (s.bytes (s.lm off) n)

/-- Write `n` bytes of this core's LM. -/
def State.setLm (s : State) (off n v : Nat) : State := s.poke (s.lm off) (leBytes n v) false

/-- A byte offset held in units of 32 by `tmbase`, `clsbase`, `rrbase` and `hlbase` (Table 5.15). -/
def tableOffset (r : BitVec 13) : Nat := 32 * r.toNat

/-- The LM allocation of the kernel: the A bytes that g2 grants (R219). -/
def Kernel.allocation (k : Kernel) : Nat :=
  let (e, _, _, _) := capEncode (0xD * 2 ^ 68) (0xD * 2 ^ 68 + k.lmsize)
  (k.lmsize + 2 ^ e - 1) / 2 ^ e * 2 ^ e

def State.allocation (s : State) : Nat :=
  match s.core.kernel with
  | some k => k.allocation
  | none => 0

/-! ### Task records (Table 14.4) -/

/-- Bits [lo+n-1:lo] of a record. -/
def recField (r lo n : Nat) : Nat := r / 2 ^ lo % 2 ^ n

def recNin (r : Nat) : Nat := recField r 32 3
def recNout (r : Nat) : Nat := recField r 35 2
def recArmed (r : Nat) : Bool := recField r 232 1 == 1
def recQueued (r : Nat) : Bool := recField r 233 1 == 1
def recRun (r : Nat) : Bool := recField r 234 1 == 1

/-- The input fields, and the output fields, that a record uses: handle and count. -/
def recIns (r : Nat) : List (Fin 16 × Nat) :=
  (upFrom 0 (recNin r)).map fun i => (Fin.ofNat 16 (recField r (160 + 12 * i) 4), recField r (164 + 12 * i) 8)

def recOuts (r : Nat) : List (Fin 16 × Nat) :=
  (upFrom 0 (recNout r)).map fun i => (Fin.ofNat 16 (recField r (208 + 12 * i) 4), recField r (212 + 12 * i) 8)

/-- The must-be-zero fields and the unused fields are zero, and NIN and NOUT are in range (R216). -/
def recValid (r : Nat) : Bool :=
  recField r 235 21 == 0 && recField r 37 3 == 0 && recNin r ≤ 4 && recNout r ≤ 2 &&
    recField r (160 + 12 * recNin r) (48 - 12 * recNin r) == 0 &&
    recField r (208 + 12 * recNout r) (24 - 12 * recNout r) == 0

def recChannel (r : Nat) : Bool := recNin r + recNout r != 0

/-- Write one bit of the record at an LM offset. -/
def State.setRecBit (s : State) (rec bit : Nat) (v : Bool) : State :=
  let byte := s.lmNat (rec + bit / 8) 1
  s.setLm (rec + bit / 8) 1 (byte / 2 ^ (bit % 8 + 1) * 2 ^ (bit % 8 + 1) + v.toNat * 2 ^ (bit % 8) + byte % 2 ^ (bit % 8))

/-! ### The ready ring -/

/-- The furrow of a first operand address (R220). -/
def furrowOf (a : Nat) : Nat :=
  fld a 6 4 ^^^ fld a 10 4 ^^^ fld a 14 4 ^^^ fld a 18 4 ^^^ fld a 22 4 ^^^ fld a 26 4 ^^^ fld a 30 2

/-- A ready-ring entry (Table 14.5). -/
def entryBits (arg1 arg0 entry furrow kind : Nat) (staged : Bool) (src : CoreId) (rec : Nat) : Q :=
  q (arg1 % 2 ^ 32 * 2 ^ 96 + arg0 % 2 ^ 32 * 2 ^ 64 + entry % 2 ^ 24 * 2 ^ 40 + furrow % 2 ^ 4 * 2 ^ 34 +
    kind % 2 ^ 2 * 2 ^ 32 + staged.toNat * 2 ^ 31 + src.toNat * 2 ^ 18 + rec % 2 ^ 18)

def entryRec (e : Q) : Nat := bits e 0 18
def entryKind (e : Q) : Nat := bits e 32 2
def entryOffset (e : Q) : Nat := bits e 40 24

/-- Whether an entry of the ready ring is free (R218). -/
def State.ringFree (s : State) : Bool := s.core.ring.length < 256

/-- The ring places that hold no queued entry. -/
def State.freePlaces (s : State) : List Nat :=
  (upFrom 0 256).filter fun p => !(s.core.ring.any fun x => x.place == p)

/-- Queue an entry in a free place of the ring (R215, R217); the dispatcher then looks for a slot. Where none is free the task
waits for one, and slot `k` with it. DEDUCED (log entry 68). -/
def State.placeTask (s : State) (e : Q) (t : Queued) (k : Option SlotId) : State :=
  let free := s.freePlaces
  match free[Config.ringPlace s.fresh % free.length]? with
  | none => s.modCore fun c => { c with unplaced := c.unplaced ++ [⟨e, t, k⟩] }
  | some p =>
    let s := (s.setLm (tableOffset s.core.rrbase + 16 * p) 16 e.toNat).tick
    (s.modCore fun c => { c with ring := c.ring ++ [{ t with place := p }] }).scheduleOnce .dispatch

def State.queueEntry (s : State) (e : Q) (kind : Fin 4) (furrow : Nat) (src : CoreId) (recorded : Bool)
    (recv : Option Nat := none) (bytes : Nat := 0) (k : Option SlotId := none) : State :=
  s.placeTask e ⟨0, kind, furrow, false, src, recorded, recv, bytes⟩ k

/-- An entry of the ring has been freed: the oldest task that waits for a place takes it (R218). -/
def State.placeNext (s : State) : State :=
  match s.core.unplaced with
  | [] => s
  | u :: rest => (s.modCore fun c => { c with unplaced := rest }).placeTask u.entry u.task u.slot

/-- Queue the task of a record: QUEUED is set, and ARMED cleared for a counter record (R218). SRC of a spawn record is
the core itself. -/
def State.queueRecord (s : State) (rec : Nat) (kind : Fin 4) (k : Option SlotId := none) : State :=
  let r := s.lmNat rec 32
  let f := furrowOf (recField r 128 32)
  let src := if kind = 3 then s.core.id else 0#13
  let s := (s.setRecBit rec 233 true).setRecBit rec 232 (recArmed r && kind != 0)
  s.queueEntry (entryBits (recField r 96 32) (recField r 64 32) (recField r 40 24) f kind.val false src rec) kind f src true none 0 k

/-- The counts that a channel record needs hold at its handles (R218). -/
def State.channelReady (s : State) (r : Nat) : Bool :=
  (recIns r).all (fun x =>
    let h := s.handle x.1
    h.init && !h.producer && !h.stream && x.2 ≤ h.avail) &&
  (recOuts r).all fun x =>
    let h := s.handle x.1
    h.init && h.producer && !h.stream && x.2 ≤ h.avail

/-- Queue a channel record that is armed, neither queued nor running, and has its counts, if the ring has room. -/
def State.checkChannel (s : State) (rec : Nat) : State :=
  let r := s.lmNat rec 32
  if recArmed r && !recQueued r && !recRun r && recChannel r && s.channelReady r && s.ringFree then s.queueRecord rec 2
  else s

/-- Test every armed channel record (R218). -/
def State.checkChannels (s : State) : State := s.core.armed.foldl State.checkChannel s

/-- A channel record armed or disarmed by `tarm` (R240), and tested. -/
def State.armChannel (s : State) (rec : Nat) (on : Bool) : State :=
  let s := s.modCore fun c =>
    { c with armed := if on then (if rec ∈ c.armed then c.armed else c.armed ++ [rec]) else c.armed.filter fun x => x != rec }
  if on then s.checkChannel rec else s

/-! ### Messages -/

/-- The header of a message without its payload, bits [127:0] of the header flit (Table 14.6). -/
def msgHeader (m : Msg) : Nat :=
  m.spec.toNat * 2 ^ 85 + m.kind.val * 2 ^ 82 + m.flits.val * 2 ^ 78 + m.pkey.toNat * 2 ^ 46 + m.cls.toNat * 2 ^ 38 +
    m.tenant.toNat * 2 ^ 26 + m.src.toNat * 2 ^ 13 + m.dst.toNat

/-- Bits [lo+n-1:lo] of a payload. -/
def msgField (m : Msg) (lo n : Nat) : Nat := ofBytes m.payload / 2 ^ lo % 2 ^ n

/-- The constructor for the arrival of a message of a kind. -/
def arrival (kind : Fin 8) : Instr :=
  match kind.val with
  | 0 => .messageTask
  | 1 => .messageSpawn
  | 2 => .messageSpawnAnswer
  | 3 => .messageTdec
  | 4 => .messageCredit
  | 5 => .messageRemoteWindow
  | 6 => .messageLaunch
  | _ => .messageUnusedKind

/-- divert(m, c) (R228) on die `d`: a place of its supervisor queue where one is free, and a record in any case.
DEDUCED (log entry 25). -/
def State.divertAt (s : State) (d : Nat) (m : Msg) (c : Nat) : State :=
  let s := if s.ringFull d supervisorRing then s
    else (s.writeWords (sysAddr d 0 0 4 (512 * s.ringTail d supervisorRing)) (msgHeader m + 2 ^ 128 * ofBytes m.payload) 64).ringAdvance
      d supervisorRing
  s.recordAt d { origin := m.src, handle := m.dst.toNat, tag := m.cls.toNat, source := 2, cause := c }

/-- divert(m, c) on this core's die. -/
def State.divert (s : State) (m : Msg) (c : Nat) : State := s.divertAt s.dieNo m c

/-- A message in the network interface, to be checked at the routers (R225, R227). -/
def State.sendMessage (s : State) (m : Msg) : State :=
  (s.modCore fun c => { c with outgoing := c.outgoing ++ [m] }).schedule .messageRouterCheck (.msg m)

/-- A message of this core, its payload 16 bytes (R223). -/
def State.shortMessage (s : State) (kind : Fin 8) (pkey : BitVec 32) (dst : CoreId) (spec : BitVec 12) (payload : Nat) : Msg :=
  ⟨kind, 0, 0#8, pkey, s.core.tenant, s.core.id, dst, spec, leBytes 16 payload⟩

/-- The credit of a handle to its peer core, sent by slot `k` (R156, R336): the peer's handle in [3:0], FILLED in [4],
the count in [24:8]. DESIGN CHOICE (log entry 9). -/
def State.creditMessage (s : State) (k : SlotId) (h : Fin 16) (filledCredit : Bool) (n : Nat) : Msg :=
  let x := s.handle h
  s.shortMessage 4 (pkeyOf x.ring.bits) x.peer (s.ctx k).spec (x.phandle % 16 + filledCredit.toNat * 16 + n * 256)

/-! ### `tdec` at its record (R239) -/

/-- The effect of a `tdec` at a record of this core, made by slot `k` or by no slot: none where the record is invalid. -/
def State.applyTdec (s : State) (rec n : Nat) (k : Option SlotId := none) : Option State :=
  let r := s.lmNat rec 32
  if recValid r = false ∨ recChannel r then none
  else
    let c := signed 32 (recField r 0 32) - (n : Int)
    let c := if c < -(2 ^ 31 : Int) then -(2 ^ 31 : Int) else c
    let s := s.setLm rec 4 (wrap 32 c)
    some (if recArmed r && decide (c ≤ 0) then s.queueRecord rec 0 k else s)

/-- A local `tdec`; an invalid record gives a fault record only. -/
def State.localTdec (s : State) (k : SlotId) (rec n : Nat) : State :=
  (s.applyTdec rec n (some k)).getD
    (s.record { origin := s.core.id, handle := s.core.id.toNat, slot := k.val, source := 2, cause := 0x206, va := rec })

end Sys2Proof.Machine
end

