-- ==== Sys2Proof/Machine/Sheaf.lean ====
section
/-! DEFINITION. Sheaves: what they track, conflicts and squashes (R174 to R178), and the commit, at which what a sheaf
holds back leaves in program order (R164, R176, R245). -/

namespace Sys2Proof.Machine

/-! ### The squash -/

/-- The effect of an undo entry on a handle or a result queue of slot `k` (R164). -/
def State.undoOne (k : SlotId) (s : State) : Undo → State
  | .result f e => s.modSlot k fun x => x.setEngine f { x.engine f with output := e :: (x.engine f).output }
  | .advanced h n | .committed h n =>
    let x := s.handle h
    let count := 2 ^ x.countlog
    s.setHandle h { x with avail := Nat.min count (x.avail + n), pos := (x.pos + count - n % count) % count }
  | .initialised h old => s.setHandle h old

/-- Elements that a sheaf holds pushed to a port over memory. -/
def pushesTo (p : Fin 8) (held : List Held) : Nat := (held.filter fun h => h == .pushed p).length

/-- A port of slot `k` as it stood at the sheaf's first instruction; elements pushed before the sheaf go on draining. -/
def State.restorePort (k : SlotId) (ports : Vector Port 8) (held : List Held) (s : State) (p : Fin 8) : State :=
  let now := s.port p
  let old := ports.get p
  if now.owner.isSome ∧ now.owner ≠ some k then s
  else if old.owner = some k then
    (s.setPort p { old with undrained := now.undrained - pushesTo p held }).scheduleOnce .streamElementFetch (.port p)
  else if now.owner = some k then s.setPort p Port.free
  else s

def handleIds : List (Fin 16) := [0, 1, 2, 3, 4, 5, 6, 7, 8, 9, 10, 11, 12, 13, 14, 15]

/-- STREAM of each handle says whether a port is bound to it (Table 9.9). -/
def State.refreshStreams (s : State) : State :=
  handleIds.foldl (fun s h =>
    s.setHandle h { s.handle h with stream := portIds.any fun p => (s.port p).bound == some (.channel h) }) s

/-- A slot stands in a wait for the drill buffer. -/
def Ctx.wantsBuffer (c : Ctx) : Bool := c.wait.any fun w => w.wait == .drillBuffer

/-- Another slot waits for the drill buffer: it stands in a `drill` or in the load of a context that holds one, or it is in a
replay whose buffer it does not have. -/
def State.bufferWanted (s : State) (k : SlotId) : Bool :=
  slotIds.any fun j => j != k && ((s.ctx j).wantsBuffer || ((s.ctx j).replaying && s.core.drillOwner != some j))

/-- The drill buffer belongs to slot `k`, whose turn it is, exactly while its context holds one, unless another slot has it
(R113, R115). -/
def State.takeDrill (s : State) (k : SlotId) : State :=
  if (s.ctx k).drill.isSome then
    s.modCore fun c => if c.drillOwner = none then { c with drillOwner := some k } else c
  else s.modCore fun c => if c.drillOwner = some k then { c with drillOwner := none } else c

/-- The drill buffer as the context of slot `k` changes: the slot waits for it where another has it, or waits for it already
(R113). Where a squash takes a slot back into a replay and another has acquired the buffer since, the other keeps it.
DESIGN CHOICE (log entry 51). -/
def State.refreshDrill (s : State) (k : SlotId) : State :=
  if (s.ctx k).drill.isSome && s.bufferWanted k then s else s.takeDrill k

/-- A request for a solo grant, after the second squash (R178). -/
def State.askSolo (s : State) (k : SlotId) : State :=
  if (s.slot k).sheaf.squashes < 2 then s
  else (s.modCore fun c => { c with soloAsked := if k ∈ c.soloAsked then c.soloAsked else c.soloAsked ++ [k] }).schedule .soloGrant

/-- The slot with the input queues of its engines replaced. -/
def Slot.setInputs (x : Slot) (l : List (List Reg)) : Slot :=
  { x with
    e0 := { x.e0 with input := l.getD 0 [] }
    e1 := { x.e1 with input := l.getD 1 [] }
    e2 := { x.e2 with input := l.getD 2 [] }
    e3 := { x.e3 with input := l.getD 3 [] }
    e7 := { x.e7 with input := l.getD 4 [] } }

/-- The grant that slot `k` held at its sheaf's first instruction, where a `pwrel` has returned it since (R115, R287). -/
def State.restoreGrant (s : State) (k : SlotId) (g : Option Nat) : State :=
  match (s.slot k).grant, g with
  | none, some c => (s.modSlot k fun x => { x with grant := some c }).modDie fun d => { d with used := d.used + classWeight c }
  | _, _ => s

/-- Discard the uncommitted sheaf of slot `k`, which starts again from its first instruction (R177). -/
def State.squash (s : State) (k : SlotId) : State :=
  let sh := (s.slot k).sheaf
  match sh.snapshot with
  | none => s
  | some sn =>
    let s := sh.undo.foldl (State.undoOne k) s
    let s := portIds.foldl (State.restorePort k sn.ports sh.held) s
    let s := s.refreshStreams.modSlot k fun x =>
      { x.setInputs sn.inputs with ctx := sn.ctx, sheaf := { Sheaf.empty with squashes := sh.squashes + 1 } }
    (((s.restoreGrant k sn.grant).refreshDrill k).askSolo k).checkChannels

/-! ### Tracking -/

/-- Whether slot `j`'s sets meet an access to the sectors `secs`: its writes for a read, all its sets for a write. -/
def Sheaf.meets (sh : Sheaf) (secs : List Nat) (write : Bool) : Bool :=
  secs.any fun x =>
    sh.writes.contains x || sh.lmWrites.contains x || (write && (sh.reads.contains x || sh.lmReads.contains x))

/-- Whether a sheaf's sets hold any of the sectors. -/
def Sheaf.touches (sh : Sheaf) (secs : List Nat) : Bool := sh.meets secs true

/-- The slots other than `k` whose sheaves conflict with an access of slot `k`. -/
def State.rivals (s : State) (k : SlotId) (secs : List Nat) (write : Bool) : List SlotId :=
  slotIds.filter fun j => j != k && (s.slot j).sheaf.meets secs write

/-- Of two conflicting sheaves the one registered later is squashed, or the one that is not solo (R177, R178). -/
def Sheaf.yields (mine other : Sheaf) : Bool :=
  if other.solo then true
  else if mine.solo then false
  else
    match mine.born, other.born with
    | some a, some b => b < a
    | _, _ => true

/-- The sheaf with an access registered. -/
def Sheaf.register (sh : Sheaf) (secs : List Nat) (write isLm : Bool) (birth : Nat) : Sheaf :=
  let add (l : List Nat) : List Nat := l ++ (secs.filter fun x => !l.contains x)
  let sh := { sh with born := some (sh.born.getD birth) }
  match write, isLm with
  | true, true => { sh with lmWrites := add sh.lmWrites }
  | true, false => { sh with writes := add sh.writes }
  | false, true => { sh with lmReads := add sh.lmReads }
  | false, false => { sh with reads := add sh.reads }

/-- More lines than a sheaf may hold (R174). -/
def Sheaf.overfull (sh : Sheaf) : Bool := 64 < sh.reads.length || 32 < sh.writes.length

/-- What registering an access comes to. -/
inductive Tracked where
  | ok (s : State)
  /-- the sheaf must end before the instruction (R175) -/
  | full
  /-- the slot's own sheaf is squashed (R177) -/
  | squashed

/-- Register an access of slot `k` to `n` bytes at `loc`. -/
def State.track (s : State) (k : SlotId) (loc n : Nat) (write : Bool) : Tracked :=
  let secs := sectorsOf loc n
  let sh := (s.slot k).sheaf
  let sh' := sh.register secs write (spaceOf loc == .lm) s.core.births
  let rivals := s.rivals k secs write
  if sh'.overfull then .full
  else if rivals.any fun j => sh.yields (s.slot j).sheaf then .squashed
  else
    .ok (((rivals.foldl State.squash s).modSheaf k fun _ => sh').modCore fun c => { c with births := c.births + 1 })

/-- A write of `n` bytes at `loc` by slot `k`, or by no slot: none while the sets of another slot's solo sheaf hold some
of them (R178); else every other slot's sheaf whose sets hold some is squashed (R177). -/
def State.arriveBeside (s : State) (k : Option SlotId) (loc n : Nat) : Option State :=
  let secs := sectorsOf loc n
  let hit := slotIds.filter fun j => some j != k && (s.slot j).sheaf.touches secs
  if hit.any fun j => (s.slot j).sheaf.solo then none else some (hit.foldl State.squash s)

/-- An arrival that writes `n` bytes at `loc`. -/
def State.arrive (s : State) (loc n : Nat) : Option State := s.arriveBeside none loc n

/-- What a snoop of one line brings: data that the host has changed squashes the sheaves whose sets hold the line, none
where one of those is solo (R352, R177, R178). -/
def State.snoopLine (write : Bool) (s : State) (line : Nat) : Option State :=
  if s.hostHolds line = some true ∧ Config.hostDirty s.fresh = true then
    (s.arrive (64 * line) 64).map fun s => s.backSnoop write line
  else some (s.backSnoop write line)

/-- The lines of an access taken from the host before it is performed (R352); none while a solo sheaf defers that. -/
def State.snoopBack (s : State) (loc n : Nat) (write : Bool) : Option State :=
  (s.snoopLines loc n write).foldl (fun t line => t.bind fun t => t.snoopLine write line) (some s)

/-- Another slot than `k` holds a solo sheaf that has read one of the sectors, homed on another die: what invalidates
this die's copies of them waits (R178). -/
def State.soloReads (s : State) (k : Option SlotId) (p : Nat → Bool) : Bool :=
  slotIds.any fun j => some j != k && (s.slot j).sheaf.solo && (s.slot j).sheaf.reads.any fun x => p x && s.remote (32 * x)

/-- The clean words of sectors invalidated, by slot `k` or by no slot: every other slot's sheaf that has read one of them
is squashed (R177, R181). -/
def State.invalidate (s : State) (k : Option SlotId) (secs : List Nat) : State :=
  let gone := secs.filter fun x => (s.copy x).clean != 0#4
  let hit := slotIds.filter fun j => some j != k && gone.any fun x => (s.slot j).sheaf.reads.contains x
  secs.foldl State.dropClean (hit.foldl State.squash s)

/-- An acquire at `.dev` or `.sys` (R139, R181), for slot `k` or for a task that starts. -/
def State.acquire (s : State) (k : Option SlotId) : State := s.invalidate k s.copiedSectors

/-- An acquire waits for another slot's solo sheaf (R178). -/
def State.acquireWaits (s : State) (k : Option SlotId) : Bool := s.soloReads k fun _ => true

/-- Put an event off until the solo sheaf commits (R178). DEDUCED (log entry 12). -/
def State.defer (s : State) (d : Due) : State := s.modCore fun c => { c with deferred := c.deferred ++ [d] }

/-! ### The commit -/

/-- The event of an engine for a command (Table 9.16). -/
def commandEvent (f : Fifo) (opc : Nat) : Instr :=
  match f, opc with
  | .e0, 0x01 => .copy
  | .e0, 0x02 => .fill
  | .e0, _ => .xcopy
  | .e1, 0x10 => .quernOpen
  | .e1, 0x11 => .quernEncode
  | .e1, 0x12 => .quernStep
  | .e1, 0x13 => .quernMask
  | .e1, _ => .quernReservedCommand
  | .e2, 0x20 => .gather
  | .e2, _ => .scatter
  | .e3, 0x30 => .allreduce
  | .e3, 0x31 => .allgather
  | .e3, 0x32 => .reducescatter
  | .e3, 0x33 => .broadcast
  | .e3, _ => .collBarrier
  | .e7, 0x70 => .mailboxSend
  | .e7, _ => .mailboxRecv

/-- The header of a command (Table 9.14). -/
def Command.header (c : Command) : Q := (c.elems.getD 0 Reg.null).bits

/-- Schedule a command that an engine has taken. A collective of one member needs nothing of others; one of several
members completes when an event brings what they contribute. -/
def State.scheduleCommand (s : State) (k : SlotId) (f : Fifo) (c : Command) : State :=
  let what := commandEvent f (bits c.header 120 8)
  match f with
  | .e3 => if bits c.header 48 10 = 1 then s.scheduleOnce what (.collective k []) else s
  | _ => s.scheduleOnce what (.slot k)

/-- A command that waits for a free slot of its ring is taken up again (R160). -/
def State.rouse (s : State) : State :=
  slotIds.foldl (fun s k =>
    [Fifo.e0, Fifo.e2].foldl (fun s f =>
      match ((s.slot k).engine f).taken with
      | c :: _ => if c.progress.begun then s.scheduleCommand k f c else s
      | [] => s) s) s

/-- A release toward another core: at `.dev` where it stands on another die (R139, R168). -/
def State.releaseTo (s : State) (c : CoreId) : State := if dieOf c = s.dieNo then s else s.writeBackAll

/-- A message as it leaves: TENANT is that of the core then (R289). -/
def State.sendStamped (s : State) (m : Msg) : State := s.sendMessage { m with tenant := s.core.tenant }

/-- GEN (Table 26.4). -/
def State.generation (s : State) : Nat := fld (s.sysReg (sysAddr 0 0 0 8 0)).toNat 48 16

/-- A link whose sequence numbers begin again (R379). -/
def Link.fresh : Link := ⟨0, false, false⟩

/-- A link from a peer. -/
def State.link (s : State) (i : Nat) : Link := Table.get Link.fresh s.module.links i

/-- A store to peer memory that its peer has still to answer (R380): the answer comes in a packet of its own. DEDUCED
(log entry 35). -/
def State.sentToPeer (s : State) (k : SlotId) (loc : Nat) : State :=
  if spaceOf loc = .peer then
    let i := (loc - peerBase) / 2 ^ 48
    let n := (s.link i).seqNo + (s.module.inFlight.filter fun x => x.peer == i).length
    (s.modModule fun m => { m with inFlight := m.inFlight ++ [⟨k, i, loc⟩] }).schedule .fabricPacketReceive
      (.packet (Fin.ofNat 64 i) (BitVec.ofNat 16 s.generation) n true true)
  else s

/-- One held effect leaves (R164, R176, R245). -/
def State.leave (k : SlotId) (s : State) : Held → State
  | .write loc data tag key => (s.store key loc data tag).sentToPeer k loc
  | .window _ _ _ m => s.sendStamped m
  | .credit _ _ none => s.rouse
  | .credit _ _ (some m) => (s.releaseTo m.dst).sendStamped m
  | .command f c =>
    let s := match f with
      | .e7 => s.writeBackAll
      | _ => s
    (s.modSlot k fun x =>
      let e := x.engine f
      let c := { c with stamp := s.core.pushes }
      x.setEngine f { e with input := e.input.drop c.elems.length, taken := e.taken ++ [c] }).scheduleCommand k f c
      |>.modCore fun c => { c with pushes := c.pushes + 1 }
  | .message m => (s.releaseTo m.dst).sendStamped m
  | .tdec rec n => s.localTdec k rec n
  | .queue rec kind => s.queueRecord rec kind (some k)
  | .arm rec on => s.armChannel rec on
  | .release => s.writeBackAll
  | .pushed p => s.schedule .streamElementDrain (.port p)

/-- A slot stands inside a whole-run instruction, which completes before a cause is delivered (R191). -/
def Ctx.inWholeRun (c : Ctx) : Bool := c.run.any Run.whole

/-- A whole-run instruction goes on, which is one sheaf up to its end or to a wait (R165, R191). -/
def Ctx.midRun (c : Ctx) : Bool := c.inWholeRun && c.wait.isNone

/-- A `halt` takes effect once no slot holds an uncommitted sheaf (R286), that of a whole-run instruction among them. -/
def State.settleHalt (s : State) : State :=
  if s.core.mode = .halting ∧ slotIds.all (fun k => (s.slot k).sheaf.snapshot.isNone && !(s.ctx k).midRun) = true then
    s.modCore fun c => { c with mode := .halted }
  else s

/-- A solo grant ends; deferred events are due again, and messages that wait and the next request are looked at (R178). -/
def State.endSolo (s : State) : State :=
  ({ s with agenda := s.agenda ++ s.core.deferred }.modCore fun c => { c with deferred := [] }).schedule .soloGrant |>.scheduleOnce .messageHoldRelease

/-- Results that wait outside the output queues of slot `k` are looked at again: an element popped within a sheaf keeps
its place until the commit (R159, R164). -/
def State.lookAtResults (s : State) (k : SlotId) : State :=
  fifos.foldl (fun s f =>
    if ((s.slot k).engine f).waiting = [] then s else s.scheduleOnce .engineResultReturn (.fifo k f)) s

/-- Slot `k` stands in a wait where a task that its sheaf has queued has no place yet (R218). DEDUCED (log entry 68). -/
def State.awaitPlace (s : State) (k : SlotId) : State :=
  if s.core.unplaced.any fun u => u.slot == some k then s.modCtx k fun c => { c with wait := some ⟨.placing, c.pc⟩ } else s

/-- Commit the sheaf of slot `k` (R176): what it holds leaves in program order, and the next sheaf is empty. DEDUCED
(log entry 12). -/
def State.commit (s : State) (k : SlotId) : State :=
  let sh := (s.slot k).sheaf
  let s := ((sh.held.foldl (State.leave k) s).modSheaf k fun _ => Sheaf.empty).awaitPlace k
  let s := s.modCore fun c => { c with soloAsked := c.soloAsked.filter fun j => j != k }
  let s := if sh.solo then s.endSolo else s
  (s.lookAtResults k).settleHalt

/-- Commit the sheaf of slot `k` for an instruction that goes on after the commit: what it does then has the place and
the solo grant of the sheaf that it ends. -/
def State.commitWithin (s : State) (k : SlotId) : State :=
  let sh := (s.slot k).sheaf
  (s.commit k).modSheaf k fun _ => { Sheaf.empty with born := sh.born, solo := sh.solo }

/-- Open the slot's sheaf where none is open: the state to which a squash returns (R115, R164). -/
def State.openSheaf (s : State) (k : SlotId) : State :=
  match (s.slot k).sheaf.snapshot with
  | some _ => s
  | none =>
    let x := s.slot k
    let inputs := fifos.map fun f => (x.engine f).input
    s.modSheaf k fun sh => { sh with snapshot := some ⟨{ x.ctx with guarded := none }, x.grant, inputs, s.core.ports⟩ }

/-- LEN of a command header (Table 9.14). -/
def headerLen (h : Q) : Nat := bits h 117 3

/-- The elements at the end of an input queue that are no whole command yet. -/
def incomplete : Nat → List Reg → List Reg
  | 0, l => l
  | _, [] => []
  | fuel + 1, h :: t =>
    if headerLen h.bits ≤ t.length then incomplete fuel (t.drop (headerLen h.bits)) else h :: t

/-- The elements of an incomplete command discarded (R163). -/
def State.dropPart (s : State) (k : SlotId) (f : Fifo) : State :=
  s.modSlot k fun x =>
    let e := x.engine f
    x.setEngine f { e with input := e.input.take (e.input.length - (incomplete 8 e.input).length) }

/-- Hold an effect back in the sheaf of slot `k`. -/
def State.hold (s : State) (k : SlotId) (h : Held) : State := s.modSheaf k fun sh => { sh with held := sh.held ++ [h] }

/-- Note what a squash of slot `k`'s sheaf takes back. -/
def State.note (s : State) (k : SlotId) (u : Undo) : State := s.modSheaf k fun sh => { sh with undo := u :: sh.undo }

/-- The uncommitted sheaf of slot `j` has freed the port, and a squash would bind it again (R164). -/
def State.hasFreed (s : State) (j : SlotId) (p : Fin 8) : Bool :=
  match (s.slot j).sheaf.snapshot with
  | some sn => (sn.ports.get p).owner == some j && (s.port p).owner != some j
  | none => false

/-- A sheaf of another slot that has not committed has freed the port. DEDUCED (log entry 57). -/
def State.freedElsewhere (s : State) (k : SlotId) (p : Fin 8) : Bool := slotIds.any fun j => j != k && s.hasFreed j p

end Sys2Proof.Machine
end

