-- ==== Sys2Proof/Machine/Act.lean ====
section
/-! DEFINITION. How an instruction comes to its end on the slot that issues: it completes, ends its sheaf, waits,
traps, or is squashed (R164, R165, R175 to R177, R279), and where the slot goes on (R64, R113). -/

namespace Sys2Proof.Machine

/-- Why an instruction does not complete. -/
inductive Stop where
  /-- a precise trap -/
  | trap (cause : Nat) (val val2 : Q)
  /-- a stall with nothing done (R165, R222) -/
  | wait (w : Wait)
  /-- its access does not fit in the sheaf, which ends before it (R175) -/
  | limit
  /-- its access conflicts with an older sheaf (R177) -/
  | squash
  /-- its access to `n` bytes at `loc` reaches a line that the host holds: the home agent asks the host for it first, and
  the instruction is tried again (R352) -/
  | snoop (loc n : Nat) (write : Bool)
  /-- a precise trap with cause 0x286 of an `hwait`, which also clears ERR of operation slot `n` (R270) -/
  | operationError (n : Fin 4) (a : Nat)
  /-- a precise trap with cause 0x2E2, which also discards the command that FIFO `f` has begun to take (R163) -/
  | lacksLeave (f : Fifo) (val val2 : Q)

/-- What an instruction does to the state, up to a stop. -/
abbrev Act := EStateM Stop State

def trap {α : Type} (cause : Nat) (val val2 : Q := 0#128) : Act α := throw (.trap cause val val2)

def stall {α : Type} (w : Wait) : Act α := throw (.wait w)

/-- Trap where a condition holds. -/
def trapIf (b : Bool) (cause : Nat) (val val2 : Q := 0#128) : Act Unit := if b then trap cause val val2 else pure ()

/-- Where the slot goes on. -/
inductive Go where
  /-- the next unit -/
  | seq
  /-- a transfer of control to a code capability -/
  | jump (code : Reg)
  /-- the unit at an address, with the replay as the instruction left it (R113, R116) -/
  | to (addr : Nat)
  /-- the same unit: a vector run has iterations left (R191) -/
  | again
  /-- where the context now says: the slot was freed or its context replaced -/
  | gone

/-- What an instruction leaves to be done. -/
inductive After where
  | go (g : Go)
  /-- the instruction is the last of its sheaf (R175) -/
  | last (g : Go)
  /-- the last of its sheaf, with an effect after the commit -/
  | lastThen (f : Act Go)
  /-- what the instruction did stands, its sheaf has ended, and the slot waits in it -/
  | hold (w : Wait)

/-- Complete and go on to the next unit. -/
def next : Act After := pure (.go .seq)

/-! ### The program counter and the drill -/

/-- The drill buffer of slot `k` released. -/
def State.releaseDrill (s : State) (k : SlotId) : State :=
  (s.modCtx k fun c => { c with drill := none }).modCore fun c =>
    if c.drillOwner = some k then { c with drillOwner := none } else c

/-- The length of the unit being issued: its guard and its instruction (R64). -/
def Ctx.unitBytes (c : Ctx) (len : Nat) : Nat := (if c.guarded.isSome then 2 else 0) + len

/-- The slot at the next unit: in a replay the next of the block, of the next pass, or what follows the block (R113). -/
def State.nextUnit (s : State) (k : SlotId) (len : Nat) : State :=
  let c := s.ctx k
  let after := (c.pc + c.unitBytes len) % 2 ^ 72
  match c.drill with
  | some d =>
    if d.live = false then s.modCtx k fun c => c.setPc after
    else if d.pos + 1 < d.n then s.modCtx k fun c => { c.setPc after with drill := some { d with pos := d.pos + 1 } }
    else if d.pass + 1 < d.k then
      s.modCtx k fun c => { c.setPc d.origin with drill := some { d with pos := 0, pass := d.pass + 1 } }
    else (s.modCtx k fun c => c.setPc after).releaseDrill k
  | none => s.modCtx k fun c => c.setPc after

/-- The slot at the target of a transfer, which ends a replay (R114). -/
def State.transfer (s : State) (k : SlotId) (code : Reg) : State :=
  let s := s.modCtx k fun c => { c with code := code }
  if (s.ctx k).replaying then s.releaseDrill k else s

/-- The unit is done: no wait stands, no guard is pending, and it counts toward its sheaf (R174). -/
def State.closeUnit (s : State) (k : SlotId) : State :=
  (s.modCtx k fun c => { c with wait := none, guarded := none, run := none, again := none }).modSheaf k fun sh =>
    { sh with count := sh.count + 1 }

/-- The slot goes on; a transfer costs it a bubble (R248), and the iterations of a whole-run instruction do not count toward its
sheaf (R191). -/
def State.advance (s : State) (k : SlotId) (len : Nat) : Go → State
  | .seq => (s.nextUnit k len).closeUnit k
  | .jump code => ((s.transfer k code).closeUnit k).setBubble k
  | .to addr => (s.modCtx k fun c => c.setPc addr).closeUnit k
  | .again =>
    (s.modCtx k fun c => { c with wait := none, guarded := none }).modSheaf k fun sh =>
      { sh with count := if (s.ctx k).inWholeRun then sh.count else sh.count + 1 }
  | .gone => s

/-! ### Completion -/

/-- What an instruction that stops leaves behind nevertheless: the accessed and dirty bits that walks set, cached
translations and copies, and the count of free values taken (R300, R301). -/
def State.keep (s t : State) : State :=
  { s with
    mem := t.mem, tags := t.tags, seals := t.seals, bad := t.bad, sys := t.sys, fresh := t.fresh
    die := { s.die with copies := t.die.copies, pinned := t.die.pinned }
    core := { s.core with tlb := t.core.tlb, l1 := t.core.l1 }
    module := { s.module with snooped := t.module.snooped } }

/-- Take a trap at the unit being issued: the prefix of the sheaf commits first (R175, R279). -/
def State.raise (s : State) (k : SlotId) (len cause : Nat) (val val2 : Q) : State :=
  (s.commit k).deliver k ⟨cause, val, val2, len == 2, (s.ctx k).guarded.isSome⟩

/-- Whether a sheaf ends before an instruction that is about to wait (R165): not where the slot waits for the drill buffer or a
busy unit, nor a whole-run instruction for what it stores over (R191). DEDUCED (log entry 70). -/
def Ctx.endsSheaf (c : Ctx) : Wait → Bool
  | .drillBuffer | .vectorUnit _ => false
  | .solo | .landing _ _ => !c.inWholeRun
  | _ => true

/-- The sheaf of slot `k` has done what others wait to see committed: it holds effects, a squash would take something back, or
it has freed a port (R164). -/
def State.holdsEffects (s : State) (k : SlotId) : Bool :=
  (s.slot k).sheaf.held != [] || (s.slot k).sheaf.undo != [] || portIds.any fun p => s.hasFreed k p

/-- The slot waits in its instruction; a sheaf that holds effects ends first (R165). The core has issued nothing (R222). -/
def State.beginWait (s : State) (k : SlotId) (w : Wait) : State :=
  ((if (s.ctx k).endsSheaf w && s.holdsEffects k then s.commit k else s).modCtx k fun c =>
    { c with wait := some ⟨w, c.pc⟩, guarded := none }).modCore fun c => { c with stalled := true }

/-- The home agent asks the host for the lines of an access; a solo sheaf that this would squash holds it up (R352, R178). -/
def State.askHost (s : State) (k : SlotId) (loc n : Nat) (write : Bool) : State :=
  match s.snoopBack loc n write with
  | some t => t.modCtx k fun c => { c with guarded := none }
  | none => s.beginWait k .solo

/-- ERR of an operation slot cleared. -/
def State.clearErr (s : State) (n : Fin 4) : State :=
  s.modHarrow fun h => { h with ops := h.ops.set n.val { h.ops.get n with err := none } n.isLt }

/-- An instruction that stopped, from the state `s` before it and the state `t` in which it stopped. -/
def State.stopped (s t : State) (k : SlotId) (len : Nat) : Stop → State
  | .trap cause val val2 => (s.keep t).raise k len cause val val2
  | .wait w => (s.keep t).beginWait k w
  | .limit => (s.keep t).commit k
  | .squash => ((s.keep t).openSheaf k).squash k
  | .snoop loc n write => (s.keep t).askHost k loc n write
  | .operationError n a => ((s.keep t).clearErr n).raise k len 0x286 (q a) (q (4 + n.val))
  | .lacksLeave f val val2 => (((s.keep t).commit k).dropPart k f).raise k len 0x2E2 val val2

/-- The writes through the remote window that the sheaf of slot `k` holds. -/
def State.windowsHeld (s : State) (k : SlotId) : Nat :=
  ((s.slot k).sheaf.held.filter fun h =>
    match h with
    | .window _ _ _ _ => true
    | _ => false).length

/-- An instruction that completed from the state `s` in the state `t`, with what it leaves to be done; one that has pushed
through the remote window is the last of its sheaf (Table 10.5). Where an effect
after the commit stops, the instruction has done nothing if it began its sheaf; else what it did in the sheaf stands. -/
def State.finish (s t : State) (k : SlotId) (len : Nat) : After → State
  | .go g => if s.windowsHeld k < t.windowsHeld k then (t.advance k len g).commit k else t.advance k len g
  | .last g => (t.advance k len g).commit k
  | .lastThen f =>
    let u := t.commitWithin k
    match f u with
    | .ok g v => (v.advance k len g).commit k
    | .error e v => if (s.slot k).sheaf.count = 0 then s.stopped v k len e else u.stopped v k len e
  | .hold w => (t.commit k).modCtx k fun c => { c with wait := some ⟨w, c.pc⟩, guarded := none }

/-- What an act answers, with nothing done: the elements that its operands pop stay until the instruction completes (R53). -/
def peek {α : Type} (act : Act α) : Act α := fun s =>
  match act s with
  | .ok x _ => .ok x s
  | .error e t => .error e t

/-- A sheaf of 256 instructions ends before the next instruction (R174). -/
def State.endFull (s : State) (k : SlotId) : State := if (s.slot k).sheaf.count < 256 then s else s.commit k

/-- Perform an instruction of `len` bytes on the slot that issues. -/
def State.perform (s : State) (len : Nat) (act : Act After) : State :=
  let k := s.cur
  let s := s.endFull k
  match act (s.openSheaf k) with
  | .ok a t => s.finish t k len a
  | .error .limit t =>
    let s := (s.keep t).commit k
    match act (s.openSheaf k) with
    | .ok a t => s.finish t k len a
    | .error e t => s.stopped t k len e
  | .error e t => s.stopped t k len e

/-- The outcome of an instruction of 32 bits, and of one of 16 bits. -/
def perform (s : State) (act : Act After) : Host.Outcome State Fault Refusal := .next (s.perform 4 act)

def perform16 (s : State) (act : Act After) : Host.Outcome State Fault Refusal := .next (s.perform 2 act)

/-- The outcome of an event. -/
def happen (s : State) : Host.Outcome State Fault Refusal := .next s

/-! ### The network interface (R227) -/

/-- A held effect that leaves as a message. -/
def Held.isMessage : Held → Bool
  | .message _ | .window _ _ _ _ | .credit _ _ (some _) => true
  | _ => false

/-- Messages that uncommitted sheaves will add to the network interface. -/
def State.heldMessages (s : State) : Nat :=
  (slotIds.map fun k => ((s.slot k).sheaf.held.filter Held.isMessage).length).sum

/-- The interface, which holds 4 whole outgoing messages, has no place for `n` more. An instruction that makes more than
4 waits for all four places. DESIGN CHOICE (log entry 13). -/
def State.netLacks (s : State) (n : Nat) : Bool :=
  n != 0 && decide (4 < s.core.outgoing.length + s.heldMessages + Nat.min n 4)

def State.netFull (s : State) : Bool := s.netLacks 1

/-! ### The routers (R225) -/

/-- The numbers from one to another, both ends included, upward or downward. -/
def between (a b : Nat) : List Nat := if a ≤ b then upFrom a (b + 1 - a) else (upFrom b (a + 1 - b)).reverse

/-- The clusters that a message passes, first along x and then along y. -/
def route (src dst : CoreId) : List Nat :=
  (between (gridX src) (gridX dst)).map (fun x => clusterAt x (gridY src)) ++
  ((between (gridY src) (gridY dst)).drop 1).map fun y => clusterAt (gridX dst) y

/-- The first router of a message's route that refuses it. -/
def State.refusingRouter (s : State) (m : Msg) : Option Nat :=
  (route m.src m.dst).find? fun c => !s.inSubmesh m.tenant (BitVec.ofNat 13 c)

/-- The list without its first element equal to `x`. -/
def dropFirst {α : Type} [DecidableEq α] (x : α) : List α → List α
  | [] => []
  | y :: t => if y = x then t else y :: dropFirst x t

/-- Granules of a remote-window write, 16 bytes each. -/
def State.writeGranules (s : State) (m : Msg) (loc i : Nat) : List Byte → Nat → State
  | _, 0 => s
  | [], _ => s
  | l, fuel + 1 => (s.poke loc (l.take 16) (windowTag m i)).writeGranules m (loc + 16) (i + 1) (l.drop 16) fuel

/-- A remote-window write comes to another core, which takes it or diverts it by its own key (R228): none while a solo
sheaf of this core holds some of what it writes. DESIGN CHOICE (log entry 9). -/
def State.windowElsewhere (s : State) (m : Msg) : Option State :=
  if Config.windowTaken s.fresh then
    (s.arrive (windowLoc m) (windowBytes m).length).map fun t =>
      (t.writeGranules m (windowLoc m) 0 (windowBytes m) (windowBytes m).length).tick
  else some (s.tick.divertAt (dieOf m.dst) m 0x201)

/-- A message goes out into the mesh: diverted at the first router that refuses it, delivered to this core, or gone; none
where it is held back. -/
def State.routeMessage (s : State) (m : Msg) : Option State :=
  match s.refusingRouter m with
  | some c => some (s.divertAt (c / 1024) m 0x209)
  | none =>
    if m.dst = s.core.id then some (s.schedule (arrival m.kind) (.msg m))
    else if m.kind = 5 then s.windowElsewhere m
    else some s

/-! ### Small acts -/

/-- The slot that issues. -/
def issuer : Act SlotId := fun s => .ok s.cur s

def myCtx : Act Ctx := fun s => .ok (s.ctx s.cur) s

def mySlot : Act Slot := fun s => .ok (s.slot s.cur) s

def modMyCtx (f : Ctx → Ctx) : Act Unit := modify fun s => s.modCtx s.cur f

def modMySlot (f : Slot → Slot) : Act Unit := modify fun s => s.modSlot s.cur f

/-- Hold an effect back until the commit. -/
def holdBack (h : Held) : Act Unit := modify fun s => s.hold s.cur h

def noteUndo (u : Undo) : Act Unit := modify fun s => s.note s.cur u

/-- An instruction that would add `n` messages to an interface without the places stalls (R227). -/
def waitForNet (n : Nat := 1) : Act Unit := fun s => if s.netLacks n then .error (.wait .netPlace) s else .ok () s

/-- The instruction begins its sheaf: one that holds instructions ends before it. -/
def beginSheaf : Act Unit := fun s => if (s.slot s.cur).sheaf.count = 0 then .ok () s else .error .limit s

/-- An acquire by the slot that issues (R139), once no other slot's solo sheaf defers it (R178). -/
def acquireAct : Act Unit := fun s =>
  if s.acquireWaits (some s.cur) then .error (.wait .solo) s else .ok () (s.acquire (some s.cur))

/-- An acquire of what another core did: at `.dev` where it stands on another die (R139, R168). -/
def acquireFrom (c : CoreId) : Act Unit := fun s => if dieOf c = s.dieNo then .ok () s else acquireAct s

/-- What the slot that issues writes at its home at once squashes the sheaves that it meets, once no other slot's solo
sheaf defers it (R177, R178). -/
def arriveAt (loc n : Nat) : Act Unit := fun s =>
  match s.arrive loc n with
  | some t => .ok () t
  | none => .error (.wait .solo) s

/-- An access to device memory that this die homes, or that the host owns, asks the host first for a line that it holds
(R352). -/
def askHost (loc n : Nat) (write : Bool) : Act Unit := fun s =>
  if spaceOf loc = .hbm ∧ s.remote loc = false ∧ s.snoopLines loc n write ≠ [] then .error (.snoop loc n write) s else .ok () s

/-- The sheaf of slot `k` holds stores to peer memory. -/
def State.sendsToPeers (s : State) (k : SlotId) : Bool :=
  (s.slot k).sheaf.held.any fun h =>
    match h with
    | .write loc _ _ _ => spaceOf loc == .peer
    | _ => false

/-- A release at `.sys` waits until the earlier stores of its slot to peer memory are answered (R139, R382): those of its
sheaf leave first. -/
def awaitStores : Act Unit := do
  let s ← get
  if s.sendsToPeers s.cur then throw .limit
  if s.module.inFlight.any fun x => x.slot == s.cur then stall .peerStores

end Sys2Proof.Machine
end

