-- ==== Sys2Proof/Machine/Access.lean ====
section
/-! DEFINITION. Accesses: the checks of R60, R125 and R17, the translation of R299 to R303, protection windows (R308),
host and peer memory (R354, R380), key identifiers (R375), and the reads and writes of a slot. -/

namespace Sys2Proof.Machine

/-- The kinds of access, with the numbers that `xval2` gives them (R303). -/
inductive Kind where | load | store | fetch | atomic
  deriving DecidableEq, Repr

def Kind.code : Kind → Nat
  | .load => 0
  | .store => 1
  | .fetch => 2
  | .atomic => 3

def Kind.reads : Kind → Bool
  | .store => false
  | _ => true

def Kind.writes : Kind → Bool
  | .store | .atomic => true
  | _ => false

/-- For whom an access is made: its privilege, the tenant and the root of its walks (R301, R311, R340). -/
structure View where
  level   : Level
  tenant  : BitVec 12
  root    : Nat
  enabled : Bool
  /-- the protection windows (R308) -/
  windows : List Q
  /-- an engine or a unit makes the access, not the slot that issues -/
  engine  : Bool := false
  /-- a store with tag 1, which memory without tags refuses right after translation (R129) -/
  tagged  : Bool := false

/-- The view of the slot that issues. -/
def State.view (s : State) : View where
  level := (s.ctx s.cur).level
  tenant := s.core.tenant
  root := s.root
  enabled := s.rootEnabled
  windows := s.core.pwin.toList

/-- Where an access goes. For system space `loc` is the address [67:0]; `edge` says that it ends its sheaf (Table
10.5); `level` is the level at which its walk stopped. -/
structure Place where
  loc    : Nat
  system : Bool := false
  remote : Bool := false
  key    : BitVec 10 := 0#10
  level  : Nat := 0
  edge   : Bool := false
  /-- the address lies in host memory -/
  host   : Bool := false
  /-- the host address of such a place, its own or that of the alias of a device page (R356) -/
  hostAddr : Nat := 0
  /-- the protection key of the capability of an access through the remote window (R224) -/
  pkey   : BitVec 32 := 0#32
  /-- the slice that keeps the page's lines (Table 1.4, value 2) -/
  pin    : Option Nat := none
  /-- every access goes to the home (Table 1.4, value 3) -/
  direct : Bool := false
  /-- host memory in a window with COH 0, of which no line is cached (R355) -/
  uncached : Bool := false

/-- `xval2` of a translation or access fault (R303). -/
def faultVal2 (level : Nat) (kind : Kind) (lvl : Level) : Q :=
  q (level + kind.code * 8 + (if lvl = .user then 32 else 0))

/-! ### Walks (R299, R300) -/

/-- The index of a level into its table. -/
def walkIndex (va level : Nat) : Nat := if level = 6 then va / 2 ^ 66 % 64 else va / 2 ^ (12 + 9 * level) % 512

def pteHome (e : Nat) : Nat := fld e 9 2
def ptePpn (e : Nat) : Nat := fld e 12 44
def pteLeaf (e : Nat) : Bool := fld e 1 1 == 1
def pteContig (e : Nat) : Bool := fld e 6 1 == 1

/-- The core that a page with HOME 1 names (Table 18.5). -/
def pteCore (e : Nat) : CoreId := BitVec.ofNat 13 (fld e 18 13)

/-- Whether a page number lies in HBM. -/
def inHbm (ppn : Nat) : Bool := ppn * 2 ^ 12 < hbmTop

/-- malformed(e, level) of R300. -/
def State.pteMalformed (s : State) (tenant : BitVec 12) (e level : Nat) : Bool :=
  fld e 62 2 != 0 || fld e 11 1 != 0 || (pteHome e != 2 && fld e 56 6 != 0) ||
  (pteLeaf e && 3 ≤ level) || (!pteLeaf e && level == 0) ||
  (pteContig e && level != 0) ||
  (pteHome e == 1 && (level != 0 || fld e 31 25 != 0 || s.isServer (pteCore e) || !s.inSubmesh tenant (pteCore e))) ||
  (pteHome e == 2 && (level == 2 || !inHbm (ptePpn e))) ||
  (pteLeaf e && (level == 1 || level == 2) && ptePpn e % 2 ^ (9 * level) != 0) ||
  (!pteLeaf e && !inHbm (ptePpn e))

/-- perm(e, access, privilege) of R300. -/
def ptePermits (e : Nat) (kind : Kind) (lvl : Level) : Bool :=
  (match kind with
    | .load => fld e 2 1 == 1
    | .store => fld e 3 1 == 1
    | .fetch => fld e 4 1 == 1
    | .atomic => fld e 2 1 == 1 && fld e 3 1 == 1) &&
  (lvl != .user || fld e 5 1 == 1)

/-- The host asked for what a view reaches: for an engine the access itself waits for the answer (R352). -/
def View.askHost (v : View) (loc n : Nat) (write : Bool) : Act Unit :=
  if v.engine then modify fun s => (s.snoopBack loc n write).getD s else Machine.askHost loc n write

/-- Read an entry through this die's L2 under key identifier 0; none where it does not open. -/
def readEntry (v : View) (pa : Nat) : Act (Option Nat) := do
  v.askHost pa 8 false
  modify fun s => s.fetchCopies pa 8
  let s ← get
  pure (if s.readable 0#10 pa 8 then some (ofBytes ((upFrom pa 8).map s.dieByte)) else none)

/-- A copy with bits set in the 8-byte word at offset `o`, which is clean. -/
def Copy.setBits (c : Copy) (o bits : Nat) : Copy :=
  { c with data := c.bytes.take o ++ leBytes 8 (ofBytes ((c.bytes.drop o).take 8) ||| bits) ++ c.bytes.drop (o + 8) }

/-- Bits set in an entry by one atomic update at its home, as the walker reads it from now on; what this die has changed
in its copy goes there first. -/
def State.setEntryBits (s : State) (pa bits : Nat) : State :=
  let s := s.writeBack (pa / 32)
  let s := s.sealWrite 0#10 pa (leBytes 8 (ofBytes (s.bytes pa 8) ||| bits)) false
  if s.remote pa then s.setCopy (pa / 32) ((s.copy (pa / 32)).setBits (pa % 32) bits) else s

/-- A and D set in an entry by one atomic update at its home, which squashes nothing and waits for no sheaf (R300). -/
def setAccessed (v : View) (pa e : Nat) : Act Unit := do
  v.askHost pa 8 true
  modify fun s => s.setEntryBits pa e

/-- Write an entry at its home by one atomic update (R344), which the sheaves of other slots that have read it do not
survive (R177). -/
def writeEntry (v : View) (pa e : Nat) : Act Unit := do
  v.askHost pa 8 true
  let s ← get
  match s.arriveBeside (if v.engine then none else some s.cur) pa 8 with
  | none => stall .solo
  | some s => set ((s.flushSector (pa / 32)).sealWrite 0#10 pa (leBytes 8 e) false)

/-- A walk that fails: its cause, the level at which it stopped, the entry read there. -/
abbrev Failed := Nat × Nat × Nat

/-- The walk from a table at `base`: the address of the leaf entry, the entry and its level; or how it fails. -/
def walkFrom (v : View) (va : Nat) (base : Nat) : List Nat → Act (Failed ⊕ (Nat × Nat × Nat))
  | [] => pure (.inl (0x110, 0, 0))
  | level :: rest => do
    let pa := base * 2 ^ 12 + 8 * walkIndex va level
    match ← readEntry v pa with
    | none => pure (.inl (0x111, level, 0))
    | some e =>
      if e % 2 = 0 then pure (.inl (0x112, level, e))
      else if (← get).pteMalformed v.tenant e level then pure (.inl (0x110, level, e))
      else if pteLeaf e then pure (.inr (pa, e, level))
      else walkFrom v va (ptePpn e) rest

/-- The walk from the root of a view (R300). -/
def walk (v : View) (va : Nat) : Act (Failed ⊕ (Nat × Nat × Nat)) :=
  if v.enabled = false then pure (.inl (0x112, 6, 0))
  else if inHbm v.root = false then pure (.inl (0x110, 6, 0))
  else walkFrom v va v.root [6, 5, 4, 3, 2, 1, 0]

/-- The trap of a walk that fails (R303), or what the walk has found. -/
def orFault {α : Type} (v : View) (va : Nat) (kind : Kind) : Failed ⊕ α → Act α
  | .inl (cause, level, _) => trap cause (q va) (faultVal2 level kind v.level)
  | .inr x => pure x

/-- An entry with A set, and D for a store or an atomic. -/
def accessed (e : Nat) (kind : Kind) : Nat :=
  let e := if fld e 7 1 = 0 then e + 2 ^ 7 else e
  if kind.writes && fld e 8 1 == 0 then e + 2 ^ 8 else e

/-- Whether a cached translation covers an address: its page, or the 64 KiB group it is a member of (R301). -/
def TlbEntry.covers (t : TlbEntry) (v : View) (va : Nat) : Bool :=
  t.root == v.root && t.tenant == v.tenant &&
  (t.page / 2 ^ (9 * t.level) == va / 2 ^ 12 / 2 ^ (9 * t.level) ||
    (pteContig t.pte.toNat && t.page / 16 == va / 2 ^ 12 / 16))

/-- The page frame that an entry gives an address: PPN, and within a 64 KiB group the member that the address names. -/
def leafFrame (e va : Nat) : Nat := if pteContig e then ptePpn e / 16 * 16 + va / 2 ^ 12 % 16 else ptePpn e

/-- A leaf entry and its level, where the entry permits the access (R300). -/
def permitted (v : View) (kind : Kind) (e level : Nat) : Failed ⊕ (Nat × Nat) :=
  if ptePermits e kind v.level then .inr (e, level) else .inl (0x113, level, e)

/-- What a walk finds for an access, with A and D set in its leaf entry and the translation cached (R300, R301). -/
def leafWalked (v : View) (va : Nat) (kind : Kind) : Act (Failed ⊕ (Nat × Nat)) := do
  match ← walk v va with
  | .inl f => pure (.inl f)
  | .inr (pa, e, level) =>
    if ptePermits e kind v.level = false then return .inl (0x113, level, e)
    let e' := accessed e kind
    if e' ≠ e then setAccessed v pa e'
    let t : TlbEntry := ⟨v.root, v.tenant, va / 2 ^ 12, level, BitVec.ofNat 64 e'⟩
    modify fun s => s.modCore fun c => { c with tlb := (t :: c.tlb.filter fun u => !u.covers v va).take 1088 }
    pure (.inr (e', level))

/-- The leaf entry for an address, and its level: a translation still cached, if the access uses one, or a walk; or how the
translation fails. DESIGN CHOICE (log entry 31). -/
def leafFound (v : View) (va : Nat) (kind : Kind) : Act (Failed ⊕ (Nat × Nat)) := do
  let s ← get
  match s.core.tlb.find? fun t => t.covers v va && (!kind.writes || t.pte.getLsbD 8) with
  | none => leafWalked v va kind
  | some t =>
    modify State.tick
    if Config.usesTlb s.fresh then pure (permitted v kind t.pte.toNat t.level) else leafWalked v va kind

/-- The leaf entry for an address, and its level; a fault where the translation fails. -/
def leafFor (v : View) (va : Nat) (kind : Kind) : Act (Nat × Nat) := do orFault v va kind (← leafFound v va kind)

/-- The leaf entry to which an address translates, whatever it permits, and its level; no entry changes. DESIGN CHOICE
(log entry 31). -/
def leafOf (v : View) (va : Nat) : Act (Nat × Nat) := do
  let s ← get
  match s.core.tlb.find? fun t => t.covers v va && Config.usesTlb s.fresh with
  | some t => pure (t.pte.toNat, t.level)
  | none =>
    let (_, e, level) ← orFault v va .load (← walk v va)
    pure (e, level)

/-! ### Windows -/

/-- The first enabled protection window that holds an access wholly and allows it (R308). -/
def windowFor (l : List Q) (pa n : Nat) (kind : Kind) : Option Q :=
  l.find? fun w =>
    w.getLsbD 3 && bits w 12 44 ≤ pa / 2 ^ 12 && (pa + n - 1) / 2 ^ 12 < bits w 80 44 &&
    (match kind with
      | .load => w.getLsbD 0
      | .store => w.getLsbD 1
      | .fetch => w.getLsbD 2
      | .atomic => w.getLsbD 0 && w.getLsbD 1)

/-- The bits of a protection window that may be written (Table 5.18). -/
def windowMask : Nat := (2 ^ 44 - 1) * 2 ^ 80 + (2 ^ 54 - 1) * 2 ^ 12 + 15

/-- Whether any of the protection windows is enabled. -/
def windowsOn (l : List Q) : Bool := l.any fun w => w.getLsbD 3

/-- The key identifier of an access (R375), and whether a window allows it (R308). -/
def keyFor (l : List Q) (lvl : Level) (cap : Q) (pa n : Nat) (kind : Kind) : Option (BitVec 10) :=
  let own := lvl != .user && hasPerm cap .system
  if lvl = .monitor ∨ windowsOn l = false then some (if own then 0#10 else 1#10)
  else (windowFor l pa n kind).map fun w => if own then 0#10 else BitVec.ofNat 10 (bits w 56 10)

/-- The number of windows of a host function (Table 26.7). -/
def State.hostWindow (s : State) (f w : Nat) (high : Bool) : Nat :=
  (s.sysReg (sysAddr 0 0 0 7 (0x8000 + 256 * f + 16 * w + 8 * high.toNat))).toNat

/-- The host function that a tenant is bound to (Table 24.1). -/
def State.boundFunction (s : State) (t : BitVec 12) : Option Nat :=
  let r := (s.sysReg (sysAddr 0 0 0 7 (8 * t.toNat))).toNat
  if fld r 3 1 = 1 then some (r % 8) else none

/-- The window of a tenant's function that holds `n` bytes at host address `h` and allows the access (R354). -/
def State.hostWindowFor (s : State) (t : BitVec 12) (h n : Nat) (kind : Kind) : Option (Nat × Nat) :=
  match s.boundFunction t with
  | none => none
  | some f =>
    ((upFrom 0 s.module.fusedWindows).find? fun w =>
      let lo := s.hostWindow f w false
      let hi := s.hostWindow f w true
      fld lo 0 1 == 1 && fld lo 12 42 ≤ h / 2 ^ 12 && (h + n - 1) / 2 ^ 12 ≤ fld hi 12 42 &&
      (!kind.reads || fld lo 3 1 == 1) && (!kind.writes || fld lo 4 1 == 1)).map fun w => (f, w)

/-- COH of a window (Table 24.1). -/
def State.windowCoherent (s : State) (w : Nat × Nat) : Bool := fld (s.hostWindow w.1 w.2 false) 1 1 == 1

/-- The peers that are members of the enclosure (Table 26.4). -/
def State.isMember (s : State) (i : Nat) : Bool :=
  (s.sysReg (sysAddr 0 0 0 8 0)).getLsbD 1 && (s.sysReg (sysAddr 0 0 0 8 8)).getLsbD i

/-- The device page behind a host alias, once the host has placed its decoder (R351, R365). DEDUCED (log entry 22). -/
def State.aliasOf (s : State) (h : Nat) : Option Nat :=
  let b := s.module.hdmbase.toNat
  if b ≠ 0 ∧ b ≤ h ∧ h < b + s.module.hvtop * 2 ^ 30 then some (h - b) else none

/-- Whether accesses to a device page wait for an ownership flip (Table 24.3). -/
def State.flipping (s : State) (page : Nat) (toHost : Bool) : Bool :=
  match s.module.flip with
  | some f => f.page == page && f.toHost == toHost
  | none => false

/-! ### From an address to a place -/

/-- Access to HBM at a physical address: host ownership, then the protection windows. DEDUCED (log entry 23). -/
def placeHbm (v : View) (cap : Q) (kind : Kind) (va pa n level : Nat) : Act Place := do
  let s ← get
  if s.hostOwns (pa / 2 ^ 12) then trap 0x11C (q va) (faultVal2 level kind v.level)
  if s.flipping (pa / 2 ^ 12) true then stall .flip
  match keyFor v.windows v.level cap pa n kind with
  | none => trap 0x124 (q pa) (faultVal2 level kind v.level)
  | some key => pure { loc := pa, key := key, level := level }

/-- Access to host memory (R125, R354), and through it to host-owned device pages (R365). DEDUCED (log entry 23). -/
def placeHost (v : View) (cap : Q) (kind : Kind) (va pa n level : Nat) (capVal : Q) : Act Place := do
  let s ← get
  let h := pa - hostBase
  if hasPerm cap .host = false then trap 0x182 (q va) capVal
  match keyFor v.windows v.level cap pa n kind with
  | none => trap 0x124 (q pa) (faultVal2 level kind v.level)
  | some _ =>
    match s.aliasOf h with
    | some d =>
      if s.hostOwns (d / 2 ^ 12) = false then trap 0x11C (q va) (faultVal2 level kind v.level)
      if s.flipping (d / 2 ^ 12) false then stall .flip
    | none => pure ()
    let fails := Config.hostFails s.fresh
    modify State.tick
    let w := s.hostWindowFor v.tenant h n kind
    if w.isNone || !s.module.linkUp || (fails && kind != .atomic) then trap 0x380 (q va) (faultVal2 level kind v.level)
    pure
      { loc := (s.aliasOf h).getD pa, key := 1#10, level := level, host := true, hostAddr := h
        uncached := (s.aliasOf h).isNone && !(w.any s.windowCoherent) }

/-- No request reaches peer `i`: it is no member, its link is out of service, or every fabric port is fused off (R379,
R380, Table 26.7). -/
def State.peerCut (s : State) (i : Nat) : Bool :=
  !s.isMember i || s.module.fusedPorts == 0#16 || (s.link i).out

/-- Access to the memory of an enclosure peer (R380, R381). DEDUCED (log entry 23). -/
def placePeer (v : View) (cap : Q) (kind : Kind) (va pa n level : Nat) : Act Place := do
  let s ← get
  let i := (pa - peerBase) / 2 ^ 48
  match keyFor v.windows v.level cap pa n kind with
  | none => trap 0x124 (q pa) (faultVal2 level kind v.level)
  | some _ =>
    if s.peerCut i then trap 0x38A (q va) (q i)
    if s.module.barrier then stall .rekey
    pure { loc := pa, key := 1#10, level := level, edge := true }

/-- Access to the address that a leaf entry gives (R299). A page in another core's LM is reached through its remote window
without ending the sheaf, and a store to it reaches that LM at the commit, with no message. DEDUCED (log entry 47). -/
def placeLeaf (v : View) (cap : Q) (kind : Kind) (va n : Nat) (capVal : Q) (e level : Nat) : Act Place := do
  if pteHome e = 1 then
    pure { loc := lmLoc (pteCore e) (leafFrame e va % 64 * 2 ^ 12 + va % 2 ^ 12), level := level }
  else
    let pa := if level = 0 then leafFrame e va * 2 ^ 12 + va % 2 ^ 12
      else ptePpn e * 2 ^ 12 + va % 2 ^ (12 + 9 * level)
    trapIf (v.tagged && decide (hostBase ≤ pa)) 0x186 (q va) capVal
    let p ←
      if pa < hbmTop then placeHbm v cap kind va pa n level
      else if hostBase ≤ pa ∧ pa < peerBase then placeHost v cap kind va pa n level capVal
      else if peerBase ≤ pa then placePeer v cap kind va pa n level
      else trap 0x112 (q va) (faultVal2 0 kind v.level)
    pure { p with edge := p.edge || pteHome e == 3, direct := pteHome e == 3, pin := if pteHome e = 2 then some (fld e 56 6) else none }

/-- Access to a translated address. -/
def placeTranslated (v : View) (cap : Q) (kind : Kind) (va n : Nat) (capVal : Q) : Act Place := do
  let (e, level) ← leafFor v va kind
  placeLeaf v cap kind va n capVal e level

/-- Table 1.3: a remote-window address inside its layout. -/
def remoteLayout (a : Nat) : Bool :=
  fld a 53 2 < 2 && fld a 22 31 == 0 && (fld a 53 2 == 1 || fld a 0 22 < 2 ^ 18)

/-- The core that a remote-window address names. -/
def remoteCore (a : Nat) : CoreId := BitVec.ofNat 13 (fld a 55 13)

/-- The location that a remote-window address names. -/
def remoteLoc (a : Nat) : Nat :=
  if fld a 53 2 = 0 then lmLoc (remoteCore a) (fld a 0 22) else cmLoc (remoteCore a) (fld a 0 22)

/-- The region checks of a remote-window address (R18). `xval2` of cause 0x122 holds the address's coordinates as they
stand, its CORE field with SPACE 1 too. DEDUCED (log entry 46). -/
def checkRemote (v : View) (a : Nat) : Act Unit := do
  trapIf (!remoteLayout a) 0x120 (q a)
  trapIf (!(← get).inSubmesh v.tenant (remoteCore a)) 0x122 (q a) (q (remoteCore a).toNat)

/-- The region checks of R17 for `n` bytes at `a`, and the translation of regions 0x0 to 0xB. -/
def place (v : View) (cap : Q) (kind : Kind) (a n : Nat) (capVal : Q) : Act Place := do
  let s ← get
  match regionOf a with
  | 0xC => if a % 2 ^ 68 < 2 ^ 22 then pure { loc := cmLoc s.core.id (a % 2 ^ 68) } else trap 0x120 (q a)
  | 0xD => if a % 2 ^ 68 < 2 ^ 18 then pure { loc := lmLoc s.core.id (a % 2 ^ 68) } else trap 0x120 (q a)
  | 0xE => checkRemote v a *> pure { loc := remoteLoc a, remote := true, edge := true, pkey := pkeyOf cap }
  | 0xF =>
    trapIf (v.level == .user) 0x121 (q a)
    trapIf (n != 8 || !(kind == .load || kind == .store)) 0x120 (q a)
    pure { loc := a % 2 ^ 68, system := true, edge := true }
  | _ => placeTranslated v cap kind a n capVal

/-- The permissions of an access beside those of its kind: REMOTE in region 0xE, SYSTEM in region 0xF (R18, R298). -/
def regionPerms (a : Nat) : List Perm :=
  match regionOf a with
  | 0xE => [.remote]
  | 0xF => [.system]
  | _ => []

def kindPerms : Kind → List Perm
  | .load => [.load]
  | .store => [.store]
  | .fetch => [.execute]
  | .atomic => [.load, .store]

/-- Steps 1 to 4 of R60 for `n` bytes at `a` through register `r` that holds `c`. -/
def checkCap (c : Reg) (r : Nat) (perms : List Perm) (a n : Nat) (code ctl : Bool := false) : Act Unit :=
  match capFault c (perms ++ regionPerms a) a n with
  | some cause => trap cause (q a) (capVal2 r code ctl n)
  | none => pure ()

/-- The whole of the checks of a data access: capability, alignment, region and translation (R60, R125). -/
def checkAccess (v : View) (c : Reg) (r : Nat) (kind : Kind) (a n : Nat) : Act Place := do
  checkCap c r (kindPerms kind) a n
  trapIf (a % n != 0) 0x101 (q a) (capVal2 r false false n)
  place v c.bits kind a n (capVal2 r false false n)

/-- Trap with cause 0x130 where the data cannot be opened or has an uncorrectable error (R309, R374). -/
def checkData (v : View) (p : Place) (kind : Kind) (a n : Nat) : Act Unit := do
  askHost p.loc n kind.writes
  modify fun s => s.fetchCopies p.loc n
  trapIf (!(← get).readable p.key p.loc n) 0x130 (q a) (faultVal2 p.level kind v.level)

/-- Register an access in the slot's sheaf (R174, R177). -/
def registerAccess (loc n : Nat) (write : Bool) : Act Unit := fun s =>
  match s.track s.cur loc n write with
  | .ok s => .ok () s
  | .full => .error .limit s
  | .squashed => .error .squash s

/-- Register a store in the slot's sheaf. It follows the core's own earlier writes of the same bytes through the remote window
(R171): the slot waits while one of those is on its way. DEDUCED (log entry 71). -/
def registerStore (loc n : Nat) : Act Unit := do
  if (← get).windowFlies loc n then stall (.landing loc n)
  registerAccess loc n true

/-- A place that is never cached is read at its home, and this die's copy of it goes (Table 1.4, R400); one that is
cached comes into the caches that its page's home field allows (R14, R20). -/
def Place.uncopy (p : Place) (n : Nat) (s : State) : State :=
  if p.direct && s.remote p.loc then (sectorsOf p.loc n).foldl State.flushSector s else s

def Place.cached (p : Place) (n : Nat) (s : State) : State := if p.direct || p.uncached then s else s.allocate p.pin p.loc n

/-- Read `n` bytes at a place for the slot that issues: its sheaf's own writes over what its die holds (R176). -/
def readPlace (v : View) (p : Place) (a n : Nat) : Act (List Byte) := do
  modify (p.uncopy n)
  checkData v p .load a n
  registerAccess p.loc n false
  let s ← get
  set (p.cached n (p.uncopy n s))
  pure (s.seenBytes s.cur p.loc n)

/-- The message that takes up to 480 bytes through the remote window to their core (R18, R223, R224). The first 16 bytes of its
payload hold SPACE and OFFSET as Table 1.3 has them, the tag of the first granule in [64] and the number of bytes in [111:96];
whole flits follow. DESIGN CHOICE (log entry 9). -/
def State.windowPart (s : State) (spec : BitVec 12) (pkey : BitVec 32) (loc : Nat) (data : List Byte) (tag : Bool) : Msg :=
  let cm := spaceOf loc == .cm
  let off := if cm then loc % 2 ^ 22 else loc % 2 ^ 18
  let dst := if cm then loc / 2 ^ 22 % 2 ^ 9 * 16 else loc / 2 ^ 18 % 2 ^ 13
  let flits := (data.length + 31) / 32
  ⟨5, Fin.ofNat 16 flits, 0#8, pkey, s.core.tenant, s.core.id, BitVec.ofNat 13 dst, spec,
    leBytes 16 (off + cm.toNat * 2 ^ 53 + tag.toNat * 2 ^ 64 + data.length * 2 ^ 96) ++
      (data ++ List.replicate (32 * flits - data.length) 0#8)⟩

/-- The messages for bytes that an engine or a unit writes through the remote window, in address order. -/
def State.windowParts (s : State) (pkey : BitVec 32) (loc : Nat) : Nat → List Byte → List Msg
  | 0, _ => []
  | fuel + 1, data =>
    if data = [] then []
    else s.windowPart 0#12 pkey loc (data.take 480) false :: s.windowParts pkey (loc + 480) fuel (data.drop 480)

/-- The message of slot `k` for up to 16 bytes. -/
def State.windowMessage (s : State) (k : SlotId) (pkey : BitVec 32) (loc : Nat) (data : List Byte) (tag : Bool) : Msg :=
  s.windowPart (s.ctx k).spec pkey loc data tag

/-- Hold a write through the remote window, for which `n` messages need their places in the interface (R164, R227). -/
def holdWindow (pkey : BitVec 32) (loc : Nat) (data : List Byte) (tag : Bool) (n : Nat := 1) : Act Unit := do
  waitForNet n
  registerAccess loc data.length true
  let s ← get
  holdBack (.window loc data tag (s.windowMessage s.cur pkey loc data tag))

/-- Hold a write of the slot that issues (R164). -/
def writePlace (p : Place) (data : List Byte) (tag : Bool) : Act Unit := do
  if p.remote then holdWindow p.pkey p.loc data tag
  else
    askHost p.loc data.length true
    registerStore p.loc data.length
    holdBack (.write p.loc data tag p.key)
    modify (p.cached data.length)

/-- How an access ends its instruction (Table 10.5); a write to a place that is never cached goes on to its home. -/
def Place.done (p : Place) : After :=
  if p.direct then .lastThen fun s => .ok .seq (p.uncopy 1 s)
  else if p.edge then .last .seq
  else .go .seq

/-! ### Instruction fetch (R61) -/

/-- One halfword of an instruction at `a`. -/
def fetchHalf (v : View) (code : Reg) (a : Nat) : Act Nat := do
  checkCap code 0 [.execute] a 2 true
  let p ← place v code.bits .fetch a 2 (capVal2 0 true false 2)
  modify (p.uncopy 2)
  checkData v p .fetch a 2
  let s ← get
  set (p.uncopy 2 s)
  pure (ofBytes (s.seenBytes s.cur p.loc 2))

/-- The instruction at `a` (R66), and its length in bytes. -/
def fetchAt (v : View) (code : Reg) (a : Nat) : Act (Instr × Nat) := do
  let h ← fetchHalf v code a
  if isLong h then
    let h2 ← fetchHalf v code ((a + 2) % 2 ^ 72)
    pure (decode32 (h + 2 ^ 16 * h2), 4)
  else pure (decode16 h, 2)

end Sys2Proof.Machine
end

