-- ==== Sys2Proof/Machine/Operands.lean ====
section
/-! DEFINITION. Operands: the reading and writing of registers by instructions, with the pops and pushes of registers
that are bound to stream ports (R50 to R53, R144 to R150). -/

namespace Sys2Proof.Machine

/-- The port of a register, g24 to g31 (R144). -/
def portOf (r : RegIdx) : Fin 8 := Fin.ofNat 8 (r.val - 24)

/-- A register that is bound to a stream port (R53). -/
def State.streamed (s : State) (r : RegIdx) : Bool := isPort r && (s.port (portOf r)).bound.isSome

/-- Elements of 16 bytes in one slot of a channel ring. -/
def Handle.elements (h : Handle) : Nat := 2 ^ (h.slotlog - 4)

/-- The item addresses of a pattern: the address of item `m` (R145), its dimension sizes innermost first. -/
def itemOffset : List Nat → List Int → Nat → Int
  | b :: bs, st :: ss, m => (m % b : Nat) * st + itemOffset bs ss (m / b)
  | _, _, _ => 0

def Pattern.itemAddr (p : Pattern) (m : Nat) : Nat :=
  (((p.addr : Int) + p.base + itemOffset p.bounds p.strides m) % (2 ^ 72 : Nat)).toNat

/-- The number of items of a pattern. -/
def Pattern.items (p : Pattern) : Nat := p.bounds.foldl (fun a b => a * b) 1

/-- Bytes in an item, and items in an element of 16 bytes (R146). -/
def Pattern.itemBytes (p : Pattern) : Nat := 2 ^ p.esize

def Pattern.perElement (p : Pattern) : Nat := 16 / p.itemBytes

/-- The items that element `i` holds, in pattern order. -/
def Pattern.elementItems (p : Pattern) (i : Nat) : List Nat :=
  upFrom (i * p.perElement) (Nat.min p.perElement (p.items - i * p.perElement))

/-- The trip count over a pattern (R145). -/
def Pattern.trip (p : Pattern) : Nat := (p.items * p.itemBytes + 15) / 16

/-- The location of an address of regions 0xC to 0xE, where streams and rings lie. -/
def State.nearLoc (s : State) (a : Nat) : Nat :=
  match regionOf a with
  | 0xC => cmLoc s.core.id (a % 2 ^ 22)
  | 0xD => lmLoc s.core.id (a % 2 ^ 18)
  | _ => remoteLoc a

/-- The address of element `i` of the ring slot at the handle's position. -/
def Handle.elementAddr (h : Handle) (i : Nat) : Nat :=
  (addrOf h.ring.bits + h.pos * 2 ^ h.slotlog + 16 * (i % h.elements)) % 2 ^ 72

/-- cbadv or cbcomm of a handle by `n`: its count falls, its position goes on, a credit is held for the peer that the
handle has (R156). The caller has waited for its place in the interface. -/
def passSlots (h : Fin 16) (filledCredit : Bool) (n : Nat) : Act Unit := do
  let s ← get
  let x := s.handle h
  let m := if x.engine then none else some (s.creditMessage s.cur h filledCredit n)
  set (s.setHandle h { x with avail := x.avail - n, pos := (x.pos + n) % 2 ^ x.countlog })
  noteUndo (if filledCredit then .committed h n else .advanced h n)
  holdBack (.credit h n m)

/-- The checks of a use of a port in a direction by the slot that issues (R144, R149); the port. -/
def usePort (p : Fin 8) (write : Bool) : Act Port := do
  let s ← get
  let x := s.port p
  let name := q (24 + p.val)
  trapIf (x.owner != some s.cur || x.bound.isNone || x.write != write) 0x141 name
  trapIf (x.trip ≤ x.moved) 0x142 name (q x.trip)
  pure x

/-- Element number `i` of a port on a channel is the last of its slot, or of the trip count. -/
def State.endsSlot (s : State) (x : Port) (h : Fin 16) (i : Nat) : Bool :=
  decide ((i + 1) % (s.handle h).elements = 0 ∨ i + 1 = x.trip)

/-- What a port does on a channel as its element number `i` has been popped or pushed: at the end of a slot, and of
the trip count, the slot is passed (R150). -/
def endElement (x : Port) (i : Nat) : Act Unit :=
  match x.bound with
  | some (.channel h) => do if (← get).endsSlot x h i then passSlots h x.write 1
  | _ => pure ()

/-- The credit messages that elements of a port make. -/
def State.creditsFor (s : State) (x : Port) (l : List Nat) : Nat :=
  match x.bound with
  | some (.channel h) => if (s.handle h).engine then 0 else (l.filter fun i => s.endsSlot x h i).length
  | _ => 0

/-- Pop one element from the port of a register (R53, R149, R309). -/
def popPort (p : Fin 8) : Act Q := do
  let x ← usePort p false
  match x.fetched with
  | [] => stall (.element p)
  | e :: rest =>
    match e.bad with
    | some a => trap 0x130 (q a) (faultVal2 0 .load (← get).view.level)
    | none =>
      waitForNet ((← get).creditsFor x [x.moved])
      modify fun s =>
        (s.setPort p { x with moved := x.moved + 1, fetched := rest }).scheduleOnce .streamElementFetch (.port p)
      endElement x x.moved
      pure e.bits

/-- Hold the items of element `i` of a write stream, in pattern order (R148). -/
def storeItems (pat : Pattern) (v : Q) : Nat → List Nat → Act Unit
  | _, [] => pure ()
  | j, m :: rest => do
    let loc := (← get).nearLoc (pat.itemAddr m)
    let n := pat.itemBytes
    registerStore loc n
    holdBack (.write loc (leBytes n (bits v (8 * n * j) (8 * n))) false 0#10)
    storeItems pat v (j + 1) rest

/-- The store of an element pushed over a channel: into a ring of this core, or through the remote window to the ring of a
peer core, which makes the instruction the last of its sheaf (R155, Table 10.5). -/
def storeElement (x : Port) (y : Handle) (v : Q) : Act Unit := do
  let s ← get
  let loc := s.nearLoc (y.elementAddr x.moved)
  if y.engine then
    registerStore loc 16
    holdBack (.write loc (qBytes v) false 0#10)
  else
    holdWindow (pkeyOf y.ring.bits) loc (qBytes v) false (1 + s.creditsFor x [x.moved])

/-- Push one element to the port of a register (R148 to R150). -/
def pushPort (p : Fin 8) (v : Q) : Act Unit := do
  let x ← usePort p true
  if 8 ≤ x.undrained then stall (.place p)
  match x.bound with
  | some (.pattern pat) => storeItems pat v 0 (pat.elementItems x.moved)
  | some (.channel h) => do
    let y := (← get).handle h
    if y.avail = 0 then stall (.place p)
    storeElement x y v
  | none => pure ()
  holdBack (.pushed p)
  modify fun s => s.setPort p { x with moved := x.moved + 1, undrained := x.undrained + 1 }
  endElement x x.moved

/-- Read a register: a bound one pops an element, which carries no tag (R53). -/
def readReg (r : RegIdx) : Act Reg := do
  let s ← get
  if s.streamed r then return Reg.data (← popPort (portOf r)) else return (s.ctx s.cur).reg r

/-- Read the data of a register. -/
def readBits (r : RegIdx) : Act Q := do return (← readReg r).bits

/-- Write a register: a bound one pushes the 128 bits without the tag (R53). -/
def writeReg (d : RegIdx) (v : Reg) : Act Unit := do
  let s ← get
  if s.streamed d then pushPort (portOf d) v.bits else modMyCtx fun c => c.setReg d v

/-- A result that an instruction writes after its sheaf must find its place: what a write to d would stop on. -/
def roomFor (d : RegIdx) : Act Unit := fun s =>
  match writeReg d Reg.null s with
  | .ok _ _ => .ok () s
  | .error e _ => .error e s

/-- wr64 (R91). -/
def write64 (d : RegIdx) (v : Int) : Act Unit := writeReg d (Reg.data (wr64 v))

/-- wr64 of a number. -/
def writeNat (d : RegIdx) (v : Nat) : Act Unit := write64 d v

/-- wr128 with tag 0 (R91). -/
def write128 (d : RegIdx) (v : Q) : Act Unit := writeReg d (Reg.data v)

end Sys2Proof.Machine
end

