-- ==== Sys2Proof/Machine/Flags.lean ====
section
/-! DEFINITION. The flags of `fstat` (Table 3.6), the relation bits of compares (Table 7.5), and saturation (R95). -/

namespace Sys2Proof.Machine

/-- Sets of flags as `fstat` lays them out (Table 3.6): NX in bit 0, UF, OF, DZ, NV, SAT in bit 5. -/
abbrev Flags := BitVec 6

def Flags.nx : Flags := 1#6
def Flags.uf : Flags := 2#6
def Flags.of : Flags := 4#6
def Flags.dz : Flags := 8#6
def Flags.nv : Flags := 16#6
def Flags.sat : Flags := 32#6

/-- A flag where a condition holds. -/
def flagIf (b : Bool) (f : Flags) : Flags := if b then f else 0#6

/-- Flags are sticky: set_flag only sets them. -/
def Ctx.raiseFlags (c : Ctx) (f : Flags) : Ctx := { c with fstat := c.fstat ||| f }

def setFlags (f : Flags) : Act Unit := modMyCtx fun c => c.raiseFlags f

/-- An integer clamped to a range, and whether that changed it. -/
def clamp (lo hi v : Int) : Int × Bool := if v < lo then (lo, true) else if hi < v then (hi, true) else (v, false)

/-- The clamp of a signed integer of `w` bits, and of an unsigned one. -/
def clampSigned (w : Nat) (v : Int) : Int × Bool := clamp (-(2 ^ (w - 1) : Nat)) ((2 ^ (w - 1) : Nat) - 1) v

def clampUnsigned (w : Nat) (v : Int) : Int × Bool := clamp 0 ((2 ^ w : Nat) - 1) v

/-- The relation bits of two doublewords (Table 7.5): EQ, NE, LT, GE, LE, GT, LTN, GEN, LEN, GTN. -/
def relations (sx sy : Int) (ux uy : Nat) : Nat :=
  (sx == sy).toNat + (sx != sy).toNat * 2 ^ 1 + (decide (sx < sy)).toNat * 2 ^ 2 + (decide (sy ≤ sx)).toNat * 2 ^ 3 +
  (decide (sx ≤ sy)).toNat * 2 ^ 4 + (decide (sy < sx)).toNat * 2 ^ 5 + (decide (ux < uy)).toNat * 2 ^ 6 +
  (decide (uy ≤ ux)).toNat * 2 ^ 7 + (decide (ux ≤ uy)).toNat * 2 ^ 8 + (decide (uy < ux)).toNat * 2 ^ 9

end Sys2Proof.Machine
end

