-- ==== Sys2Proof/Machine/Branch.lean ====
section
/-! DEFINITION. Branches, jumps and issue hints (R105 to R109), guards (R63, R64), the drill (R111 to R113), and the
encodings that are no instruction (R72, R73). -/

namespace Sys2Proof.Machine

/-! ### Transfers -/

/-- The address of the instruction of the unit being issued: past its guard (R105, R106). -/
def instrAddr : Act Nat := do
  let c ← myCtx
  pure (c.pc + if c.guarded.isSome then 2 else 0)

/-- The transfer of an immediate form to an address in the code capability (R107). A target outside the 72 bits of an address
is out of bounds, and `xval` holds its low 72 bits. DESIGN CHOICE (log entry 50). -/
def transferTo (t : Int) : Act After := do
  let c ← myCtx
  let b := capBounds c.code.bits
  let a := (t % (2 ^ 72 : Nat)).toNat
  trapIf (decide (t < b.1 ∨ b.2 < t + 2)) 0x185 (q a) (capVal2 0 true false 2)
  pure (.go (.jump { c.code with bits := withAddr c.code.bits a }))

/-- The checks of the target of a register form (R107): the capability `c` of register `r`. -/
def checkTarget (c : Reg) (r : Nat) : Act Unit := do
  let a := addrOf c.bits
  let v2 := capVal2 r false false 2
  trapIf (!c.tag) 0x180 (q a) v2
  trapIf (otypeOf c.bits != 0) 0x181 (q a) v2
  trapIf (!hasPerm c.bits .execute) 0x182 (q a) v2
  trapIf (a % 2 == 1) 0x001 (q a)
  let b := capBounds c.bits
  trapIf (decide ((a : Int) < b.1 ∨ b.2 < a + 2)) 0x185 (q a) v2

/-- The link after an instruction of `len` bytes: the code capability at the address that follows it, tag 1 (R108). -/
def linkAfter (len : Nat) : Act Reg := do
  let c ← myCtx
  let at_ ← instrAddr
  pure ⟨withAddr c.code.bits (at_ + len), true⟩

/-- Branch where a bit of a register has a value (R105). -/
def branchIf (r : RegIdx) (off : BitVec 12) (n : Fin 128) (pol : Bool) : Act After := do
  let x ← readBits r
  if x.getLsbD n.val = pol then
    let at_ ← instrAddr
    transferTo (at_ + 2 * off.toInt)
  else next

def execBt (r : RegIdx) (off : BitVec 12) (n : Fin 128) (s : State) := perform s (branchIf r off n true)
def execBf (r : RegIdx) (off : BitVec 12) (n : Fin 128) (s : State) := perform s (branchIf r off n false)

/-- A jump by a signed offset in halfwords from the instruction (R106). -/
def jumpBy (off : Int) : Act After := do
  let at_ ← instrAddr
  transferTo (at_ + 2 * off)

def execJmp (off : BitVec 25) (s : State) := perform s (jumpBy off.toInt)
def execJmp16 (off : BitVec 11) (s : State) := perform16 s (jumpBy off.toInt)

/-- `jal`: the jump, with its link in g1 (R106, R108). -/
def execJal (off : BitVec 25) (s : State) : Host.Outcome State Fault Refusal :=
  perform s do
    let l ← linkAfter 4
    let j ← jumpBy off.toInt
    writeReg 1 l
    pure j

/-- A jump to the capability of a register (R107). -/
def jumpReg (a : RegIdx) : Act After := do
  let c ← readReg a
  checkTarget c a.val
  pure (.go (.jump c))

/-- A jump to the capability of a register, with a link in d (R108). -/
def jumpLink (d a : RegIdx) (len : Nat) : Act After := do
  let l ← linkAfter len
  let j ← jumpReg a
  writeReg d l
  pure j

def execJr (a : RegIdx) (s : State) := perform s (jumpReg a)
def execJr16 (a : RegIdx) (s : State) := perform16 s (jumpReg a)
def execJalr (d a : RegIdx) (s : State) := perform s (jumpLink d a 4)
def execJalr16 (a : RegIdx) (s : State) := perform16 s (jumpLink 1 a 2)
def execRet (s : State) := perform s (jumpReg 1)
def execRet16 (s : State) := perform16 s (jumpReg 1)

/-! ### Hints (R109) -/

/-- `yield` gives up the greedy position (R222). -/
def yieldTurn : Act After := do
  modify fun s => s.modCore fun c => { c with yielded := true }
  next

def execYield (s : State) := perform s yieldTurn
def execYield16 (s : State) := perform16 s yieldTurn
def execNop (s : State) := perform s next
def execNop16 (s : State) := perform16 s next

/-! ### Guards (R63, R64) -/

/-- The 16 bits of a guard (Table 5.3). -/
def guardWord (r : RegIdx) (n : Fin 128) (pol : Bool) : BitVec 16 :=
  BitVec.ofNat 16 (n.val * 2 ^ 9 + r.val * 2 ^ 4 + pol.toNat * 2 ^ 3 + 6)

/-- The guard's part of its unit: its traps, and whether the instruction is performed. What a trap reports of a guard in a
drill block names the staggered register. DESIGN CHOICE (log entry 49). -/
def State.guardUnit (s : State) (r : RegIdx) (n : Fin 128) (pol : Bool) : State :=
  let k := s.cur
  let w := guardWord r n pol
  let x := (s.ctx k).reg r
  let len := match (s.ctx k).guarded with
    | some g => g.bytes
    | none => 4
  let s := s.modCtx k fun c => { c with guarded := some ⟨w, x.bits.getLsbD n.val == pol, len⟩ }
  if s.streamed r then s.raise k len 0x005 (q w.toNat) 0#128
  else if x.tag then s.raise k len 0x004 (q w.toNat) 0#128
  else s

def execWhenSet (r : RegIdx) (n : Fin 128) (s : State) := happen (s.guardUnit r n true)
def execUnlessSet (r : RegIdx) (n : Fin 128) (s : State) := happen (s.guardUnit r n false)

/-! ### The drill (R111, R113) -/

/-- `drill`: the buffer is acquired for the block that follows, after the slots that already wait for it (R113). Within a
replay, or while an interrupted one holds the buffer, it is misuse (R115, R116). -/
def execDrill (k : BitVec 15) (st : BitVec 4) (n : BitVec 4) (s : State) : Host.Outcome State Fault Refusal :=
  perform s do
    let c ← myCtx
    trapIf c.drill.isSome 0x008 (q c.pc)
    let me ← issuer
    let s ← get
    if s.core.drillOwner.isSome || (!c.wantsBuffer && s.bufferWanted me) then stall .drillBuffer
    let start := c.pc + 4
    modify fun s => s.modCore fun c => { c with drillOwner := some me }
    modMyCtx fun c => { c with drill := some ⟨start, n.toNat + 1, k.toNat, st.toNat, 0, 0, [], true⟩ }
    pure (.go (.to start))

/-! ### What is no instruction (R72, R73) -/

/-- Cause 0x002 with the bits of the unit: the instruction's, and those of its guard. -/
def illegal (w : Nat) : Act After := do
  let c ← myCtx
  trap 0x002 (q w) (match c.guarded with
    | some g => q g.word.toNat
    | none => 0#128)

def execIllegalInstruction (w : BitVec 32) (short : Bool) (s : State) : Host.Outcome State Fault Refusal :=
  if short then perform16 s (illegal w.toNat) else perform s (illegal w.toNat)

end Sys2Proof.Machine
end

