-- ==== Sys2Proof/Machine/Streams.lean ====
section
/-! DEFINITION. Tensor maps (R143), stream ports and their instructions (R144 to R153), and the events that fetch and
drain their elements (R146 to R148). -/

namespace Sys2Proof.Machine

/-! ### Tensor maps (R143, Table 9.6) -/

/-- The LM offset of map N. -/
def State.mapOffset (s : State) (n : Fin 16) : Nat := tableOffset s.core.tmbase + 64 * n.val

/-- Dimension `j` of a map: its extent and its stride. -/
def mapDim (m j : Nat) : Nat × Int := (fld m (128 + 64 * j) 32, signed 32 (fld m (160 + 64 * j) 32))

/-- The dimensions that a map uses, the innermost first. -/
def mapDims (m : Nat) : List (Nat × Int) := (upFrom 0 (fld m 68 2 + 1)).map (mapDim m)

/-- The bits of a map are valid. -/
def mapValid (m : Nat) : Bool :=
  fld m 384 128 == 0 && fld m 70 58 == 0 && fld m 67 1 == 0 && fld m 64 3 ≤ 4 &&
  ((upFrom (fld m 68 2 + 1) (3 - fld m 68 2)).all fun j => fld m (128 + 64 * j) 64 == 0) &&
  (mapDims m).all (fun d => d.1 != 0) && ((mapDims m).foldl (fun a d => a * d.1) 1) < 2 ^ 32

/-- The pattern of a map over a capability. -/
def mapPattern (m : Nat) (c : Q) : Pattern where
  addr := addrOf c
  base := signed 64 (fld m 0 64)
  esize := fld m 64 3
  bounds := (mapDims m).map Prod.fst
  strides := (mapDims m).map Prod.snd

/-- Read map N at issue and form its pattern over a capability, or trap with cause 0x140. -/
def readMap (n : Fin 16) (c : Q) : Act Pattern := do
  let s ← get
  let off := s.mapOffset n
  trapIf (decide (s.allocation < off + 64)) 0x140 (q off) (q n.val)
  registerAccess (s.lm off) 64 false
  let s ← get
  let m := ofBytes (s.seenBytes s.cur (s.lm off) 64)
  trapIf (!mapValid m) 0x140 (q off) (q n.val)
  pure (mapPattern m c)

/-! ### The span of a pattern -/

/-- The lowest item address of a pattern, and the first address above its highest item. -/
def Pattern.span (p : Pattern) : Int × Int :=
  let first := (p.addr : Int) + p.base
  let reach := (p.bounds.zip p.strides).map fun d => ((d.1 : Int) - 1) * d.2
  (reach.foldl (fun a r => a + min 0 r) first, reach.foldl (fun a r => a + max 0 r) first + (p.itemBytes : Int))

/-- The address of the first item of a pattern, exact. -/
def Pattern.first (p : Pattern) : Int := (p.addr : Int) + p.base

/-- An exact address as 72 bits. -/
def addr72 (a : Int) : Nat := (a % (2 ^ 72 : Nat)).toNat

/-- Steps 1 to 4 of R60 for the bytes from `lo` to `hi`. -/
def capFaultSpan (c : Reg) (perms : List Perm) (lo hi : Int) : Option Nat :=
  match capFault c perms (addrOf c.bits) 0 with
  | some 0x185 | none =>
    let b := capBounds c.bits
    if b.1 ≤ lo ∧ hi ≤ b.2 then none else some 0x185
  | e => e

/-- Trap where a pattern's span fails R60 through register `r`. -/
def checkSpan (c : Reg) (r : RegIdx) (perms : List Perm) (p : Pattern) : Act Unit :=
  match capFaultSpan c perms p.span.1 p.span.2 with
  | some cause => trap cause (q (addr72 p.span.1)) (capVal2 r.val false false (p.span.2 - p.span.1).toNat)
  | none => pure ()

/-- The items are aligned to `n` bytes: the first address and every stride. -/
def Pattern.aligned (p : Pattern) (n : Nat) : Bool :=
  p.first % (n : Int) == 0 && p.strides.all fun st => st % (n : Int) == 0

/-- Every item lies in region 0xD, or every one in region 0xC (Table 1.2). -/
def Pattern.inside (p : Pattern) (region size : Nat) : Bool :=
  ((region * 2 ^ 68 : Nat) : Int) ≤ p.span.1 && p.span.2 ≤ ((region * 2 ^ 68 + size : Nat) : Int)

def Pattern.near (p : Pattern) : Bool := p.inside 0xD (2 ^ 18) || p.inside 0xC (2 ^ 22)

/-! ### Fetching and draining (R146 to R148) -/

/-- The 32 bytes of a sector as a slot sees them, and whether they have an uncorrectable error. -/
def State.readSector (s : State) (k : SlotId) (sec : Nat) : List Byte := s.seenBytes k (32 * sec) 32

/-- The bytes of the items of an element, each sector read once while the port stands in it, with the address of the
first item in error. -/
def State.gatherItems (s : State) (k : SlotId) (pat : Pattern) (sector : Option (Nat × List Byte)) :
    List Nat → Option (Nat × List Byte) × List Byte × Option Nat
  | [] => (sector, [], none)
  | m :: rest =>
    let a := pat.itemAddr m
    let loc := s.nearLoc a
    let here := match sector with
      | some (sec, data) => if sec = loc / 32 then data else s.readSector k (loc / 32)
      | none => s.readSector k (loc / 32)
    let (last, data, bad) := s.gatherItems k pat (some (loc / 32, here)) rest
    (last, (here.drop (loc % 32)).take pat.itemBytes ++ data, if s.isBad loc then some a else bad)

/-- The ring slot of element `i` counted from the slot at the handle's position, for a port that has moved `moved`. -/
def ringAhead (e moved i : Nat) : Nat := i / e - moved / e

/-- The address of element `i` of a channel. -/
def Handle.aheadAddr (h : Handle) (moved i : Nat) : Nat :=
  (addrOf h.ring.bits + (h.pos + ringAhead h.elements moved i) % 2 ^ h.countlog * 2 ^ h.slotlog + 16 * (i % h.elements)) % 2 ^ 72

/-- Fetch the next element of a read port, and make the next fetch due (R147). -/
def State.fetchElement (s : State) (p : Fin 8) : State :=
  let x := s.port p
  let i := x.moved + x.fetched.length
  let k := x.owner.getD s.cur
  if x.write || decide (8 ≤ x.fetched.length) || decide (x.trip ≤ i) then s
  else
    match x.bound with
    | some (.pattern pat) =>
      let (sector, data, bad) := s.gatherItems k pat x.sector (pat.elementItems i)
      (s.setPort p { x with sector := sector, fetched := x.fetched ++ [⟨qOfBytes data, bad⟩] }).scheduleOnce
        .streamElementFetch (.port p)
    | some (.channel h) =>
      let y := s.handle h
      if y.avail ≤ ringAhead y.elements x.moved i then s
      else
        let a := y.aheadAddr x.moved i
        let bad := if s.isBad (s.nearLoc a) then some a else none
        (s.setPort p { x with fetched := x.fetched ++ [⟨qOfBytes (s.seenBytes k (s.nearLoc a) 16), bad⟩] }).scheduleOnce
          .streamElementFetch (.port p)
    | none => s

/-- STREAM_ELEMENT_FETCH (R147). -/
def execStreamElementFetch (s : State) : Host.Outcome State Fault Refusal :=
  match s.event with
  | .port p => happen (s.fetchElement p)
  | _ => happen s

/-- STREAM_ELEMENT_DRAIN (R148): a pushed element leaves the buffer. -/
def execStreamElementDrain (s : State) : Host.Outcome State Fault Refusal :=
  match s.event with
  | .port p => happen (s.setPort p { s.port p with undrained := (s.port p).undrained - 1 })
  | _ => happen s

/-- The ports bound to a handle look for elements again. -/
def State.refetch (s : State) (h : Fin 16) : State :=
  portIds.foldl (fun s p =>
    if (s.port p).bound = some (.channel h) then s.scheduleOnce .streamElementFetch (.port p) else s) s

/-! ### The instructions -/

/-- A port to be bound waits for the commit of the sheaf in which another slot has freed it. -/
def waitForPort (p : Fin 8) : Act Unit := fun s =>
  if s.freedElsewhere s.cur p then .error (.wait (.freed p)) s else .ok () s

/-- A port bound, its first fetch due. -/
def State.bindPort (s : State) (p : Fin 8) (write : Bool) (b : Binding) (trip : Nat) : State :=
  let s := s.setPort p ⟨some s.cur, write, some b, trip, 0, [], 0, none⟩
  if write then s else s.scheduleOnce .streamElementFetch (.port p)

/-- `sbind` (R145). -/
def execSbind (d a : RegIdx) (p : Bool) (tm : Fin 16) (s : State) : Host.Outcome State Fault Refusal :=
  perform s do
    let c ← readReg a
    trapIf ((← get).port (portOf d)).bound.isSome 0x141 (q d.val)
    let pat ← readMap tm c.bits
    checkSpan c a [if p then .store else .load] pat
    trapIf (!pat.aligned pat.itemBytes) 0x101 (q (addr72 pat.first)) (capVal2 a.val false false pat.itemBytes)
    trapIf (!pat.near) 0x120 (q (addr72 pat.span.1))
    waitForPort (portOf d)
    modify fun s => s.bindPort (portOf d) p (.pattern pat) pat.trip
    next

/-- `sbindch` (R150). The checks come as the text names them: the port, the count, the handle. DESIGN CHOICE (log entry 53). -/
def execSbindch (d a : RegIdx) (p : Bool) (h : Fin 16) (s : State) : Host.Outcome State Fault Refusal :=
  perform s do
    let n := n64 (← readBits a)
    let s ← get
    let x := s.handle h
    trapIf (s.port (portOf d)).bound.isSome 0x141 (q d.val)
    trapIf (n == 0 || decide (2 ^ 32 ≤ n)) 0x14A (q h.val) (q n)
    trapIf (!x.init || x.producer != p || x.stream || decide (x.slotlog < 4)) 0x148 (q h.val)
    waitForPort (portOf d)
    modify fun s => (s.setHandle h { x with stream := true }).bindPort (portOf d) p (.channel h) n
    next

/-- A write port has passed on everything pushed: its elements are stored or, on a channel, committed (R151). -/
def State.flushed (s : State) (p : Fin 8) : Bool :=
  let x := s.port p
  x.undrained == 0 &&
    match x.bound with
    | some (.channel h) => x.moved % (s.handle h).elements == 0 || x.moved == x.trip
    | _ => true

/-- `sfree` (R151). -/
def execSfree (a : RegIdx) (s : State) : Host.Outcome State Fault Refusal :=
  perform s do
    let p := portOf a
    let s ← get
    let x := s.port p
    trapIf (x.bound.isNone || x.owner != some s.cur) 0x141 (q a.val)
    if x.write && !s.flushed p then stall (.drained p)
    modify fun s => ((s.setPort p Port.free).refreshStreams).checkChannels
    modMyCtx fun c => c.setReg a Reg.null
    next

/-- The slots of its ring that `n` elements from the port's position lie in. -/
def slotsAhead (e moved n : Nat) : Nat := (moved + n - 1) / e - moved / e + 1

/-- Elements passed one by one, with the slots that end (R150, R152). -/
def passElements (x : Port) : List Nat → Act Unit
  | [] => pure ()
  | i :: rest => do
    endElement x i
    passElements x rest

/-- `sskip` (R152). The encoded number is n − 1. -/
def execSskip (a : RegIdx) (n : Fin 64) (s : State) : Host.Outcome State Fault Refusal :=
  perform s do
    let p := portOf a
    let n := n.val + 1
    let s ← get
    let x := s.port p
    trapIf (x.bound.isNone || x.owner != some s.cur || x.write) 0x141 (q a.val)
    trapIf (decide (x.trip < x.moved + n)) 0x142 (q a.val) (q x.trip)
    match x.bound with
    | some (.channel h) =>
      let need := slotsAhead (s.handle h).elements x.moved n
      if (s.handle h).avail < need then stall (.filled h need)
    | _ => pure ()
    waitForNet (s.creditsFor x (upFrom x.moved n))
    modify fun s =>
      (s.setPort p { x with moved := x.moved + n, fetched := x.fetched.drop n }).scheduleOnce .streamElementFetch (.port p)
    passElements x (upFrom x.moved n)
    next

/-- Port status (Table 9.8). -/
def Port.status (x : Port) : Nat :=
  if x.bound.isNone then 0
  else
    let chan := match x.bound with
      | some (.channel _) => true
      | _ => false
    let ready := if x.write then 8 - x.undrained else x.fetched.length
    (x.trip - x.moved) * 2 ^ 64 + x.trip * 2 ^ 32 + ready % 16 * 2 ^ 4 + chan.toNat * 2 ^ 3 + x.write.toNat * 2 ^ 2 +
      (decide (0 < x.undrained)).toNat * 2 + 1

/-- Handle status (Table 9.9). -/
def Handle.status (h : Handle) : Nat :=
  h.pos * 2 ^ 32 + h.avail * 2 ^ 16 + h.ovf.toNat * 2 ^ 4 + h.engine.toNat * 2 ^ 3 + h.producer.toNat * 2 ^ 2 +
    h.stream.toNat * 2 + h.init.toNat

/-- `sstat` (R153). -/
def execSstat (d a : RegIdx) (s : State) : Host.Outcome State Fault Refusal :=
  perform s do
    write128 d (q ((← get).port (portOf a)).status)
    next

/-- `sstat.ch` (R153). -/
def execSstatCh (d : RegIdx) (h : Fin 16) (s : State) : Host.Outcome State Fault Refusal :=
  perform s do
    write128 d (q ((← get).handle h).status)
    next

end Sys2Proof.Machine
end

