-- ==== Sys2Proof/Machine/Channels.lean ====
section
/-! DEFINITION. Channel handles and their instructions (R154 to R156), and the arrival of a credit. -/

namespace Sys2Proof.Machine

/-! ### Handles -/

/-- The slot count of a handle. -/
def Handle.count (h : Handle) : Nat := 2 ^ h.countlog

/-- The fields of a channel configuration (Table 9.11) in range. -/
def configValid (c : Q) : Bool :=
  bits c 33 95 == 0 && bits c 10 6 == 0 && 4 ≤ bits c 0 4 && bits c 0 4 ≤ 12 && bits c 4 4 ≤ 8 &&
  (bits c 9 1 == 0 || (bits c 29 4 == 0 && bits c 28 1 == 0 && (bits c 25 3 ≤ 3 || bits c 25 3 == 7)))

/-- The peer core of a configuration: PDIE, PCLU, PCORE. -/
def configPeer (c : Q) : CoreId := BitVec.ofNat 13 (bits c 16 3 * 1024 + bits c 19 6 * 16 + bits c 25 4)

/-- The handle that a configuration and a ring set up (R155). -/
def configHandle (c : Q) (ring : Reg) : Handle where
  init := true
  producer := c.getLsbD 8
  engine := c.getLsbD 9
  fifo := bits c 25 3
  peer := configPeer c
  phandle := bits c 29 4
  slotlog := bits c 0 4
  countlog := bits c 4 4
  ring := ring
  avail := if c.getLsbD 8 then 2 ^ bits c 4 4 else 0
  pos := 0
  ovf := false
  stream := false

/-- The permissions that a ring capability needs (R155). -/
def Handle.ringPerms (h : Handle) : List Perm :=
  if h.producer then (if h.engine then [.store] else [.store, .remote]) else [.load]

/-- Whether a ring lies where its end asks: this cluster's CM or this core's LM, or through the remote window for a
producer with a core peer. -/
def Handle.ringNear (h : Handle) : Bool :=
  let a := addrOf h.ring.bits
  let last := a % 2 ^ 68 + 2 ^ (h.slotlog + h.countlog)
  if h.producer && !h.engine then
    regionOf a == 0xE && remoteLayout a && fld a 0 22 + 2 ^ (h.slotlog + h.countlog) ≤ (if fld a 53 2 = 0 then 2 ^ 18 else 2 ^ 22)
  else (regionOf a == 0xD && last ≤ 2 ^ 18) || (regionOf a == 0xC && last ≤ 2 ^ 22)

/-- The credits of a handle to an engine that slot `k` holds back: of no use once the handle is set up anew (R155). -/
def State.dropCredits (s : State) (k : SlotId) (h : Fin 16) : State :=
  s.modSheaf k fun sh =>
    { sh with held := sh.held.filter fun x =>
        match x with
        | .credit g _ none => g != h
        | _ => true }

/-- `cbinit` (R155). A ring that does not lie where its end needs it raises cause 0x120, and the checks come in the order
of the text, the configuration's fields first. DESIGN CHOICE (log entry 53). -/
def execCbinit (d a : RegIdx) (h : Fin 16) (s : State) : Host.Outcome State Fault Refusal :=
  perform s do
    let c ← readReg a
    let y ← readBits d
    let s ← get
    let old := s.handle h
    let x := configHandle y c
    let at_ := addrOf c.bits
    let size := 2 ^ (x.slotlog + x.countlog)
    trapIf (!configValid y) 0x14A (q h.val) y
    checkCap c a.val x.ringPerms at_ size
    trapIf (at_ % 2 ^ x.slotlog != 0) 0x101 (q at_) (capVal2 a.val false false size)
    trapIf (!x.ringNear) 0x120 (q at_)
    trapIf (!x.engine && !s.inSubmesh s.core.tenant x.peer) 0x122 (q at_) (q x.peer.toNat)
    trapIf old.stream 0x148 (q h.val)
    modify fun s => ((s.setHandle h x).dropCredits s.cur h).checkChannels
    noteUndo (.initialised h old)
    if x.engine then holdBack (.credit h 0 none)
    next

/-- A handle that a channel instruction may use in a role, or cause 0x148 (R156). -/
def useHandle (h : Fin 16) (producer : Bool) : Act Handle := do
  let x := (← get).handle h
  trapIf (!x.init || x.producer != producer || x.stream) 0x148 (q h.val)
  pure x

/-- `cbwait` and `cbfree` (R156): wait for a count, acquire from the peer (R139), and write the offset of the head or
tail slot. -/
def waitSlots (producer : Bool) (d a : RegIdx) (h : Fin 16) : Act After := do
  let n := n64 (← readBits a)
  let x ← useHandle h producer
  trapIf (decide (x.count < n)) 0x149 (q h.val) (q n)
  if x.avail < n then stall (if producer then .vacant h n else .filled h n)
  writeNat d (x.pos * 2 ^ x.slotlog)
  if x.engine = false then acquireFrom x.peer
  next

/-- `cbadv` and `cbcomm` (R156): pass `n` slots to the peer. -/
def giveSlots (producer : Bool) (a : RegIdx) (h : Fin 16) : Act After := do
  let n := n64 (← readBits a)
  let x ← useHandle h producer
  trapIf (decide (x.avail < n)) 0x149 (q h.val) (q n)
  if x.engine = false then waitForNet
  passSlots h producer n
  next

def execCbwait (d a : RegIdx) (h : Fin 16) (s : State) := perform s (waitSlots false d a h)
def execCbfree (d a : RegIdx) (h : Fin 16) (s : State) := perform s (waitSlots true d a h)
def execCbadv (a : RegIdx) (h : Fin 16) (s : State) := perform s (giveSlots false a h)
def execCbcomm (a : RegIdx) (h : Fin 16) (s : State) := perform s (giveSlots true a h)

/-- A credit of `n` arrives at a handle of the role that it is for: past the slot count it sets the count, and OVF
(R156). One for a handle that is not initialised or has the other role changes nothing. DESIGN CHOICE (log entry 54). -/
def State.takeCredit (s : State) (h : Fin 16) (filledCredit : Bool) (n : Nat) : State :=
  let x := s.handle h
  if x.init = false ∨ x.producer = filledCredit then s
  else
    let x := if x.count < x.avail + n then { x with avail := x.count, ovf := true } else { x with avail := x.avail + n }
    ((s.setHandle h x).refetch h).checkChannels

end Sys2Proof.Machine
end

