-- ==== Sys2Proof/Machine/Engines.lean ====
section
/-! DEFINITION. The engine FIFOs (R157 to R159, R163): `epush`, `epop`, `epeek`, `estat`, and the return of results. -/

namespace Sys2Proof.Machine

/-! ### Commands (Tables 9.14 and 9.16) -/

/-- The FIFO numbers of Table 1.6. -/
def fifoNumber : Fifo → Nat
  | .e0 => 0
  | .e1 => 1
  | .e2 => 2
  | .e3 => 3
  | .e7 => 7

def headerOpc (h : Q) : Nat := bits h 120 8
def headerChv (h : Q) : Bool := h.getLsbD 115
def headerArg (h : Q) : Nat := bits h 0 92

/-- What Table 9.16, R160, R162 and R320 give a command: its LENs, the ARG bits it uses, whether it accepts CHV, and
which of the elements after the header are capabilities. -/
structure Shape where
  lens : List Nat
  arg  : Nat
  chv  : Bool
  caps : List Bool

/-- ARG bits [n-1:0]. -/
def argBits (n : Nat) : Nat := 2 ^ n - 1

/-- ARG bits of a collective (R162). -/
def collectiveArg : Nat := argBits 39 + argBits 10 * 2 ^ 48

def commandShape (f : Fifo) (opc : Nat) : Option Shape :=
  match f, opc with
  | .e0, 0x01 => some ⟨[2], argBits 64, true, [true, true]⟩
  | .e0, 0x02 => some ⟨[2], argBits 64, true, [true, false]⟩
  | .e0, 0x03 => some ⟨[2], argBits 65, true, [false, true]⟩
  | .e1, 0x10 => some ⟨[2], argBits 9, false, [true, true]⟩
  | .e1, 0x11 => some ⟨[3], argBits 8, false, [true, true, false]⟩
  | .e1, 0x12 => some ⟨[3], argBits 8, false, [true, true, false]⟩
  | .e1, 0x13 => some ⟨[2], argBits 8, false, [true, false]⟩
  | .e2, 0x20 => some ⟨[3], argBits 64, true, [true, true, true]⟩
  | .e2, 0x21 => some ⟨[3], argBits 64, false, [true, true, true]⟩
  | .e3, 0x34 => some ⟨[1], collectiveArg, false, [true]⟩
  | .e7, 0x70 => some ⟨[4], argBits 6, false, [false, false, false, false]⟩
  | .e7, 0x71 => some ⟨[0], argBits 6, false, []⟩
  | .e1, o => if 0x14 ≤ o ∧ o ≤ 0x17 then some ⟨[2, 3], argBits 8, false, [false, false, false]⟩ else none
  | .e3, o => if 0x30 ≤ o ∧ o ≤ 0x33 then some ⟨[3], collectiveArg, false, [true, true, true]⟩ else none
  | _, _ => none

/-- The header check of R158. -/
def headerValid (f : Fifo) (h : Reg) : Bool :=
  h.tag == false && bits h.bits 112 3 == 0 &&
  match commandShape f (headerOpc h.bits) with
  | none => false
  | some c =>
    c.lens.contains (headerLen h.bits) && headerArg h.bits &&& c.arg == headerArg h.bits && (!headerChv h.bits || c.chv)

/-- Whether the last element of a command asks for power leave, and the classes that give it (R163, Table 28.4). -/
def leaveFor (f : Fifo) (h : Q) : Option (List Nat) :=
  match f with
  | .e0 => if 2 ^ 20 < bits h 0 64 then some [2, 4] else none
  | .e3 => if headerOpc h = 0x34 then none else some [3, 4]
  | _ => none

def holdsLeave (x : Slot) (l : List Nat) : Bool :=
  match x.grant with
  | some c => l.contains c
  | none => false

/-! ### The instructions -/

/-- The check of an element after the header (R158). -/
def checkElement (f : Fifo) (r : RegIdx) (header : Q) (pos : Nat) (y : Reg) : Act Unit := do
  let isCap := match commandShape f (headerOpc header) with
    | some c => c.caps.getD (pos - 1) false
    | none => false
  if isCap then
    match capFault y [.engine] 0 0 with
    | some 0x185 => pure ()
    | some cause => trap cause (q (addrOf y.bits)) (q r.val)
    | none => pure ()
  else trapIf y.tag 0x2E0 (q (bits y.bits 64 64)) (q (fifoNumber f + pos * 8))

/-- A command of the elements given, with what an engine performs it with as the core has it at the `epush` (R311, R362,
R375). -/
def State.commandOf (s : State) (l : Level) (elems : List Reg) : Command where
  elems := elems
  level := l
  windows := s.core.pwin.toList
  tenant := s.core.tenant
  root := s.root
  rooted := s.rootEnabled
  stamp := 0
  progress := Progress.start
  owner := none

/-- `epush` (R158, R163). -/
def execEpush (a : RegIdx) (f : Fifo) (s : State) : Host.Outcome State Fault Refusal :=
  perform s do
    let y ← readReg a
    let x ← mySlot
    let input := (x.engine f).input
    if 8 ≤ input.length then stall (.input f)
    let part := incomplete 8 input
    let header := (part.getD 0 y).bits
    if part = [] then trapIf (!headerValid f y) 0x2E0 (q (bits y.bits 64 64)) (q (fifoNumber f))
    else checkElement f a header part.length y
    if part.length = headerLen header then
      let lacking := match leaveFor f header with
        | some l => !holdsLeave x l
        | none => false
      if f = .e7 then awaitStores
      if lacking then throw (.lacksLeave f (q (bits header 64 64)) (q (fifoNumber f)))
      let s ← get
      holdBack (.command f (s.commandOf x.ctx.level (part ++ [y])))
    modMySlot fun x => x.setEngine f { x.engine f with input := (x.engine f).input ++ [y] }
    next

/-- The command that an engine performs next for a slot. -/
def State.taken (s : State) (k : SlotId) (f : Fifo) : Option Command := ((s.slot k).engine f).taken.head?

/-- Forwarding entries whose answers have all come are freed (R295). -/
def State.owed (s : State) (id : Nat) : Bool :=
  (slotIds.any fun k => fifos.any fun f => ((s.slot k).engine f).taken.any fun c => c.owner == some id) ||
  s.core.spawned.any fun x => x.owner == some id

def State.freeForwards (s : State) : State :=
  s.modCore fun c => { c with forwards := c.forwards.filter fun x => s.owed x.id }

/-- The oldest command of a slot is done; its engine goes on to the next. -/
def State.nextCommand (s : State) (k : SlotId) (f : Fifo) : State :=
  let s := (s.modSlot k fun x => x.setEngine f { x.engine f with taken := (x.engine f).taken.drop 1 }).freeForwards
  match s.taken k f with
  | some c => s.scheduleCommand k f c
  | none => s

/-- The writes that an engine has reported done ahead of their performance, performed: none while a solo sheaf of another slot
than `j` holds some of them (R178). -/
def State.writeLate (s : State) (j : Option SlotId) : List (Nat × BitVec 10 × List Byte) → Option State
  | [] => some s
  | (loc, key, data) :: rest => do
    let s ← s.snoopBack loc data.length true
    let s ← s.arriveBeside j loc data.length
    (s.store key loc data false).writeLate j rest

/-- What the oldest command of slot `k` has reported done is performed, where it is not yet (R171). DESIGN CHOICE (log entry 72). -/
def State.settleLate (s : State) (k : SlotId) (f : Fifo) (j : Option SlotId := none) : Option State :=
  match s.taken k f with
  | some c => if c.progress.late = [] then some s else (s.writeLate j c.progress.late).map fun s => s.nextCommand k f
  | none => some s

/-- Every engine of slot `k` has performed what it has reported done. -/
def State.settled (s : State) (k : SlotId) : State := fifos.foldl (fun s f => (s.settleLate k f).getD s) s

/-- `epop` (R157). What the element reports done is performed before it (Table 10.3). -/
def execEpop (d : RegIdx) (f : Fifo) (s : State) : Host.Outcome State Fault Refusal :=
  perform s do
    match ((← mySlot).engine f).output with
    | [] => stall (.result f)
    | e :: rest =>
      modMySlot fun x => x.setEngine f { x.engine f with output := rest }
      noteUndo (.result f e)
      write128 d e
      let s ← get
      match s.settleLate s.cur f (some s.cur) with
      | none => stall .solo
      | some t => set t
      next

/-- `epeek` (R157). -/
def execEpeek (d : RegIdx) (f : Fifo) (s : State) : Host.Outcome State Fault Refusal :=
  perform s do
    write128 d (((← mySlot).engine f).output.headD 0#128)
    next

/-- Commands of an engine that are the context's own and unanswered. -/
def Engine.own (e : Engine) : Nat := (e.taken.filter fun c => c.owner.isNone && c.progress.late == []).length

/-- Engine status (Table 9.13). -/
def Engine.status (e : Engine) (f : Fifo) : Nat :=
  (8 - e.input.length) * 2 ^ 12 + e.output.length % 16 * 2 ^ 8 + Nat.min 15 (e.own + e.waiting.length + e.away) * 2 ^ 4 +
    (decide (incomplete 8 e.input ≠ [])).toNat * 2 ^ 3 + fifoNumber f

/-- `estat` (R157). -/
def execEstat (d : RegIdx) (f : Fifo) (s : State) : Host.Outcome State Fault Refusal :=
  perform s do
    write128 d (q (((← mySlot).engine f).status f))
    next

/-! ### Results (R159) -/

/-- A result header (Table 9.15). -/
def resultHeader (status rlen tag cause value : Nat) : Q :=
  q (2 ^ 127 + status % 8 * 2 ^ 124 + rlen % 8 * 2 ^ 121 + tag % 2 ^ 16 * 2 ^ 96 + cause % 2 ^ 10 * 2 ^ 86 + value % 2 ^ 64)

/-- What a command comes to. -/
structure Answer where
  status : Nat := 0
  cause  : Nat := 0
  value  : Nat := 0
  data   : List Q := []

/-- A command refused, nothing done. -/
def Answer.refuse (cause : Nat) : Answer := { status := 2, cause := cause }

/-- The result elements of an answer: none for a NORES command that succeeds. -/
def Answer.elements (r : Answer) (h : Q) : Option (List Q) :=
  if h.getLsbD 116 && r.status == 0 then none
  else some (resultHeader r.status r.data.length (bits h 96 16) r.cause r.value :: r.data)

/-- The place of a FIFO among the engines of a slot or a frame. -/
def fifoIndex : Fifo → Nat
  | .e0 => 0
  | .e1 => 1
  | .e2 => 2
  | .e3 => 3
  | .e7 => 4

/-- A frame of this die written: it is the one written most recently (R291). -/
def State.modFrame (s : State) (n : Nat) (g : Frame → Frame) : State :=
  s.modDie fun d =>
    { d with frames := (d.frames.filter fun x => x.1 != n) ++ ((d.frames.filter fun x => x.1 == n).map fun x => (n, g x.2)) }

/-- A frame that a handover holds sealed under its own key (R383). -/
def State.handedOver (s : State) (n : Nat) : Bool :=
  s.module.handovers.any fun h => h.1 == n && (h.2.state == .sealed || h.2.state == .sent || h.2.state == .failedKeysErased)

/-- A result of a command of the context that an engine's queues belong to. -/
def Engine.result (e : Engine) (r : Option (List Q)) : Engine := { e with waiting := e.waiting ++ r.toList }

/-- A late answer comes to the place where its context now stands (R293, R295); on another core it leaves. A frame sealed
under a handover key changes no more. DEDUCED (log entry 35). -/
def State.forwardResult (s : State) (id : Nat) (f : Fifo) (r : Option (List Q)) : State :=
  let late (e : Engine) : Engine := { e.result r with away := e.away - 1 }
  match (s.core.forwards.find? fun x => x.id == id).map Forward.place with
  | some (.frame n) => if s.handedOver n then s else s.modFrame n fun x => { x with engines := x.engines.modify (fifoIndex f) late }
  | some (.slot c k) =>
    if c = s.core.id then
      (s.modSlot k fun x => x.setEngine f (late (x.engine f))).scheduleOnce .engineResultReturn (.fifo k f)
    else s
  | none => s

/-- The result of the oldest command of a slot (R159). -/
def State.report (s : State) (k : SlotId) (f : Fifo) (c : Command) (r : Answer) : State :=
  match c.owner with
  | none =>
    (s.modSlot k fun x => x.setEngine f ((x.engine f).result (r.elements c.header))).scheduleOnce .engineResultReturn (.fifo k f)
  | some id => s.forwardResult id f (r.elements c.header)

/-- The oldest command of a slot is answered. -/
def State.answer (s : State) (k : SlotId) (f : Fifo) (r : Answer) : State :=
  match s.taken k f with
  | none => s
  | some c => (s.report k f c r).nextCommand k f

/-- The elements of a slot's output queue that its sheaf has popped and a squash would bring back (R164). -/
def Sheaf.popped (sh : Sheaf) (f : Fifo) : Nat :=
  (sh.undo.filter fun u =>
    match u with
    | .result g _ => g == f
    | _ => false).length

/-- Results that wait, whole and in order, as far as they fit in the free places of an output queue. -/
def fitResults (room : Nat) : List (List Q) → List Q × List (List Q)
  | [] => ([], [])
  | r :: rest =>
    if r.length ≤ room then
      let (now, later) := fitResults (room - r.length) rest
      (r ++ now, later)
    else ([], r :: rest)

/-- Results enter the output queue (R159). -/
def State.returnResults (s : State) (k : SlotId) (f : Fifo) : State :=
  s.modSlot k fun x =>
    let e := x.engine f
    let (now, later) := fitResults (8 - (e.output.length + x.sheaf.popped f)) e.waiting
    x.setEngine f { e with output := e.output ++ now, waiting := later }

/-- ENGINE_RESULT_RETURN (R159). -/
def execEngineResultReturn (s : State) : Host.Outcome State Fault Refusal :=
  match s.event with
  | .fifo k f => happen (s.returnResults k f)
  | _ => happen s

end Sys2Proof.Machine
end

