-- ==== Sys2Proof/Machine/Churn.lean ====
section
/-! DEFINITION. The churn and the gather engine: COPY, FILL, XCOPY, GATHER and SCATTER (R160, R304 to R307, R311,
R366), and how the engines reach memory (R183, R375). -/

namespace Sys2Proof.Machine

/-! ### Engines and memory -/

/-- The view with which an engine performs a command (R311, R375). -/
def Command.view (c : Command) : View where
  level := c.level
  tenant := c.tenant
  root := c.root
  enabled := c.rooted
  windows := c.windows
  engine := true

/-- The cause of an act that traps, with what walks leave; an act that waits goes on waiting. -/
def tryAct {α : Type} (act : Act α) : Act (Nat ⊕ α) := fun s =>
  match act s with
  | .ok x t => .ok (.inr x) t
  | .error (.trap c _ _) t => .ok (.inl c) (s.keep t)
  | .error e t => .error e t

/-- The pages that a command has touched: page and direction, with how its walk failed or the leaf entry that it gave. -/
abbrev Pages := List (Nat × Bool × (Failed ⊕ (Nat × Nat)))

/-- Two 4 KiB pages lie in the one page of a leaf entry at a level, or in its 64 KiB group (R299). -/
def samePage (e level a b : Nat) : Bool :=
  if level = 0 ∧ pteContig e = true then a / 16 == b / 16
  else if level ≤ 2 then a / 2 ^ (9 * level) == b / 2 ^ (9 * level)
  else a == b

/-- What a command's walk of a page gave an address: the failure of one in either direction, or the entry for its own
direction, whose page holds the address. A walk that fails at a leaf entry has failed for the page of that entry. -/
def walked (kind : Kind) (va : Nat) (p : Nat × Bool × (Failed ⊕ (Nat × Nat))) : Bool :=
  match p.2.2 with
  | .inl (cause, level, e) =>
    if (cause = 0x110 ∨ cause = 0x113) ∧ pteLeaf e = true then samePage e level p.1 (va / 2 ^ 12) else p.1 == va / 2 ^ 12
  | .inr (e, level) => samePage e level p.1 (va / 2 ^ 12) && p.2.1 == kind.writes

/-- The leaf entry for an address, walked once for a command (R311). -/
def leafOnce (v : View) (kind : Kind) (va : Nat) (pages : Pages) : Act (Pages × (Failed ⊕ (Nat × Nat))) := do
  match pages.find? (walked kind va) with
  | some p => pure (pages, p.2.2)
  | none =>
    let r ← leafFound v va kind
    pure ((va / 2 ^ 12, kind.writes, r) :: pages, r)

/-- The places of the `n` bytes at `va`, page by page, or the cause that keeps the engine from one. -/
def placesOf (v : View) (cap : Q) (kind : Kind) : Nat → Nat → Nat → Pages → Act (Pages × (Nat ⊕ List (Place × Nat)))
  | 0, _, _, pages => pure (pages, .inr [])
  | fuel + 1, va, n, pages => do
    if n = 0 then pure (pages, .inr [])
    else if 0xC ≤ regionOf va then
      pure (pages, .inr [({ loc := (← get).nearLoc va, remote := regionOf va == 0xE, pkey := pkeyOf cap }, n)])
    else
      let m := Nat.min n (2 ^ 12 - va % 2 ^ 12)
      let (pages, leaf) ← leafOnce v kind va pages
      match leaf with
      | .inl (c, _, _) => pure (pages, .inl c)
      | .inr (e, level) =>
        match ← tryAct (placeLeaf v cap kind va m 0#128 e level) with
        | .inl c => pure (pages, .inl c)
        | .inr p =>
          let (pages, rest) ← placesOf v cap kind fuel (va + m) (n - m) pages
          pure (pages, rest.map id fun l => (p, m) :: l)

/-- The bytes at places, those of the core's own remote-window writes on their way among them (R170), or cause 0x130 (R309,
R374). -/
def readPlaces (v : View) : List (Place × Nat) → Act (Nat ⊕ List Byte)
  | [] => pure (.inr [])
  | (p, n) :: rest => do
    v.askHost p.loc n false
    modify fun s => (p.uncopy n s).fetchCopies p.loc n
    let s ← get
    if s.readable p.key p.loc n = false then pure (.inl 0x130)
    else
      set (p.uncopy n s)
      match ← readPlaces v rest with
      | .inl c => pure (.inl c)
      | .inr l => pure (.inr (s.coreBytes p.loc n ++ l))

/-- A message of an engine leaves through the network interface at once. -/
def State.sendStraight (s : State) (m : Msg) : State := (s.routeMessage m).getD (s.sendMessage m)

/-- A write of places reaches them: the host has given up its lines, the core's own writes on their way have arrived, and the
other slots' sheaves that hold some are squashed, or a solo one defers the write (R352, R171, R177, R178). One through the
remote window finds a place in the interface and follows the messages there to the same core (R225, R227). DEDUCED (log
entry 69). -/
def reachPlaces (v : View) : List (Place × Nat) → Act Unit
  | [] => pure ()
  | (p, n) :: rest => do
    let s ← get
    if p.remote then
      if s.netFull || s.core.outgoing.any fun m => m.dst == (s.windowPart 0#12 p.pkey p.loc [] false).dst then stall .netPlace
    else
      if s.windowFlies p.loc n then stall (.landing p.loc n)
      v.askHost p.loc n true
      let s ← get
      match s.arriveBeside (if v.engine then none else some s.cur) p.loc n with
      | some t => set t
      | none => stall .solo
    reachPlaces v rest

/-- The bytes of places stored; tags become 0 (R126). Those through the remote window go in messages, with the key of the
capability (R18, R224). DEDUCED (log entry 69). -/
def State.storePlaces (s : State) (data : List Byte) : List (Place × Nat) → State
  | [] => s
  | (p, n) :: rest =>
    let s :=
      if p.remote then (s.windowParts p.pkey p.loc (n / 480 + 1) (data.take n)).foldl State.sendStraight s
      else p.uncopy n (s.store p.key p.loc (data.take n) false)
    s.storePlaces (data.drop n) rest

/-- Write bytes at places: all of them, or none where the write waits. -/
def writePlaces (v : View) (data : List Byte) (l : List (Place × Nat)) : Act Unit := do
  reachPlaces v l
  modify fun s => s.storePlaces data l

/-- Read `n` bytes at a virtual address for an engine. -/
def engineRead (v : View) (cap : Q) (va n : Nat) (pages : Pages) : Act (Pages × (Nat ⊕ List Byte)) := do
  let (pages, l) ← placesOf v cap .load (n / 2 ^ 12 + 2) va n pages
  match l with
  | .inl c => pure (pages, .inl c)
  | .inr l => pure (pages, ← readPlaces v l)

/-- Write bytes at a virtual address for an engine: all of them, or none and the cause. -/
def engineWrite (v : View) (cap : Q) (va : Nat) (data : List Byte) (pages : Pages) : Act (Pages × Option Nat) := do
  let (pages, l) ← placesOf v cap .store (data.length / 2 ^ 12 + 2) va data.length pages
  match l with
  | .inl c => pure (pages, some c)
  | .inr l =>
    writePlaces v data l
    pure (pages, none)

/-- The region checks of R17 for an engine's range of `n` bytes at `a`. -/
def State.engineRegion (s : State) (v : View) (a n : Nat) : Option Nat :=
  let last := a % 2 ^ 68 + Nat.max n 1
  match regionOf a with
  | 0xC => if last ≤ 2 ^ 22 then none else some 0x120
  | 0xD => if last ≤ 2 ^ 18 then none else some 0x120
  | 0xE =>
    if remoteLayout a = false ∨ (if fld a 53 2 = 0 then 2 ^ 18 else 2 ^ 22) < fld a 0 22 + n then some 0x120
    else if s.inSubmesh v.tenant (remoteCore a) then none
    else some 0x122
  | 0xF => some (if v.level = .user then 0x121 else 0x120)
  | _ => none

/-- The check of a capability element over a range: R60 steps 3 and 4, and the region checks (R160). -/
def State.checkRange (s : State) (v : View) (c : Reg) (perm : Perm) (n : Nat) : Option Nat :=
  let a := addrOf c.bits
  match capFault c (perm :: regionPerms a) a n with
  | some e => some e
  | none => s.engineRegion v a n

/-- The first cause of a list of checks. -/
def firstCause (l : List (Option Nat)) : Option Nat := l.findSome? id

/-! ### Extents (R307, R366) -/

/-- EXTBASE and EXTCNT of this core (Table 18.3). -/
def State.extentTable (s : State) : Nat := (s.sysReg (s.controlBlock 0x28)).toNat
def State.extentCount (s : State) : Nat := (s.sysReg (s.controlBlock 0x30)).toNat

/-- The table lies in device memory below HVTOP (R366). -/
def State.extentTableValid (s : State) : Bool :=
  s.extentTable + 32 * s.extentCount ≤ s.module.hvtop * 2 ^ 30

/-- The entry of a handle, read at its home under key identifier 1, where the host writes it; none where it does not
open. -/
def extentEntry (handle : Nat) : Act (Option Nat) := fun s =>
  let pa := s.extentTable + 32 * handle
  let s := (s.writeBack (pa / 32)).unsnoop pa 32 false
  if s.opensAll 1#10 pa 32 then .ok (some (ofBytes (s.bytes pa 32))) s else .ok none s

/-- An extent element: handle, generation, offset. -/
def extHandle (x : Q) : Nat := bits x 0 32
def extGen (x : Q) : Nat := bits x 32 16
def extOffset (x : Q) : Nat := bits x 48 64

/-- The location of byte `off` of an extent. -/
def extentLoc (e off : Nat) : Nat :=
  let a := fld e 128 64 + off
  if fld e 32 4 = 1 then storageLoc a else hostBase + a

/-- The check of an XCOPY at issue: the refusing cause. Bits [127:112] of the extent element, which must be zero, refuse the
command with cause 0x133 where they are not. DESIGN CHOICE (log entry 67). -/
def extentRefusal (x : Q) (toDevice : Bool) (n : Nat) : Act (Option Nat) := do
  let s ← get
  if s.extentTableValid = false ∨ s.extentCount ≤ extHandle x ∨ bits x 112 16 ≠ 0 then pure (some 0x133)
  else
    match ← extentEntry (extHandle x) with
    | none => pure (some 0x133)
    | some e =>
      if fld e 0 1 = 0 ∨ fld e (if toDevice then 1 else 2) 1 = 0 ∨ fld e 192 64 < extOffset x + n then pure (some 0x133)
      else if fld e 48 16 ≠ extGen x then pure (some 0x131)
      else pure none

/-- The entry as it is read again before a sector at `off` of `n` bytes: none stops the engine with cause 0x132. -/
def extentAgain (x : Q) (off n : Nat) : Act (Option Nat) := do
  match ← extentEntry (extHandle x) with
  | none => pure none
  | some e =>
    pure (if fld e 0 1 = 0 ∨ fld e 48 16 ≠ extGen x ∨ fld e 192 64 < extOffset x + off + n then none else some e)

/-- Read or write an extent; cause 0x380 where the host is not reached (R354). -/
def extentReach (e : Nat) : Act (Option Nat) := do
  let s ← get
  if fld e 32 4 = 1 then pure none
  else
    let fails := Config.hostFails s.fresh
    modify State.tick
    pure (if fails || !s.module.linkUp then some 0x380 else none)

/-! ### A command unit by unit (R160, R304) -/

/-- What a command moves. `unitLen` is the length of unit `u`. -/
structure Job where
  units   : Nat
  unitLen : Nat → Nat
  /-- rows count as 1, sectors by their bytes -/
  rows    : Bool
  index   : Option Reg := none
  source  : Option Reg := none
  pattern : Option Q := none
  dest    : Option Reg := none
  /-- the extent, and whether it is the source -/
  extent  : Option (Q × Bool) := none
  /-- the table is the destination (SCATTER) -/
  scatter : Bool := false
  ring    : Option (Fin 16) := none

/-- The number of bytes before unit `u`. -/
def Job.before (j : Job) (u : Nat) : Nat := if j.rows then u * j.unitLen 0 else 256 * u

/-- An offset as a record counts it: rows, or bytes. -/
def Job.offset (j : Job) (u : Nat) : Nat := if j.rows then u else 256 * u

/-- The causes that leave a sector missing (R304). -/
def missingCause (c : Nat) : Bool :=
  [0x110, 0x111, 0x112, 0x113, 0x11C, 0x130, 0x182, 0x380, 0x38A].contains c

/-- What one unit comes to: its bytes, or the cause, the side (1 the destination) and the address. -/
abbrev Moved := (Nat × Nat × Nat) ⊕ List Byte

/-- The row that the index of unit `u` names. -/
def indexOf (v : View) (j : Job) (u : Nat) (pages : Pages) : Act (Pages × (Nat ⊕ Nat)) := do
  match j.index with
  | none => pure (pages, .inr u)
  | some c =>
    let (pages, r) ← engineRead v c.bits (addrOf c.bits + 4 * u) 4 pages
    pure (pages, r.map id ofBytes)

/-- The address of a row of a table, or the cause where the row does not lie in the table. -/
def State.rowAddr (s : State) (v : View) (c : Reg) (perm : Perm) (row n : Nat) : Nat ⊕ Nat :=
  let a := addrOf c.bits + row * n
  match capFault c (perm :: regionPerms a) a n with
  | some e => .inl e
  | none =>
    match s.engineRegion v a n with
    | some e => .inl e
    | none => .inr a

/-- Read what unit `u` moves. `row` is the row that its index names. -/
def readUnit (v : View) (j : Job) (u row : Nat) (pages : Pages) : Act (Pages × Moved) := do
  let n := j.unitLen u
  match j.pattern, j.extent, j.source with
  | some p, _, _ =>
    let a := match j.dest with
      | some c => addrOf c.bits + j.before u
      | none => 0
    pure (pages, .inr ((upFrom a n).map fun i => BitVec.ofNat 8 (bits p (8 * (i % 16)) 8)))
  | none, some (x, true), _ =>
    match ← extentAgain x (j.before u) n with
    | none => pure (pages, .inl (0x132, 0, extOffset x + j.before u))
    | some e =>
      match ← extentReach e with
      | some c => pure (pages, .inl (c, 0, extOffset x + j.before u))
      | none => pure (pages, .inr ((← get).bytes (extentLoc e (extOffset x + j.before u)) n))
  | none, _, some c =>
    let s ← get
    let at_ : Nat ⊕ Nat :=
      if j.index.isSome && !j.scatter then s.rowAddr v c .load row n else .inr (addrOf c.bits + j.before u)
    match at_ with
    | .inl e => pure (pages, .inl (e, 0, addrOf c.bits + row * n))
    | .inr a =>
      let (pages, r) ← engineRead v c.bits a n pages
      pure (pages, r.map (fun e => (e, 0, a)) id)
  | _, _, _ => pure (pages, .inr [])

/-- A write of places may be performed after the command is reported done: it goes to device memory alone. -/
def mayBeLate (l : List (Place × Nat)) : Bool := l.all fun p => spaceOf p.1.loc == .hbm && !p.1.direct && !p.1.host

/-- The bytes of places as they are written later. -/
def lateOf (data : List Byte) : List (Place × Nat) → List (Nat × BitVec 10 × List Byte)
  | [] => []
  | (p, n) :: rest => (p.loc, p.key, data.take n) :: lateOf (data.drop n) rest

/-- What the write of a unit comes to: the cause, side and address that keep it from its destination, or what of it is still
to be performed. -/
abbrev Wrote := (Nat × Nat × Nat) ⊕ List (Nat × BitVec 10 × List Byte)

/-- Write a unit to its destination, where that is no ring. What the last unit of a command writes may be performed after the
command is reported done (R171, Table 11.7). DESIGN CHOICE (log entry 72). -/
def writeUnit (v : View) (j : Job) (u row : Nat) (data : List Byte) (last : Bool) (pages : Pages) : Act (Pages × Wrote) := do
  match j.extent, j.dest with
  | some (x, false), _ =>
    match ← extentAgain x (j.before u) data.length with
    | none => pure (pages, .inl (0x132, 1, extOffset x + j.before u))
    | some e =>
      match ← extentReach e with
      | some c => pure (pages, .inl (c, 1, extOffset x + j.before u))
      | none =>
        let loc := extentLoc e (extOffset x + j.before u)
        arriveAt loc data.length
        modify fun s => s.poke loc data false
        pure (pages, .inr [])
  | _, some c =>
    let s ← get
    let at_ : Nat ⊕ Nat :=
      if j.scatter then s.rowAddr v c .store row data.length else .inr (addrOf c.bits + j.before u)
    match at_ with
    | .inl e => pure (pages, .inl (e, 1, addrOf c.bits + row * data.length))
    | .inr a =>
      let (pages, l) ← placesOf v c.bits .store (data.length / 2 ^ 12 + 2) a data.length pages
      match l with
      | .inl e => pure (pages, .inl (e, 1, a))
      | .inr l =>
        if last && mayBeLate l then
          let late := Config.writesLate (← get).fresh
          modify State.tick
          if late then return (pages, .inr (lateOf data l))
        writePlaces v data l
        pure (pages, .inr [])
  | _, none => pure (pages, .inr [])

/-- A unit that is missing noted. -/
def Progress.missed (p : Progress) (u cause kind va : Nat) : Progress :=
  match p.miss with
  | none => { p with miss := some u, map := 1, cause := cause, kind := kind, va := va }
  | some m => { p with map := if u - m < 64 then p.map + 2 ^ (u - m) else p.map }

/-- How the performance of a command stands. -/
inductive Standing2 where
  | finished
  /-- the engine waits for a free slot of the ring -/
  | waiting
  /-- the engine waits for what another event brings, and tries the unit again -/
  | held
  /-- the engine stops at a unit, with a cause where no missing unit is the reason -/
  | stopped (cause : Nat) (kind va : Nat)

/-- One slot of a ring completed: FILLED rises (R160). -/
def State.completeSlot (s : State) (h : Fin 16) : State :=
  ((s.setHandle h { s.handle h with avail := (s.handle h).avail + 1 }).refetch h).checkChannels

/-- The bytes of a fill at addresses from `a`. -/
def Job.dataAt (j : Job) (a : Nat) (data : List Byte) : List Byte :=
  match j.pattern with
  | some p => (upFrom a data.length).map fun i => BitVec.ofNat 8 (bits p (8 * (i % 16)) 8)
  | none => data

/-- Slots of a ring that uncommitted sheaves have passed back to an engine: it fills them once they commit (R164). -/
def State.heldCredits (s : State) (h : Fin 16) : Nat :=
  (slotIds.map fun k => ((s.slot k).sheaf.held.map fun x =>
    match x with
    | .credit g n none => if g = h then n else 0
    | _ => 0).sum).sum

/-- A sheaf that has not committed has initialised the handle anew: its ring is filled once it commits (R164). -/
def State.resetting (s : State) (h : Fin 16) : Bool :=
  slotIds.any fun k => (s.slot k).sheaf.undo.any fun u =>
    match u with
    | .initialised g _ => g == h
    | _ => false

/-- Write a part of the unit in `buf` into the ring slot in progress, if one is free. -/
def ringPart (v : View) (j : Job) (c : Reg) (h : Fin 16) (p : Progress) : Act (Option Progress) := do
  let x := (← get).handle h
  if (← get).resetting h then stall (.vacant h 0)
  if x.count ≤ x.avail + (← get).heldCredits h then pure none
  else
    let size := 2 ^ x.slotlog
    let m := Nat.min p.buf.length (size - p.passed % size)
    let a := addrOf x.ring.bits + (x.pos + x.avail) % x.count * size + p.passed % size
    if p.hole = false then
      let _ ← engineWrite v c.bits a (j.dataAt a (p.buf.take m)) []
    if (p.passed + m) % size = 0 then modify fun s => s.completeSlot h
    pure (some { p with passed := p.passed + m, buf := p.buf.drop m })

/-- Count a unit as written. -/
def Progress.wrote (p : Progress) (j : Job) (u : Nat) : Progress :=
  { p with unit := u + 1, done := p.done + (if j.rows then 1 else j.unitLen u) }

/-- One part of a unit into the ring, or one unit read and written: how the command goes on, or how it stands. -/
def performUnit (v : View) (j : Job) (p : Progress) : Act (Progress ⊕ (Progress × Standing2)) := do
  match j.ring, j.dest, p.buf with
  | some h, some c, _ :: _ =>
    match ← ringPart v j c h p with
    | none => pure (.inr (p, .waiting))
    | some p => pure (.inl p)
  | ring, _, _ =>
    let u := p.unit
    if j.units ≤ u then
      match ring with
      | some h =>
        if p.passed % 2 ^ ((← get).handle h).slotlog ≠ 0 then modify fun s => s.completeSlot h
      | none => pure ()
      pure (.inr (p, .finished))
    else if (match p.miss with | some m => decide (m + 64 ≤ u) | none => false) then pure (.inr (p, .stopped 0 0 0))
    else
      let (pages, row) ← indexOf v j u p.pages
      let (pages, moved) ← match row with
        | .inl e => pure (pages, Sum.inl (e, 0, (j.index.map fun c => addrOf c.bits + 4 * u).getD 0))
        | .inr row => readUnit v j u row pages
      let p := { p with pages := pages }
      match moved with
      | .inl (e, kind, va) =>
        if missingCause e then
          let p := { p.missed u e kind va with unit := u + 1 }
          pure (.inl (if ring.isSome then { p with buf := List.replicate (j.unitLen u) 0#8, hole := true } else p))
        else pure (.inr (p, .stopped e kind va))
      | .inr data =>
        match ring with
        | some _ => pure (.inl ({ p with buf := data, hole := false }.wrote j u))
        | none =>
          let r := match row with
            | .inr r => r
            | .inl _ => 0
          let (pages, wrote) ← writeUnit v j u r data (p.miss.isNone && j.units == u + 1) p.pages
          let p := { p with pages := pages }
          match wrote with
          | .inr late =>
            let p := { p.wrote j u with late := late }
            pure (if late = [] then .inl p else .inr (p, .finished))
          | .inl (e, kind, va) =>
            if missingCause e then pure (.inl { p.missed u e kind va with unit := u + 1 })
            else pure (.inr (p, .stopped e kind va))

/-- Perform units in ascending order, as far as they go; one that must wait is left whole to be tried again. -/
def performUnits (v : View) (j : Job) : Nat → Progress → Act (Progress × Standing2)
  | 0, p => pure (p, .finished)
  | fuel + 1, p => fun s =>
    match performUnit v j p s with
    | .ok (.inl p) t => performUnits v j fuel p t
    | .ok (.inr r) t => .ok r t
    | .error (.wait _) t => .ok (p, .held) (s.keep t)
    | .error e t => .error e t

/-! ### The commands -/

/-- A command's elements after its header. -/
def Command.elem (c : Command) (i : Nat) : Reg := c.elems.getD i Reg.null

/-- The job of a command of e0 or e2. -/
def Command.job (c : Command) : Job :=
  let h := c.header
  let n := bits h 0 64
  let rows := bits h 32 32
  let row := bits h 0 32
  let ring := if headerChv h then some (Fin.ofNat 16 (bits h 92 4)) else none
  let sectors : Job := { units := (n + 255) / 256, unitLen := fun u => Nat.min 256 (n - 256 * u), rows := false, ring := ring }
  let byRow : Job := { units := rows, unitLen := fun _ => row, rows := true, ring := ring }
  match headerOpc h with
  | 0x01 => { sectors with source := some (c.elem 1), dest := some (c.elem 2) }
  | 0x02 => { sectors with dest := some (c.elem 1), pattern := some (c.elem 2).bits }
  | 0x03 =>
    if h.getLsbD 64 then { sectors with extent := some ((c.elem 1).bits, false), source := some (c.elem 2) }
    else { sectors with extent := some ((c.elem 1).bits, true), dest := some (c.elem 2) }
  | 0x20 => { byRow with index := some (c.elem 1), source := some (c.elem 2), dest := some (c.elem 3) }
  | _ => { byRow with index := some (c.elem 1), source := some (c.elem 2), dest := some (c.elem 3), scatter := true }

/-- The whole length of a job in bytes. -/
def Job.total (j : Job) (h : Q) : Nat := if j.rows then j.units * j.unitLen 0 else bits h 0 64

/-- A ring that a CHV command may fill: of a consumer whose peer is this engine, named by the destination (R160). No command
drains the ring of a producer handle with ENG 1 (R155 names none). DESIGN CHOICE (log entry 67). -/
def State.ringFits (s : State) (j : Job) (f : Fifo) : Bool :=
  match j.ring, j.dest with
  | some h, some c =>
    let x := s.handle h
    x.init && !x.producer && x.engine && x.fifo == fifoNumber f && addrOf x.ring.bits == addrOf c.bits
  | some _, none => false
  | none, _ => true

/-- The checks at a command's start (R160, R307): the cause that refuses it. With CHV the destination is checked over the
whole ring. DESIGN CHOICE (log entry 67). -/
def startRefusal (v : View) (c : Command) (f : Fifo) : Act (Option Nat) := do
  let s ← get
  let j := c.job
  let n := j.total c.header
  let destLen := match j.ring with
    | some h => 2 ^ ((s.handle h).slotlog + (s.handle h).countlog)
    | none => n
  if s.ringFits j f = false then pure (some 0x148)
  else
    let checks := [j.index.bind fun x => s.checkRange v x .load (4 * j.units),
      j.source.bind fun x => s.checkRange v x .load (if j.index.isSome && !j.scatter then 0 else n),
      j.dest.bind fun x => s.checkRange v x .store (if j.scatter then 0 else destLen)]
    match firstCause checks, j.extent with
    | some e, _ => pure (some e)
    | none, some (x, toDevice) => extentRefusal x toDevice n
    | none, none => pure none

/-- The record of a command with missing units, or one that stopped (R304, R305). -/
def State.commandRecord (s : State) (k : SlotId) (c : Command) (j : Job) (p : Progress) (stop cause kind va : Nat) : State :=
  let (gen, handle) := match j.extent with
    | some (x, _) => (extGen x, extHandle x)
    | none => (0, 0)
  s.record
    { kind := if p.miss.isSome then p.kind else kind
      map := p.map, stopoff := stop, missoff := (p.miss.map j.offset).getD stop, done := p.done
      gen := gen, handle := handle, tag := bits c.header 96 16, origin := s.core.id, slot := k.val, source := 1
      cause := if p.miss.isSome then p.cause else cause
      va := if p.miss.isSome then p.va else va }

/-- How far the command that an engine performs has come. -/
def State.setProgress (s : State) (k : SlotId) (f : Fifo) (c : Command) (p : Progress) : State :=
  s.modSlot k fun x =>
    let e := x.engine f
    x.setEngine f { e with taken := { c with progress := p } :: e.taken.drop 1 }

/-- A command as it stands: it waits, or is reported done, at its end or where it stops early. A CHV command that stops early
leaves the ring slot in progress uncompleted. DESIGN CHOICE (log entry 67). -/
def State.endCommand (s : State) (k : SlotId) (f : Fifo) (c : Command) (p : Progress) : Standing2 → State
  | .waiting => s.setProgress k f c p
  | .held => (s.setProgress k f c p).scheduleCommand k f c
  | .finished =>
    let j := c.job
    if p.late ≠ [] then ((s.setProgress k f c p).report k f c { value := p.done }).scheduleCommand k f c
    else if p.miss.isNone then s.answer k f { value := p.done }
    else
      (s.commandRecord k c j p (if j.rows then j.units else bits c.header 0 64) 0 0 0).answer k f { status := 1, cause := p.cause, value := p.done }
  | .stopped cause kind va =>
    let j := c.job
    (s.commandRecord k c j p (j.offset p.unit) cause kind va).answer k f
      { status := 1, cause := if p.miss.isSome then p.cause else cause, value := p.done }

/-- Perform a command of e0 or e2 as far as it goes. -/
def State.runCommand (s : State) (k : SlotId) (f : Fifo) (c : Command) : State :=
  let v := c.view
  let j := c.job
  let act : Act (Option Nat × Progress × Standing2) := do
    let refused ← if c.progress.begun then pure none else startRefusal v c f
    match refused with
    | some e => pure (some e, c.progress, .finished)
    | none =>
      let (p, st) ← performUnits v j (j.total c.header + 2 * j.units + 2) { c.progress with begun := true }
      pure (none, p, st)
  match act s with
  | .ok (some e, _, _) t => t.answer k f (.refuse e)
  | .ok (none, p, st) t => t.endCommand k f c p st
  | .error _ t => (s.keep t).scheduleCommand k f c

/-- Perform a command of e0 or e2, or what it has reported done already. -/
def State.performCommand (s : State) (k : SlotId) (f : Fifo) (c : Command) : State :=
  if c.progress.late = [] then s.runCommand k f c else (s.settleLate k f).getD (s.scheduleCommand k f c)

/-- A solo sheaf, an ownership flip or a re-keying barrier holds the engines back (R178, R365, R381). DEDUCED (log
entry 12). -/
def State.enginesWait (s : State) : Bool :=
  (slotIds.any fun k => (s.slot k).sheaf.solo) || s.module.flip.isSome || s.module.barrier

/-- The sequence that a command of the quern is for (R320). -/
def Command.quernSeq (c : Command) : Nat := bits c.header 0 8

/-- A command of the quern for the same sequence was taken before and is still to be performed (R321). -/
def State.behindAnother (s : State) (f : Fifo) (c : Command) : Bool :=
  f == .e1 && slotIds.any fun k => ((s.slot k).engine f).taken.any fun x => decide (x.stamp < c.stamp) && x.quernSeq == c.quernSeq

/-- The event of an engine command: it acts on the oldest command of the slot, where that is of this code. -/
def State.commandStep (s : State) (f : Fifo) (what : Instr) (act : State → SlotId → Command → State) : State :=
  match s.event with
  | .slot k =>
    match s.taken k f with
    | some c =>
      if commandEvent f (headerOpc c.header) ≠ what then s
      else if s.enginesWait || s.behindAnother f c then s.schedule what (.slot k)
      else act s k c
    | none => s
  | _ => s

def execCopy (s : State) := happen (s.commandStep .e0 .copy fun s k c => s.performCommand k .e0 c)
def execFill (s : State) := happen (s.commandStep .e0 .fill fun s k c => s.performCommand k .e0 c)
def execXcopy (s : State) := happen (s.commandStep .e0 .xcopy fun s k c => s.performCommand k .e0 c)
def execGather (s : State) := happen (s.commandStep .e2 .gather fun s k c => s.performCommand k .e2 c)
def execScatter (s : State) := happen (s.commandStep .e2 .scatter fun s k c => s.performCommand k .e2 c)

end Sys2Proof.Machine
end

