-- ==== Sys2Proof/Machine/System.lean ====
section
/-! DEFINITION. Registers of system space: which exist, what a load reads, what a store does (R298, R402, R226, R230,
R339, R353, R378, R391), and the small operations on slots and units that they set off. -/

namespace Sys2Proof.Machine

/-! ### The parts of an address (Table 18.4) -/

def sysDie (a : Nat) : Nat := fld a 65 3
def sysCluster (a : Nat) : Nat := fld a 59 6
def sysCore (a : Nat) : Nat := fld a 55 4
def sysBlock (a : Nat) : Nat := fld a 48 7
def sysOffset (a : Nat) : Nat := fld a 0 48

/-- An address names a register of a block. -/
def systemKnown (a : Nat) : Bool :=
  let o := sysOffset a
  let alone := sysCluster a == 0 && sysCore a == 0
  let zero := sysDie a == 0 && alone
  o % 8 == 0 &&
  match sysBlock a with
  | 0 => decide (o ≤ 0x30)
  | 1 => sysCore a == 0 && decide (o ≤ 0x80)
  | 2 => alone && decide (o < 64 * 4096)
  | 3 => alone && decide (o ≤ 0x10)
  | 4 => alone && (decide (o < 512 * 256) || o == 0x20000 || o == 0x20008)
  | 5 => alone && decide (64 ≤ o) && decide (o < 64 * 1024)
  | 6 => alone && (decide (o < 8 * 4096) || (decide (0x8000 ≤ o) && decide (o ≤ 0x8010)))
  | 7 => zero && (decide (o < 0x8800) || (decide (0x9000 ≤ o) && decide (o ≤ 0xA018)))
  | 8 => zero && decide (o ≤ 0x18)
  | 9 => alone && ((sysDie a == 0 && decide (o ≤ 0x10)) || (decide (0x20 ≤ o) && decide (o ≤ 0x30)))
  | 10 => zero && decide (o < 8 * 4096)
  | _ => false

/-- The register of this core's own control block at an offset. -/
def State.isOwnBlock (s : State) (a : Nat) : Bool :=
  sysBlock a == 0 && a == s.controlBlock (sysOffset a)

/-- The bits of a register that a store writes where nothing more is stated; the others read 0. DESIGN CHOICE (log
entry 32). -/
def writableBits (a : Nat) : Nat :=
  let o := sysOffset a
  match sysBlock a with
  | 0 =>
    match o with
    | 0x20 => (2 ^ 44 - 1) * 2 ^ 12 + 1
    | 0x28 => (2 ^ 51 - 1) * 2 ^ 5
    | 0x30 => 2 ^ 16 - 1
    | _ => 0
  | 1 => if o = 0 then 3 else 0x1F * 2 ^ 40 + 0x1F * 2 ^ 32 + 0x1FF * 2 ^ 16 + 0x1FF
  | 7 =>
    if o < 0x8000 then 15
    else if o < 0x8800 then (if o % 16 = 0 then (2 ^ 42 - 1) * 2 ^ 12 + 31 else (2 ^ 42 - 1) * 2 ^ 12)
    else (2 ^ 32 - 1) * 2 ^ 32 + (2 ^ 13 - 1) * 2 ^ 16 + (2 ^ 8 - 1) * 2 ^ 8 + 1
  | 10 => 2 ^ 19 - 1
  | _ => 0

/-! ### What a load reads -/

/-- FREE of CSTATE (Table 18.3). -/
def State.freeMask (s : State) : Nat :=
  (slotIds.map fun k => if (s.slot k).isFree then 2 ^ k.val else 0).sum

def CoreMode.code : CoreMode → Nat
  | .running | .halting => 0
  | .halted => 1
  | .held => 2

/-- CSTATE of another core: as at reset until the module is started, and then whatever that core does. DESIGN CHOICE (log
entry 41). -/
def State.otherCore (s : State) (a : Nat) : BitVec 64 :=
  let v := (Config.otherState (s.fresh * 2 ^ 72 + a)).toNat
  if s.module.phase = .started then BitVec.ofNat 64 (fld v 2 4 * 4 + v % 4 % 3) else 0x3C#64

/-- The die's thermal state: its own, or what the events of another have said (R396). -/
def State.throttledDie (s : State) (d : Nat) : Bool := if d = s.dieNo then s.die.throttle else s.module.throttled.contains d

/-- A slot stands in the power-leave wait (R398). -/
def State.waitsLeave (s : State) (k : SlotId) : Bool :=
  match (s.ctx k).wait with
  | some ⟨.leave _, _⟩ => true
  | _ => (s.ctx k).again.isSome

/-- Slots of this die in the power-leave wait: one whose handler runs is not in it. -/
def State.waitingLeave (s : State) : Nat := (s.die.asks.filter fun a => a.other.isSome || s.waitsLeave a.slot).length

/-- The headland registers of a die (Table 28.2). The counts of another die are 0 until the module is started, no core having
issued, and free from then on. DESIGN CHOICE (log entry 41). -/
def State.headlandValue (s : State) (d o : Nat) : BitVec 64 :=
  let other := if s.module.phase = .started then Config.otherLeave (s.fresh * 2 ^ 72 + 64 * d + o) else 0#64
  match o with
  | 0x20 => if s.throttledDie d then 0#64 else BitVec.ofNat 64 (1024 * s.module.pcap / 9000)
  | 0x28 => if d = s.dieNo then BitVec.ofNat 64 s.die.used else other &&& 0x7FF#64
  | _ =>
    BitVec.ofNat 64 ((if d = s.dieNo then s.waitingLeave else other.toNat % 2 ^ 16) * 2 ^ 16 + (s.throttledDie d).toNat)

/-- What a load from a register reads. DESIGN CHOICE (log entry 32). -/
def State.systemValue (s : State) (a : Nat) : BitVec 64 :=
  let o := sysOffset a
  match sysBlock a with
  | 0 =>
    match o with
    | 0x00 => if s.isOwnBlock a then BitVec.ofNat 64 (s.freeMask * 4 + s.core.mode.code) else s.otherCore a
    | 0x08 => Config.writeOnly a
    | 0x10 => Config.writeOnly a
    | 0x18 =>
      let w := Config.writeOnly a &&& BitVec.ofNat 64 (2 ^ 63 - 1)
      if s.isOwnBlock a && s.core.rerr then w ||| BitVec.ofNat 64 (2 ^ 63) else w
    | _ => s.sysReg a
  | 7 =>
    match o with
    | 0xA000 => Config.writeOnly a
    | 0xA008 => BitVec.ofNat 64 (s.module.ownErr.toNat * 2 + s.module.flip.isSome.toNat)
    | 0xA010 => BitVec.ofNat 64 (s.module.hvtop % 2 ^ 11 * 2 ^ 30)
    | 0xA018 => s.module.hdmbase
    | _ => s.sysReg a
  | 8 => if o = 0x18 then Config.writeOnly a else s.sysReg a
  | 9 =>
    match o with
    | 0x08 => BitVec.ofNat 64 s.module.pcap
    | 0x10 => BitVec.ofNat 64 s.module.fusecap
    | 0x20 | 0x28 | 0x30 => s.headlandValue (sysDie a) o
    | _ => s.sysReg a
  | 10 => s.submesh (BitVec.ofNat 12 (o / 8))
  | _ => s.sysReg a

/-! ### Slots freed, resumed and interrupted -/

/-- INTRAP cleared. -/
def TrapRegs.leave (r : TrapRegs) : TrapRegs := { r with stat := r.stat &&& ~~~4#22 }

/-- A slot that holds no firing and no handler; its registers keep their values. -/
def Ctx.freed (c : Ctx) : Ctx :=
  { c with
    level := .user, firing := none, handler := false, wait := none, run := none, again := none, guarded := none, parked := []
    entering := none, drill := none, sx := c.sx.leave, mx := c.mx.leave }

/-- A pending stage change takes effect (R12). -/
def Core.takeStage (c : Core) : Core :=
  match c.stgNext with
  | some g => { c with stg := g, stgNext := none }
  | none => c

/-- The core holds a firing. -/
def State.anyFiring (s : State) : Bool := slotIds.any fun k => (s.slot k).ctx.firing.isSome

/-- A task boundary while the core holds no firing is immediate (R231). -/
def State.settleStage (s : State) : State := if s.anyFiring then s else s.modCore Core.takeStage

/-- Slot `k` is free: its drill buffer released, its pending causes and a handoff of its own dropped, the dispatcher looks for
a task. This is a task boundary, whatever the other slots hold. DEDUCED (log entry 45). -/
def State.freeSlot (s : State) (k : SlotId) : State :=
  let s := s.releaseDrill k
  let s := s.modSlot k fun x =>
    { x with ctx := x.ctx.freed, preempt := false, resume := false, watchdog := false, woken := false }
  (s.modCore fun c => { c.takeStage with handoff := c.handoff.filter fun h => h.slot != k }).checkChannels.scheduleOnce .dispatch

/-- A slot standing in `idle` is woken (R285). -/
def State.wake (s : State) (k : SlotId) : State :=
  match (s.ctx k).wait with
  | some ⟨.idle _ _, _⟩ => (s.modSlot k fun x => { x with woken := true }).scheduleOnce .idleEnd (.slot k)
  | _ => s

/-- Every idle slot is woken by an arrival (R285). -/
def State.wakeAll (s : State) : State := slotIds.foldl State.wake s

/-- Cause 0x00C requested on the slots of a mask that hold a firing (R296). -/
def State.requestPreempt (s : State) (mask : Nat) : State :=
  slotIds.foldl (fun s k =>
    if mask / 2 ^ k.val % 2 = 1 ∧ (s.slot k).ctx.firing.isSome = true then
      (s.modSlot k fun x => { x with preempt := true }).wake k
    else s) s

/-- RESUME (R296): a free slot begins with cause 0x00D; a busy one sets RERR. So does a slot at or above the kernel's slot
count, which holds no firing and is free. DESIGN CHOICE (log entry 44). -/
def State.requestResume (s : State) (slot frame : Nat) : State :=
  let k : SlotId := Fin.ofNat 4 slot
  if (s.slot k).isFree && !(s.slot k).starting then
    (s.modSlot k fun x =>
      { x with resume := true, frame := BitVec.ofNat 16 frame, ctx := { x.ctx with handler := true } }).modCore fun c =>
        { c with rerr := false }
  else s.modCore fun c => { c with rerr := true }

/-- RELEASE (Table 18.3): the held state ends with every slot free, keeping kernel, LM and slice; a slot loses its
uncommitted sheaf with its firing. -/
def State.releaseHeldState (s : State) : State :=
  if s.core.mode = .held then
    let s := slotIds.foldl (fun s k => (s.squash k).freeSlot k) s
    let s := slotIds.foldl (fun s k => s.modSheaf k fun _ => Sheaf.empty) s
    s.modCore fun c => { c with mode := .running, soloAsked := [] }
  else s

/-- HALTEND (R286). -/
def State.endHalt (s : State) : State :=
  if s.core.mode = .halted then (s.modCore fun c => { c with mode := .running }).scheduleOnce .dispatch else s

/-! ### Translations dropped -/

/-- Entries dropped from the TLBs of the core and its cluster (R302, R365). -/
def State.dropTranslations (s : State) (f : TlbEntry → Bool) : State :=
  s.modCore fun c => { c with tlb := c.tlb.filter fun t => !f t }

/-- A cached translation to a 4 KiB physical page. -/
def TlbEntry.reaches (t : TlbEntry) (page : Nat) : Bool :=
  let ppn := ptePpn t.pte.toNat
  ppn ≤ page && page < ppn + 2 ^ (9 * t.level) ||
    (pteContig t.pte.toNat && ppn / 16 == page / 16)

/-! ### Ownership flips (R365) -/

/-- A flip request: begun where it is accepted, with the first steps of Table 24.3; ERR otherwise. -/
def State.requestFlip (s : State) (page : Nat) (toHost : Bool) : State :=
  if s.module.flip.isSome || decide (s.module.hvtop * 2 ^ 18 ≤ page) || s.hostOwns page == toHost then
    s.modModule fun m => { m with ownErr := true }
  else
    let s := s.modModule fun m => { m with ownErr := false, flip := some ⟨page, toHost⟩ }
    let s := s.dropTranslations fun t =>
      if toHost then t.reaches page
      else t.reaches ((hostBase + s.module.hdmbase.toNat) / 2 ^ 12 + page)
    let s := if toHost then (s.arrive (page * 2 ^ 12) (2 ^ 12)).getD s else s
    s.schedule .ownershipFlipComplete

/-! ### Mailboxes, the enclosure, the headland -/

def Inbox.reset : Inbox := ⟨[], 0#32, false, 0#51, false⟩
def Outbox.reset : Outbox := ⟨[], 0#32, false, false⟩

/-- The key of a mailbox of a function in the tables of the module. -/
def boxKey (f m : Nat) : Nat := 64 * f + m

def State.inboxOf (s : State) (f m : Nat) : Inbox := Table.get Inbox.reset s.module.inbox (boxKey f m)
def State.outboxOf (s : State) (f m : Nat) : Outbox := Table.get Outbox.reset s.module.outbox (boxKey f m)

def State.setInbox (s : State) (f m : Nat) (b : Inbox) : State :=
  s.modModule fun x => { x with inbox := Table.set Inbox.reset x.inbox (boxKey f m) b }

def State.setOutbox (s : State) (f m : Nat) (b : Outbox) : State :=
  s.modModule fun x => { x with outbox := Table.set Outbox.reset x.outbox (boxKey f m) b }

/-- Every mailbox of a function emptied; the entries are lost (R353). -/
def State.emptyMailboxes (s : State) (f : Nat) : State :=
  (upFrom 0 64).foldl (fun s m =>
    let i := s.inboxOf f m
    let o := s.outboxOf f m
    (s.setInbox f m { i with entries := [] }).setOutbox f m
      { o with entries := [], headseq := o.headseq + BitVec.ofNat 32 o.entries.length }) s

/-- A function bound to a tenant other than `t`. -/
def State.boundElsewhere (s : State) (t f : Nat) : Bool :=
  s.sys.any fun e =>
    sysBlock e.1 == 7 && decide (sysOffset e.1 < 0x8000) && sysOffset e.1 / 8 != t && fld e.2.toNat 3 1 == 1 && e.2.toNat % 8 == f

/-- A store to TBIND(t) (R353). -/
def State.bindTenant (s : State) (a : Nat) (v : BitVec 64) : State :=
  let t := sysOffset a / 8
  let f := v.toNat % 8
  if fld v.toNat 3 1 = 1 ∧ s.boundElsewhere t f = true then s
  else
    let s := match s.boundFunction (BitVec.ofNat 12 t) with
      | some g => s.emptyMailboxes g
      | none => s
    (s.emptyMailboxes f).setSysReg a (BitVec.ofNat 64 (v.toNat % 16))

/-- The registers of the enclosure (Table 26.4). -/
def encStat : Nat := sysAddr 0 0 0 8 0x00
def encMemb : Nat := sysAddr 0 0 0 8 0x08
def encNext : Nat := sysAddr 0 0 0 8 0x10

/-- Bits of ENCSTAT set or cleared. -/
def State.setStat (s : State) (bit : Nat) (v : Bool) : State :=
  let r := s.sysReg encStat
  let m := BitVec.ofNat 64 (2 ^ bit)
  s.setSysReg encStat (if v then r ||| m else r &&& ~~~m)

def State.selfPeer (s : State) : Nat := fld (s.sysReg encStat).toNat 8 6
def State.formed (s : State) : Bool := (s.sysReg encStat).getLsbD 1

/-- The peers other than this module in a mask. -/
def State.peersIn (s : State) (v : BitVec 64) : List Nat := (upFrom 0 64).filter fun i => v.getLsbD i && i != s.selfPeer

/-! ### Requests and handovers to a peer that fails or leaves (R380, R383) -/

def State.frame (s : State) (n : Nat) : Option Frame := (s.die.frames.find? fun x => x.1 == n).map Prod.snd

def State.handover (s : State) (n : Nat) : Option Handover := (s.module.handovers.find? fun h => h.1 == n).map Prod.snd

def State.setHandover (s : State) (n : Nat) (h : Handover) : State :=
  s.modModule fun m => { m with handovers := (n, h) :: m.handovers.filter fun x => x.1 != n }

/-- The working keys of a frame's enclave are still held. -/
def State.keysHeld (s : State) (n : Nat) : Bool :=
  match (s.frame n).bind Frame.enclave with
  | none => true
  | some (k, e) => s.module.enclaves.any fun x => x.key == k && x.epoch == e

/-- A handover that fails while SENT. -/
def State.failHandover (s : State) (n : Nat) : State :=
  match s.handover n with
  | some h =>
    if h.state = .sent then s.setHandover n { h with state := if s.keysHeld n then .failedKeysHeld else .failedKeysErased } else s
  | none => s

/-- A store to peer memory that fails is recorded (R380, R385). -/
def State.failStore (s : State) (x : PeerStore) : State :=
  s.record { handle := x.peer, origin := s.core.id, slot := x.slot.val, source := 7, cause := 0x38A, va := x.pa }

/-- Outstanding stores to the peers that `p` picks fail. -/
def State.failStores (s : State) (p : Nat → Bool) : State :=
  (s.module.inFlight.filter fun x => p x.peer).foldl State.failStore
    (s.modModule fun m => { m with inFlight := m.inFlight.filter fun x => !p x.peer })

/-- Every request and every handover to a peer that fails or is removed. -/
def State.failPeer (s : State) (i : Nat) : State :=
  (s.module.handovers.filter fun h => h.2.peer.val == i).foldl (fun s h => s.failHandover h.1) (s.failStores (· == i))

/-- The barrier of R381 begins: requests to leaving peers fail, MARK leaves on the links that stay, REMOVE on those that do
not (R386). `leaving` says that the module itself leaves: no other member stays. -/
def State.beginBarrier (s : State) (leaving : Bool) : State :=
  let next := if leaving then 0#64 else s.sysReg encNext
  let peers := s.peersIn (s.sysReg encMemb)
  let s := (s.setStat 2 true).modModule fun m =>
    { m with barrier := true, dissolving := leaving, signals := peers.map fun i => (i, next.getLsbD i) }
  ((peers.filter fun i => !next.getLsbD i).foldl State.failPeer s).schedule .rekeySwitch

/-- REKEY and DISSOLVE of ENCCMD (R381): ignored during a barrier; NEXT must hold SELF, and the keys of the next
generation must be agreed with every other peer in it. -/
def State.enclosureCommand (s : State) (v : Nat) : State :=
  if v ≥ 4 ∨ s.module.barrier = true then s
  else if v / 2 % 2 = 1 then (if s.formed then s.beginBarrier true else s)
  else if v % 2 = 1 then
    (let next := s.sysReg encNext
      let others := next &&& ~~~BitVec.ofNat 64 (2 ^ s.selfPeer)
      let agreed := Config.keysAgreed s.fresh
      if next.getLsbD s.selfPeer && others &&& agreed == others then s.tick.beginBarrier false else s.tick)
  else s

/-- A write of PCAP, within its limits (R392). -/
def State.setCap (s : State) (w : Nat) : State :=
  (s.modModule fun m =>
    let cap := Nat.min m.fusecap (Nat.max 1000 w)
    { m with pcap := cap, settings := { m.settings with pcap := some cap } }).scheduleOnce .headlandGrant

/-- A write of SVC: LEVEL only rises; L1DIE is fixed once LEVEL is 1 or more (R390, Table 28.2). -/
def State.setService (s : State) (a : Nat) (v : Nat) : State :=
  let level := Nat.max s.serviceLevel (v % 4)
  let die := if s.serviceLevel = 0 then v / 4 % 8 else s.l1die
  s.setSysReg a (BitVec.ofNat 64 (level + 4 * die))

/-! ### Key-value descriptors (R339) -/

/-- A store to a register of a descriptor. While BOUND is 1 only the 32-bit words of SHIFT and FLOOR change; BOUND
itself and the bits above V are read only. -/
def State.writeDescriptor (s : State) (a : Nat) (v : BitVec 64) : State :=
  let base := a - sysOffset a % 64
  let w := sysOffset a % 64 / 8
  let old := (s.sysReg a).toNat
  let new := v.toNat
  let kept :=
    if (s.sysReg (base + 40)).getLsbD 44 then
      match w with
      | 4 => new / 2 ^ 32 * 2 ^ 32 + old % 2 ^ 32
      | 5 => old / 2 ^ 32 * 2 ^ 32 + new % 2 ^ 32
      | _ => old
    else
      match w with
      | 5 => new % 2 ^ 44 + fld new 45 1 * 2 ^ 45
      | 6 => 0
      | 7 => 0
      | _ => new
  s.setSysReg a (BitVec.ofNat 64 kept)

/-! ### A store -/

/-- The window registers of a function above its fused window count (R353). -/
def State.unfusedWindow (s : State) (o : Nat) : Bool :=
  decide (0x8000 ≤ o) && decide (o < 0x8800) && decide (s.module.fusedWindows ≤ o % 256 / 16)

/-- A store to a register, masked to the bits that it writes. -/
def State.writePlain (s : State) (a : Nat) (v : BitVec 64) : State :=
  s.setSysReg a (v &&& BitVec.ofNat 64 (writableBits a))

/-- A store to the core control block (Table 18.3); commands act on this core's own. -/
def State.writeControl (s : State) (a : Nat) (v : Nat) : State :=
  let own := s.isOwnBlock a
  match sysOffset a with
  | 0x00 => s
  | 0x08 =>
    if own && decide (v < 4) then
      let s := if v / 2 = 1 then s.releaseHeldState else s
      if v % 2 = 1 then s.endHalt else s
    else s
  | 0x10 => if own && decide (v < 16) then s.requestPreempt v else s
  | 0x18 => if own && fld v 18 45 == 0 then s.requestResume (fld v 16 2) (v % 2 ^ 16) else s
  | _ => s.writePlain a (BitVec.ofNat 64 v)

/-- A store to BLOCK 7 (Table 24.1). -/
def State.writeHostBlock (s : State) (a : Nat) (v : BitVec 64) : State :=
  let o := sysOffset a
  if o < 0x8000 then s.bindTenant a v
  else if o = 0xA000 then s.requestFlip (v.toNat % 2 ^ 63) (v.getLsbD 63)
  else if 0xA000 < o ∨ s.unfusedWindow o = true then s
  else s.writePlain a v

/-- A store to BLOCK 8 from the monitor (Table 26.4). -/
def State.writeEnclosure (s : State) (a : Nat) (v : BitVec 64) : State :=
  match sysOffset a with
  | 0x00 =>
    if s.formed then s
    else s.setSysReg a (BitVec.ofNat 64 ((s.sysReg a).toNat / 2 ^ 14 * 2 ^ 14 + fld v.toNat 8 6 * 2 ^ 8 + (s.sysReg a).toNat % 2 ^ 8))
  | 0x10 => s.setSysReg a v
  | 0x18 => s.enclosureCommand v.toNat
  | _ => s

/-- A store to BLOCK 9 from the monitor (Table 28.2). -/
def State.writeHeadland (s : State) (a : Nat) (v : Nat) : State :=
  match sysOffset a with
  | 0x00 => s.setService a v
  | 0x08 => s.setCap (v % 2 ^ 14)
  | _ => s

/-- SUBMESH(t): a rectangle outside the grid, and a store to SUBMESH(0), are ignored (R226). -/
def State.writeSubmesh (s : State) (a : Nat) (v : BitVec 64) : State :=
  let n := v.toNat
  if sysOffset a = 0 ∨ n ≥ 2 ^ 19 ∨ fld n 0 5 + fld n 9 5 ≥ 32 ∨ fld n 5 4 + fld n 14 4 ≥ 16 then s else s.writePlain a v

/-- What a store of `v` to a register does, made at a level (R298). -/
def State.writeSystem (s : State) (lvl : Level) (a : Nat) (v : BitVec 64) : State :=
  let d := sysDie a
  match sysBlock a with
  | 0 => s.writeControl a v.toNat
  | 1 => s.writePlain a v
  | 3 => if sysOffset a = 0 then s.ringRelease d faultRing v else s
  | 4 => if sysOffset a = 0x20000 then s.ringRelease d supervisorRing v else s
  | 5 => s.writeDescriptor a v
  | 6 => if sysOffset a = 0x8000 then s.ringRelease d releaseRing v else s
  | 7 => s.writeHostBlock a v
  | 8 => if lvl = .monitor then s.writeEnclosure a v else s
  | 9 => if lvl = .monitor then s.writeHeadland a v.toNat else s
  | 10 => s.writeSubmesh a v
  | _ => s

/-! ### Loads and stores of a slot -/

/-- A load from a register as it issues: a value, or cause 0x120 where there is none (R298). -/
def loadSystem (p : Place) (va : Nat) : Act (BitVec 64) := do
  trapIf (!systemKnown p.loc) 0x120 (q va)
  let s ← get
  modify State.tick
  pure (s.systemValue p.loc)

/-- A store to a register is checked as it issues and acts at the commit (R298). -/
def storeSystem (v : View) (p : Place) (va : Nat) (value : BitVec 64) : Act After := do
  trapIf (!systemKnown p.loc) 0x120 (q va)
  pure (.lastThen fun s => .ok .seq (s.writeSystem v.level p.loc value))

end Sys2Proof.Machine
end

