-- ==== Sys2Proof/Machine/Kernels.lean ====
section
/-! DEFINITION. Kernels: headers (R211), gangs (R212), the scrubs of a launch (R214), and the registers with which a
firing starts (R219). -/

namespace Sys2Proof.Machine

/-! ### Headers (Table 14.1) -/

def hdrSlots (h : Nat) : Nat := fld h 8 2 + 1
def hdrHarrow (h : Nat) : Bool := fld h 10 1 == 1
def hdrGang (h : Nat) : Nat := fld h 11 2
def hdrGw (h : Nat) : Nat := fld h 16 5
def hdrGh (h : Nat) : Nat := fld h 21 4
def hdrLmsize (h : Nat) : Nat := fld h 32 32
def hdrClsoff (h : Nat) : Nat := fld h 64 32
def hdrTmoff (h : Nat) : Nat := fld h 96 32
def hdrEntry (h : Nat) : Nat := fld h 128 32
def hdrTenant (h : Nat) : BitVec 12 := BitVec.ofNat 12 (fld h 160 12)

/-- The header is valid (R211); the offsets into LM lie in LM. -/
def kernelHeaderValid (h : Nat) : Bool :=
  fld h 172 340 == 0 && fld h 0 8 == 1 && fld h 13 3 == 0 && hdrGang h != 3 && fld h 25 7 == 0 &&
  (hdrGang h == 2 || (hdrGw h == 0 && hdrGh h == 0)) &&
  hdrLmsize h % 32 == 0 && decide (12288 ≤ hdrLmsize h) && decide (hdrLmsize h ≤ 262144) &&
  hdrClsoff h % 32 == 0 && decide (hdrClsoff h < 2 ^ 18) && hdrTmoff h % 64 == 0 && decide (hdrTmoff h < 2 ^ 18) &&
  hdrEntry h % 2 == 0

/-- The address of a kernel's header: the base of its code capability. -/
def headerAddr (code : Q) : Nat := (capBounds code).1.toNat

/-- The view with which a core reads a header: its own walks, for a tenant. -/
def State.headerView (s : State) (t : BitVec 12) : View where
  level := .supervisor
  tenant := t
  root := s.root
  enabled := s.rootEnabled
  windows := s.core.pwin.toList
  engine := true

/-- The 64 bytes at the base of a code capability, where they are aligned and can be read. -/
def readHeader (v : View) (code : Q) : Act (Option Nat) := do
  let a := headerAddr code
  if malformed code || a % 64 != 0 || regionOf a == 0xF then pure none
  else
    match ← tryAct (place v code .load a 64 0#128) with
    | .inl _ => pure none
    | .inr p =>
      v.askHost p.loc 64 false
      modify fun s => (p.uncopy 64 s).fetchCopies p.loc 64
      let s ← get
      if s.readable p.key p.loc 64 then pure (some (ofBytes ((upFrom p.loc 64).map s.dieByte))) else pure none

/-- A header read outside any slot's instructions: the state that the walk leaves, and the header. -/
def State.headerOf (s : State) (t : BitVec 12) (code : Q) : State × Option Nat :=
  match readHeader (s.headerView t) code s with
  | .ok h u => (u, h)
  | .error _ u => (u, none)

/-! ### Gangs (Table 14.2) -/

/-- The members of a gang in the order of their ranks; none where the shape leaves the grid. -/
def gangMembers (h : Nat) (origin : CoreId) : Option (List Nat) :=
  let o := origin.toNat
  match hdrGang h with
  | 0 => some (upFrom (o / 8 * 8) 8)
  | 1 => some (upFrom (o / 16 * 16) 16)
  | 2 =>
    let w := hdrGw h + 1
    let n := hdrGh h + 1
    if 32 < gridX origin + w ∨ 16 < gridY origin + n then none
    else some (((upFrom 0 (w * n)).map fun j => upFrom (clusterAt (gridX origin + j % w) (gridY origin + j / w)) 16).flatten)
  | _ => none

/-- A gang holds no server core and lies inside its tenant's sub-mesh (R212). -/
def State.gangAllowed (s : State) (t : BitVec 12) (l : List Nat) : Bool :=
  l.all fun m => !s.isServer (BitVec.ofNat 13 m) && s.inSubmesh t (BitVec.ofNat 13 m)

/-- The scope of a kernel's gang is `.dev`: a rectangle that spans dies (Table 14.2). -/
def Kernel.spansDies (k : Kernel) : Bool :=
  k.gang == 2 && !(gridX k.origin / 8 == (gridX k.origin + k.gw) / 8 && gridY k.origin / 8 == (gridY k.origin + k.gh) / 8)

/-- The kernel that a header describes. -/
def kernelOf (code : Q) (h : Nat) (origin : CoreId) (rank members : Nat) : Kernel where
  code := code
  slots := hdrSlots h
  lmsize := hdrLmsize h
  harrow := hdrHarrow h
  gang := hdrGang h
  gw := hdrGw h
  gh := hdrGh h
  tenant := hdrTenant h
  entry := hdrEntry h
  origin := origin
  rank := rank
  members := members

/-! ### Scrubs (R214) -/

/-- Position of this core in its row, which is its slice (R249). -/
def State.sliceNo (s : State) : Fin 8 := Fin.ofNat 8 (coreOf s.core.id)

/-- The accumulators of a slice zeroed. -/
def Harrow.zeroCells (h : Harrow) (p : Fin 8) : Harrow :=
  { h with cells := Table.clear h.cells (4096 * p.val) (4096 * p.val + 4096) }

/-- Both planes of a slice cleared. -/
def Slice.cleared (x : Slice) : Slice := { x with active := Plane.clear, shadow := Plane.clear, load := none, bad := none }

def Harrow.modSlice (h : Harrow) (p : Fin 8) (f : Slice → Slice) : Harrow :=
  { h with slices := h.slices.set p.val (f (h.slices.get p)) p.isLt }

/-- The slice of this core zeroed. -/
def State.scrubSlice (s : State) : State :=
  s.modHarrow fun h => (h.zeroCells s.sliceNo).modSlice s.sliceNo Slice.cleared

/-- The registers of a slot zeroed; what a handler stands in is kept. -/
def Ctx.scrubbed (c : Ctx) : Ctx :=
  { Ctx.reset with
    code := c.code, level := c.level, firing := c.firing, handler := c.handler, wait := c.wait, again := c.again, parked := c.parked
    entering := c.entering, image := c.image }

/-- The queues of an engine emptied; commands that another context left are still answered to it (R295). -/
def Engine.emptied (e : Engine) : Engine := { Engine.reset with taken := e.taken.filter fun c => c.owner.isSome }

def Slot.emptyEngines (x : Slot) : Slot :=
  { x with e0 := x.e0.emptied, e1 := x.e1.emptied, e2 := x.e2.emptied, e3 := x.e3.emptied, e7 := x.e7.emptied }

/-- Registers, queues, ports, handles and layouts of the core zeroed (R214, R377). -/
def State.scrubRegisters (s : State) : State :=
  let s := slotIds.foldl State.commit s
  let s := slotIds.foldl (fun s k => s.modSlot k fun x => { x.emptyEngines with ctx := x.ctx.scrubbed }) s
  s.modCore fun c =>
    { c with
      ports := Vector.replicate 8 Port.free, handles := Vector.replicate 16 Handle.reset, drillOwner := none
      layouts := Vector.replicate 8 0#128 }

/-- The core scrub. -/
def State.scrubCore (s : State) : State :=
  ((s.scrubRegisters.zero (s.lm 0) (s.lm 0 + 2 ^ 18)).scrubSlice).modCore fun c => { c with ring := [], unplaced := [], received := [], armed := [] }

/-- A cluster's CM and stage queues zeroed. -/
def State.zeroCm (s : State) : State :=
  (s.zero (cmLoc s.core.id 0) (cmLoc s.core.id 0 + 2 ^ 22)).modCluster fun c =>
    { c with stages := Vector.replicate 16 ⟨0, 0⟩ }

/-- This core ceases to hold a kernel through another core's launch. -/
def State.dropKernel (s : State) : State :=
  if s.core.kernel.isSome ∧ s.isServer s.core.id = false then
    s.scrubCore.modCore fun c => { c with kernel := none, scrubbing := true }
  else s

/-- The core of this cluster with a number. -/
def State.sibling (s : State) (i : Nat) : CoreId := BitVec.ofNat 13 (s.core.id.toNat / 16 * 16 + i)

def coreIds : List (Fin 16) := [0, 1, 2, 3, 4, 5, 6, 7, 8, 9, 10, 11, 12, 13, 14, 15]

/-- Another core of the cluster with a kernel that its last launch started is busy while its CSTATE shows a slot that is not
free. DESIGN CHOICE (log entry 41). -/
def State.neighbourBusy (s : State) (i : Fin 16) : Bool :=
  (s.cluster.cores.get i).busy && fld (s.otherCore (sysAddr s.dieNo (clusterOf s.core.id) i.val 0 0)).toNat 2 4 != 15

/-- The whole LM of a core zeroed. -/
def State.zeroLm (s : State) (c : CoreId) : State := s.zero (lmLoc c 0) (lmLoc c 0 + 2 ^ 18)

/-- The LM of every other core of the cluster that holds a kernel zeroed, server cores apart (R214). -/
def State.zeroNeighbours (s : State) : State :=
  coreIds.foldl (fun s i =>
    let c := s.sibling i.val
    if (s.cluster.cores.get i).kernel && c != s.core.id && !s.isServer c then s.zeroLm c else s) s

/-- The cluster scrub, for a tenant; `own` says that the launch is of this core. -/
def State.scrubCluster (s : State) (t : BitVec 12) (own : Bool) : State :=
  let s := s.zeroNeighbours.zeroCm.modCluster fun c =>
    { c with tenant := some t, scrubbing := true, cores := c.cores.map fun n => { n with kernel := false } }
  if own then s else s.dropKernel

/-! ### The start of a firing (R219) -/

/-- The code capability of a kernel at an entry offset. -/
def Kernel.codeAt (k : Kernel) (entry : Nat) : Reg := ⟨withAddr k.code (headerAddr k.code + entry), true⟩

/-- The capability to `n` bytes of LM from an offset. -/
def lmCap (perms : List Perm) (off n : Nat) : Reg := makeCap (Perm.mask perms) (0xD * 2 ^ 68 + off) (0xD * 2 ^ 68 + off + n)

/-- What g5 receives. -/
def Firing.operand (f : Firing) : Reg :=
  if f.recv.isSome then lmCap [.load, .store] (entryRec f.entry) f.bytes
  else if f.recorded && entryKind f.entry != 3 then lmCap [.load, .store] (entryRec f.entry) 32
  else Reg.null

/-- The context of a slot in which a firing starts; the registers of `keep` keep their values. -/
def Ctx.start (c : Ctx) (k : Kernel) (server : Bool) (f : Firing) (keep : Nat) : Ctx :=
  let put (c : Ctx) (r : RegIdx) (v : Reg) : Ctx := if keep / 2 ^ r.val % 2 = 1 then c else c.setReg r v
  let c := put c 2 (lmCap [.load, .store, .loadcap, .storecap] 0 k.lmsize)
  let c := put c 3 (Reg.data (wr64 (signed 32 (bits f.entry 64 32))))
  let c := put c 4 (Reg.data (wr64 (signed 32 (bits f.entry 96 32))))
  let c := put c 5 f.operand
  { c with
    firing := some f, handler := false, level := if server then .supervisor else .user
    code := k.codeAt (entryOffset f.entry), wait := none, run := none, again := none, guarded := none, parked := [], entering := none }

/-- The task start acquires from another die (R139, R168, R170): from the core that sent a message or a spawn, from a
`tdec` that changed the counter, from the peers of the handles that a channel task counts. -/
def State.startsFromAfar (s : State) (f : Firing) : Bool :=
  let away (c : CoreId) : Bool := dieOf c != s.dieNo
  if bits f.entry 31 1 = 1 then false
  else
    match entryKind f.entry with
    | 0 => f.far
    | 2 =>
      let r := s.lmNat (entryRec f.entry) 32
      (recIns r ++ recOuts r).any fun x => !(s.handle x.1).engine && away (s.handle x.1).peer
    | _ => away (BitVec.ofNat 13 (bits f.entry 18 13))

/-- FIRING_START (R219): the firing that the dispatcher gave the slot starts, with the acquire of its start, which another
slot's solo sheaf may defer (R178). -/
def State.startFiring (s : State) (k : SlotId) : State :=
  let x := s.slot k
  match x.starting, x.ctx.firing, s.core.kernel with
  | true, some f, some kn =>
    let far := s.startsFromAfar f
    if far && s.acquireWaits none then s.defer ⟨.firingStart, .slot k⟩
    else
      (if far then s.acquire none else s).modSlot k fun x =>
        { x with starting := false, ctx := x.ctx.start kn (s.isServer s.core.id) f 0 }
  | _, _, _ => s

def execFiringStart (s : State) : Host.Outcome State Fault Refusal :=
  match s.event with
  | .slot k => happen (s.startFiring k)
  | _ => happen s

end Sys2Proof.Machine
end

