-- ==== Sys2Proof/Machine/Scheduler.lean ====
section
/-! DEFINITION. The dispatcher (R221), the yoke (R231), barriers (R232), the commit and the solo grant of sheaves (R176,
R178), and the end of a scrub (R214). -/

namespace Sys2Proof.Machine

/-! ### The dispatcher (R221) -/

/-- The ring entry at a place, as LM holds it. -/
def State.placeEntry (s : State) (p : Nat) : Q := q (s.lmNat (tableOffset s.core.rrbase + 16 * p) 16)

/-- A queued task is takeable unless a firing of its record runs (R218). -/
def State.takeable (s : State) (x : Queued) : Bool :=
  !(x.recorded && recRun (s.lmNat (entryRec (s.placeEntry x.place)) 32))

/-- The stage queue of a stage number. -/
def State.stageQueue (s : State) (g : Fin 16) : StageQueue := s.cluster.stages.get g

def State.ownStage (s : State) : Fin 16 := Fin.ofNat 16 s.core.stg.toNat

/-- The location of place `i` of stage queue `g` (R229). -/
def State.stagePlace (s : State) (g : Fin 16) (i : Nat) : Nat := cmLoc s.core.id (0x3F0000 + 4096 * g.val + 16 * (i % 256))

def State.setStageQueue (s : State) (g : Fin 16) (x : StageQueue) : State :=
  s.modCluster fun c => { c with stages := c.stages.set g.val x g.isLt }

/-- The ring entry of a task descriptor (Table 14.8), which fires as a spawn. -/
def descriptorEntry (d : Q) (staged : Bool) (src : CoreId) : Q :=
  entryBits (bits d 64 32) (bits d 32 32) (bits d 0 24) (furrowOf (bits d 96 32)) 3 staged src 0

/-- The first furrow after `cf` (mod 16) that holds a takeable entry. -/
def State.nextFurrow (s : State) : Nat :=
  ((upFrom (s.core.cf + 1) 16).find? fun f => s.core.ring.any fun x => x.furrow == f % 16 && s.takeable x).getD s.core.cf % 16

/-- The furrow and its run from which the next entry is taken. -/
def State.furrowNow (s : State) : Nat × Nat :=
  if (s.core.ring.any fun x => x.furrow == s.core.cf && s.takeable x) && decide (s.core.runs < 256) then (s.core.cf, s.core.runs)
  else (s.nextFurrow, 0)

/-- The head of the core's stage queue is taken. -/
def State.takeStaged (s : State) : State × Firing :=
  let g := s.ownStage
  let x := s.stageQueue g
  let d := qOfBytes (s.bytes (s.stagePlace g x.head) 16)
  ((s.setStageQueue g ⟨x.count - 1, (x.head + 1) % 256⟩).modCore fun c => { c with localRuns := 0 },
    ⟨descriptorEntry d true 0#13, false, none, 0, false⟩)

/-- A queued task is taken: ARG1, ARG0, ENTRY and REC from its place, the rest as recorded; a record's QUEUED is cleared
and RUN set in the same step (R215, R218). Its entry is free for a task that waits for one. -/
def State.takeQueued (s : State) (x : Queued) (furrow runs : Nat) : State × Firing :=
  let e := s.placeEntry x.place
  let entry := entryBits (bits e 96 32) (bits e 64 32) (entryOffset e) x.furrow x.kind.val x.staged x.src (entryRec e)
  let s := if x.recorded then (s.setRecBit (entryRec e) 233 false).setRecBit (entryRec e) 234 true else s
  ((s.modCore fun c => { c with
      ring := c.ring.filter fun y => y.place != x.place
      farDecs := if x.recorded && x.kind == 0 then c.farDecs.filter fun r => r != entryRec e else c.farDecs
      cf := furrow, runs := runs + 1, localRuns := c.localRuns + 1 }).placeNext,
    ⟨entry, x.recorded, x.recv, x.bytes, s.core.farDecs.contains (entryRec e)⟩)

/-- The task that the dispatcher takes, if there is one. -/
def State.takeTask (s : State) : Option (State × Firing) :=
  let any := s.core.ring.any s.takeable
  if (s.stageQueue s.ownStage).count ≠ 0 ∧ (any = false ∨ 256 ≤ s.core.localRuns) then some s.takeStaged
  else
    let (f, runs) := s.furrowNow
    (s.core.ring.find? fun x => x.furrow == f && s.takeable x).map fun x => s.takeQueued x f runs

/-- The lowest-numbered slot below the declared count that is free. -/
def State.slotForTask (s : State) : Option SlotId :=
  match s.core.kernel with
  | none => none
  | some kn => slotIds.find? fun k => decide (k.val < kn.slots) && (s.slot k).isFree

/-- The dispatcher acts: the core runs, and is in no handoff and no scrub (R221, R228, R286). -/
def State.dispatches (s : State) : Bool :=
  (s.core.mode == .running || s.core.mode == .halting) && s.core.handoff.isNone && !s.core.scrubbing

/-- Messages that wait at the interface are looked at again. -/
def State.lookAtMessages (s : State) : State := if s.core.arrived = [] then s else s.scheduleOnce .messageHoldRelease

/-- DISPATCH (R221): one task is given to a slot, whose firing starts; a ring entry may have come free. -/
def State.dispatchOne (s : State) : State :=
  if s.dispatches = false then s
  else
    match s.slotForTask, s.takeTask with
    | some k, some (t, f) =>
      let t := t.modSlot k fun x => { x with starting := true, ctx := { x.ctx with firing := some f, level := .user } }
      ((t.checkChannels.lookAtMessages).schedule .firingStart (.slot k)).scheduleOnce .dispatch
    | _, _ => s

def execDispatch (s : State) : Host.Outcome State Fault Refusal := happen s.dispatchOne

/-! ### The yoke (R230, R231) -/

def State.yokeReg (s : State) (i : Nat) : Nat :=
  (s.sysReg (sysAddr s.dieNo (clusterOf s.core.id) 0 1 (8 * i))).toNat

/-- Core `i` of this cluster as the yoke sees it: the stage it will hold after any pending change. -/
def State.countsIn (s : State) (i : Fin 16) : Nat :=
  if i.val = coreOf s.core.id then (s.core.stgNext.getD s.core.stg).toNat
  else
    let n := s.cluster.cores.get i
    (n.next.getD n.stage).toNat

/-- The cores that count in a stage: server cores neither count nor move. -/
def State.coresIn (s : State) (g : Nat) : List (Fin 16) :=
  coreIds.filter fun i => !s.isServer (s.sibling i.val) && s.countsIn i == g

/-- The units of a stage, the highest-numbered first: cores, or whole rows. -/
def State.unitsIn (s : State) (g : Nat) (rows : Bool) : List (List (Fin 16)) :=
  let l := s.coresIn g
  if rows then
    [(coreIds.drop 8), (coreIds.take 8)].filter fun r => r.all fun i => i ∈ l
  else l.reverse.map fun i => [i]

def State.occupancy (s : State) (g : Nat) : Nat := (s.stageQueue (Fin.ofNat 16 g)).count

/-- The stage with the largest occupancy, the lower number of equals. -/
def State.fullest (s : State) : List Nat → Option Nat
  | [] => none
  | g :: t =>
    match s.fullest t with
    | none => some g
    | some h => some (if s.occupancy g < s.occupancy h then h else g)

/-- The pending stage of a core of the cluster; its boundary is immediate while it holds no firing (R12). -/
def State.moveCore (g : Nat) (s : State) (i : Fin 16) : State :=
  let g := BitVec.ofNat 4 g
  if i.val = coreOf s.core.id then (s.modCore fun c => { c with stgNext := some g }).settleStage.scheduleOnce .dispatch
  else
    s.modCluster fun c =>
      let n := c.cores.get i
      { c with cores := c.cores.set i.val (if s.neighbourBusy i then { n with next := some g } else { n with stage := g, next := none }) i.isLt }

/-- YOKE_MOVE (R231): at most one move in this cluster. -/
def State.yoke (s : State) : State :=
  let ctl := s.yokeReg 0
  let rows := fld ctl 1 1 == 1
  let u := if rows then 8 else 1
  let r (g : Nat) : Nat := s.yokeReg (g + 1)
  if fld ctl 0 1 = 0 then s
  else
    let src := (upFrom 0 16).find? fun g =>
      decide (s.occupancy g ≤ fld (r g) 16 9) && decide (fld (r g) 32 5 + u ≤ (s.coresIn g).length) && !(s.unitsIn g rows).isEmpty
    match src with
    | none => s
    | some a =>
      let dst := s.fullest ((upFrom 0 16).filter fun g =>
        g != a && fld (r g) 0 9 != 0 && decide (fld (r g) 0 9 ≤ s.occupancy g) && decide ((s.coresIn g).length + u ≤ fld (r g) 40 5))
      match dst, s.unitsIn a rows with
      | some b, unit :: _ => unit.foldl (State.moveCore b) s.tick
      | _, _ => s

def execYokeMove (s : State) : Host.Outcome State Fault Refusal := happen s.yoke

/-! ### Barriers (R232) -/

/-- BARRIER_PHASE_COMPLETE: every member has arrived, this core among them. -/
def State.completePhase (s : State) (n : Fin 4) : State :=
  let b := s.core.barriers.get n
  if b.arrived then s.modCore fun c => { c with barriers := c.barriers.set n.val ⟨false, b.phase + 1⟩ n.isLt } else s

def execBarrierPhaseComplete (s : State) : Host.Outcome State Fault Refusal :=
  match s.event with
  | .barrier n => happen (s.completePhase n)
  | _ => happen s

/-! ### Sheaves -/

/-- SHEAF_COMMIT (R176): the commit of a sheaf for which a `halt` waits (R286). Every other sheaf commits in the step of
the instruction that ends it. -/
def execSheafCommit (s : State) : Host.Outcome State Fault Refusal :=
  match s.event with
  | .slot k =>
    happen (if s.core.mode ≠ .halting then s else if (s.ctx k).midRun then s.schedule .sheafCommit s.event else s.commit k)
  | _ => happen s

/-- SOLO_GRANT (R178): the oldest request is granted while no grant is held. -/
def State.grantSolo (s : State) : State :=
  if slotIds.any fun k => (s.slot k).sheaf.solo then s
  else
    match s.core.soloAsked with
    | [] => s
    | k :: rest => (s.modSheaf k fun sh => { sh with solo := true }).modCore fun c => { c with soloAsked := rest }

def execSoloGrant (s : State) : Host.Outcome State Fault Refusal := happen s.grantSolo

/-- LINE_EVICTION (R400): a line of 256 bytes leaves this die's L2. -/
def execLineEviction (s : State) : Host.Outcome State Fault Refusal :=
  match s.event with
  | .line loc => happen (s.evictLine loc)
  | _ => happen s

/-! ### Scrubs -/

/-- SCRUB_COMPLETE (R214): messages that waited are looked at, and dispatch goes on. -/
def execScrubComplete (s : State) : Host.Outcome State Fault Refusal :=
  let s := (s.modCore fun c => { c with scrubbing := false }).modCluster fun c => { c with scrubbing := false }
  happen (s.lookAtMessages.scheduleOnce .dispatch)

end Sys2Proof.Machine
end

