-- ==== Sys2Proof/Machine/Tasks.lean ====
section
/-! DEFINITION. The task and message instructions (R232, R233, R236 to R245). -/

namespace Sys2Proof.Machine

/-! ### Messages (R237, R239) -/

/-- The target of a capability that names a core (R237 step 2): a 1-byte access needing REMOTE in region 0xE with
SPACE 0. -/
def checkTargetCore (c : Reg) (r : RegIdx) : Act CoreId := do
  let a := addrOf c.bits
  checkCap c r.val [.remote] a 1
  trapIf (regionOf a != 0xE || fld a 53 2 != 0) 0x120 (q a)
  checkRemote (← get).view a
  pure (remoteCore a)

/-- A message of the slot that issues, held until the commit. -/
def holdMessage (kind : Fin 8) (flits : Fin 16) (cls : BitVec 8) (c : Q) (dst : CoreId) (payload : List Byte) : Act Unit := do
  waitForNet
  let s ← get
  holdBack (.message ⟨kind, flits, cls, pkeyOf c, s.core.tenant, s.core.id, dst, (s.ctx s.cur).spec, payload⟩)

/-- The routing word of `send` and `sendv`: its launch bit is for `sendv` only, at supervisor or monitor level on a
server core, with LEN 1 and CLASS 0. -/
def routingValid (s : State) (r : Nat) (vec : Bool) : Bool :=
  r / 2 ^ 13 == 0 &&
  (if vec then fld r 12 1 == 0 || (s.view.level != .user && s.isServer s.core.id && fld r 8 4 == 1 && fld r 0 8 == 0)
    else fld r 8 5 == 0)

/-- An access of `n` bytes of this core's LM, aligned to `al`, through register `r` (R60, R101): its LM offset. -/
def lmAccess (c : Reg) (r : RegIdx) (perms : List Perm) (n al : Nat) : Act Nat := do
  let a := addrOf c.bits
  checkCap c r.val perms a n
  trapIf (a % al != 0) 0x101 (q a) (capVal2 r.val false false n)
  trapIf (regionOf a != 0xD || decide (2 ^ 18 < a % 2 ^ 68 + n)) 0x120 (q a)
  pure (a % 2 ^ 68)

/-- Bytes of LM as the slot that issues reads them. -/
def readLm (off n : Nat) : Act (List Byte) := do
  let s ← get
  registerAccess (s.lm off) n false
  let s ← get
  pure (s.seenBytes s.cur (s.lm off) n)

/-- Hold a write of the slot that issues to LM. -/
def writeLm (off n v : Nat) : Act Unit := do
  let s ← get
  registerStore (s.lm off) n
  holdBack (.write (s.lm off) (leBytes n v) false 0#10)

/-- The kind and the class of the message that a routing word asks for. -/
def routingKind (r : Nat) : Fin 8 := if fld r 12 1 = 1 then 6 else 0

/-- `send` (R237). -/
def execSend (r a b : RegIdx) (s : State) : Host.Outcome State Fault Refusal :=
  perform s do
    let c ← readReg a
    let y ← readBits b
    let w := n64 (← readBits r)
    trapIf (!routingValid (← get) w false) 0x203 (q w)
    let dst ← checkTargetCore c a
    holdMessage 0 0 (BitVec.ofNat 8 w) c.bits dst (qBytes y)
    next

/-- `sendv` (R237). -/
def execSendv (r a b : RegIdx) (s : State) : Host.Outcome State Fault Refusal :=
  perform s do
    let c ← readReg a
    let y ← readReg b
    let w := n64 (← readBits r)
    trapIf (!routingValid (← get) w true) 0x203 (q w)
    let dst ← checkTargetCore c a
    let n := 16 + 32 * fld w 8 4
    let off ← lmAccess y b [.load] n 16
    let data ← readLm off n
    holdMessage (routingKind w) (Fin.ofNat 16 (fld w 8 4)) (BitVec.ofNat 8 w) c.bits dst data
    next

/-- A task descriptor (Table 14.8) is valid. -/
def descriptorValid (d : Q) : Bool := bits d 24 8 == 0 && bits d 0 1 == 0

/-- An act of an instruction that goes on after its wait: where it has to wait once more, the slot stands in the same
wait. -/
def keepWaiting (w : Wait) (act : Act Unit) : Act Unit := fun s =>
  match act s with
  | .error (.wait _) t => .error (.wait w) t
  | r => r

/-- `spawn` (R238): the message leaves at the commit, and the slot waits for the answer. -/
def execSpawn (d a b : RegIdx) (s : State) : Host.Outcome State Fault Refusal :=
  perform s do
    match (← myCtx).wait with
    | some ⟨.spawn (some v), _⟩ =>
      keepWaiting (.spawn (some v)) do
        let _ ← readReg a
        let _ ← readBits b
        writeReg d (Reg.data (wrD v))
      next
    | _ =>
      roomFor d
      let (c, y) ← peek do
        let c ← readReg a
        let y ← readBits b
        pure (c, y)
      let dst ← checkTargetCore c a
      trapIf (!descriptorValid y) 0x204 (q (n64 y))
      holdMessage 1 0 0#8 c.bits dst (qBytes y)
      modify fun s => s.modCore fun c => { c with spawned := c.spawned ++ [⟨dst, s.cur, none⟩] }
      pure (.hold (.spawn none))

/-- What the `tdec`s held in a sheaf take from a record. -/
def heldTdec (rec : Nat) (held : List Held) : Nat :=
  (held.map fun h =>
    match h with
    | .tdec r n => if r = rec then n else 0
    | _ => 0).sum

/-- A local `tdec` that would queue its record finds the ring full (R218). -/
def State.tdecStalls (s : State) (rec n : Nat) : Bool :=
  let r := ofBytes (s.seenBytes s.cur (s.lm rec) 32)
  recArmed r && !recChannel r && recValid r && !s.ringFree &&
    decide (signed 32 (recField r 0 32) ≤ ((n + heldTdec rec (s.slot s.cur).sheaf.held : Nat) : Int))

/-- `tdec` (R239). -/
def execTdec (a b : RegIdx) (s : State) : Host.Outcome State Fault Refusal :=
  perform s do
    let c ← readReg a
    let n := n64 (← readBits b)
    trapIf (n == 0 || decide (65535 < n)) 0x205 (q n)
    let at_ := addrOf c.bits
    if regionOf at_ = 0xE then
      checkCap c a.val [.store] at_ 32
      trapIf (at_ % 32 != 0) 0x101 (q at_) (capVal2 a.val false false 32)
      let dst ← checkTargetCore c a
      holdMessage 3 0 0#8 c.bits dst (leBytes 16 (fld at_ 0 18 + n * 2 ^ 32))
    else
      let rec_ ← lmAccess c a [.store] 32 32
      registerStore ((← get).lm rec_) 32
      if (← get).tdecStalls rec_ n then stall .ringEntry
      holdBack (.tdec rec_ n)
    next

/-! ### Records (R240, R241) -/

/-- Queue a record by `tarm`, at the commit; a full ring stalls the slot (R218). -/
def holdQueue (rec : Nat) (kind : Fin 4) : Act Unit := do
  if (← get).ringFree = false then stall .ringEntry
  holdBack (.queue rec kind)

/-- Bits [239:232] of a record with ARMED and QUEUED replaced. -/
def recMarks (r : Nat) (armed queued : Bool) : Nat := recField r 234 6 * 4 + queued.toNat * 2 + armed.toNat

/-- The record that `tarm` names: its offset and bits, checked (R240). -/
def recordToArm (a : RegIdx) (c : Reg) (b : Q) : Act (Nat × Nat) := do
  let off ← lmAccess c a [.store] 32 32
  let r := ofBytes (← readLm off 32)
  trapIf (!recValid r || recQueued r) 0x207 (q off) b
  pure (off, r)

/-- `tarm` (R240). -/
def execTarm (a b : RegIdx) (s : State) : Host.Outcome State Fault Refusal :=
  perform s do
    let c ← readReg a
    let y ← readBits b
    let v2 := q (n64 y)
    let (off, r) ← recordToArm a c v2
    if recChannel r then
      trapIf (decide (1 < n64 y)) 0x207 (q off) v2
      let on := n64 y == 0
      let s ← get
      if on && !recRun r && s.channelReady r && !s.ringFree then stall .ringEntry
      writeLm (off + 29) 1 (recMarks r on (recQueued r))
      holdBack (.arm off on)
    else
      trapIf (decide (s64 y < -(2 ^ 31 : Int) ∨ (2 ^ 31 : Int) ≤ s64 y)) 0x207 (q off) v2
      let go := decide (s64 y ≤ 0)
      writeLm off 4 (wrap 32 (s64 y))
      writeLm (off + 29) 1 (recMarks r (!go) go)
      if go then holdQueue off 0
    next

/-- `tarm.sp` (R240). -/
def execTarmSp (a : RegIdx) (s : State) : Host.Outcome State Fault Refusal :=
  perform s do
    let c ← readReg a
    let (off, r) ← recordToArm a c 0#128
    trapIf (recChannel r) 0x207 (q off)
    writeLm (off + 29) 1 (recMarks r (recArmed r) true)
    holdQueue off 3
    next

/-- `xstat`.INTRAP of the level at which a slot stands. -/
def Ctx.inTrap (c : Ctx) : Bool :=
  match c.level with
  | .user => false
  | .supervisor => c.sx.intrap
  | .monitor => c.mx.intrap

/-- A used count of the channel task checked, and the channel instruction that `tend` performs for it (R241). -/
def checkRecordCount (producer : Bool) (x : Fin 16 × Nat) : Act Unit := do
  let h := (← get).handle x.1
  let avail := if h.init && h.producer == producer then h.avail else 0
  trapIf (decide (avail < x.2)) 0x149 (q x.1.val) (q x.2)

/-- `cbadv` or `cbcomm` of a count of a channel task. -/
def giveCount (producer : Bool) (x : Fin 16 × Nat) : Act Unit := do
  let h ← useHandle x.1 producer
  trapIf (decide (h.avail < x.2)) 0x149 (q x.1.val) (q x.2)
  passSlots x.1 producer x.2

/-- The channel counts of a firing's record at `tend`. -/
def endCounts (f : Firing) : Act Unit := do
  if f.recorded && entryKind f.entry == 2 then
    let r := ofBytes (← readLm (entryRec f.entry) 32)
    (recIns r).forM (checkRecordCount false)
    (recOuts r).forM (checkRecordCount true)
    let s ← get
    waitForNet ((recIns r ++ recOuts r).filter fun x => !(s.handle x.1).engine).length
    (recIns r).forM (giveCount false)
    (recOuts r).forM (giveCount true)

/-- A firing ends (R241, R287, R336): RUN of its record is cleared or its receive place freed, the grant is returned, the
slot is free. -/
def State.endFiring (s : State) (k : SlotId) : State :=
  let s := match (s.ctx k).firing with
    | none => s
    | some f =>
      let s := if f.recorded then s.setRecBit (entryRec f.entry) 234 false else s
      match f.recv with
      | some p => s.modCore fun c => { c with received := c.received.filter fun x => x != p }
      | none => s
  (((s.returnGrant k).modCtx k fun c => { c with spec := 0#12 }).freeSlot k).lookAtMessages

/-- `tend` (R241). -/
def execTend (s : State) : Host.Outcome State Fault Refusal :=
  perform s do
    let c ← myCtx
    trapIf c.inTrap 0x20C (q (← instrAddr))
    match c.firing with
    | some f => endCounts f
    | none => pure ()
    pure (.lastThen fun s => .ok .gone (s.endFiring s.cur))

/-- `tself` (R241). -/
def execTself (d : RegIdx) (s : State) : Host.Outcome State Fault Refusal :=
  perform s do
    write128 d (((← myCtx).firing.map Firing.entry).getD 0#128)
    next

/-! ### Stages, barriers, the watchdog -/

/-- Append a descriptor to a stage queue of the cluster, unless it is full (R242); whether it was. -/
def appendStage (g : Fin 16) (d : Q) : Act Bool := do
  let s ← get
  let x := s.stageQueue g
  if 256 ≤ x.count then return true
  let loc := s.stagePlace g (x.head + x.count)
  arriveAt loc 16
  modify fun s => ((s.poke loc (qBytes d) false).setStageQueue g ⟨x.count + 1, x.head⟩).scheduleOnce .dispatch
  return false

/-- `stage` (R242). -/
def execStageTask (d a b : RegIdx) (s : State) : Host.Outcome State Fault Refusal :=
  perform s do
    let g := n64 (← readBits a)
    let y ← readBits b
    trapIf (decide (15 < g)) 0x20A (q g)
    trapIf (!descriptorValid y) 0x204 (q (n64 y))
    beginSheaf
    pure (.lastThen do
      roomFor d
      writeNat d (← appendStage (Fin.ofNat 16 g) y).toNat
      pure .seq)

/-- `bar` (R232). -/
def execBar (n : Fin 4) (s : State) : Host.Outcome State Fault Refusal :=
  perform s do
    let s ← get
    let at_ ← instrAddr
    trapIf (s.view.level != .user || s.isServer s.core.id || s.core.kernel.isNone) 0x211 (q at_)
    let wide := (s.core.kernel.map Kernel.spansDies).getD false
    let b := s.core.barriers.get n
    match (s.ctx s.cur).wait with
    | some ⟨.barrier _ p, _⟩ =>
      if p < b.phase ∧ (wide && s.acquireWaits (some s.cur)) = false then
        return .lastThen do
          if wide then acquireAct
          pure .seq
      else stall (.barrier n p)
    | _ =>
      if wide then holdBack .release
      modify fun s => s.modCore fun c => { c with barriers := c.barriers.set n.val { b with arrived := true } n.isLt }
      pure (.hold (.barrier n b.phase))

/-- `wdog` (R233). -/
def execWdog (s : State) : Host.Outcome State Fault Refusal :=
  perform s do
    modify fun s => s.modCore fun c => { c with wdg := { c.wdg with count := 0 } }
    next

/-! ### Field layouts (R243) -/

/-- Field `i` of a layout. -/
def layoutField (l : Q) (i : Nat) : Nat := bits l (16 * i) 16

def routePos (f : Nat) : Nat := fld f 0 7
def routeLen (f : Nat) : Nat := fld f 7 6
def routeSx (f : Nat) : Bool := fld f 13 1 == 1

/-- A layout within its limits. -/
def layoutValid (l : Q) : Bool :=
  (upFrom 0 8).all fun i =>
    let f := layoutField l i
    fld f 14 2 == 0 && decide (routeLen f ≤ 16) && (routeLen f == 0 || decide (routePos f + routeLen f ≤ 128))

/-- `hlay` (R243). -/
def execHlay (s : State) : Host.Outcome State Fault Refusal :=
  perform s do
    let data ← readLm (tableOffset (← get).core.hlbase) 128
    let l := (upFrom 0 8).map fun i => qOfBytes ((data.drop (16 * i)).take 16)
    match (upFrom 0 8).find? fun i => !layoutValid (l.getD i 0#128) with
    | some i => trap 0x215 (q i) (q (n64 (l.getD i 0#128)))
    | none =>
      modify fun s => s.modCore fun c => { c with layouts := Vector.ofFn fun i : Fin 8 => l.getD i.val 0#128 }
      next

/-- Bits [lo+n-1:lo] of a number replaced. -/
def putBits (v lo n x : Nat) : Nat := v / 2 ^ (lo + n) * 2 ^ (lo + n) + x % 2 ^ n * 2 ^ lo + v % 2 ^ lo

/-- What `hpack` leaves in d: lanes of `a` put into their fields. -/
def packFields (l d a : Q) : Q :=
  q ((upFrom 0 8).foldl (fun v i =>
    let f := layoutField l i
    if routeLen f = 0 then v else putBits v (routePos f) (routeLen f) (lane a 16 i)) d.toNat)

/-- What `hparse` reads from the fields of `a`. -/
def parseFields (l a : Q) : Q :=
  q (ofLanes 16 ((upFrom 0 8).map fun i =>
    let f := layoutField l i
    let x := bits a (routePos f) (routeLen f)
    if routeLen f = 0 then 0 else if routeSx f then wrap 16 (signed (routeLen f) x) else x))

/-- `hpack` (R243). -/
def execHpack (d a : RegIdx) (n : Fin 8) (s : State) : Host.Outcome State Fault Refusal :=
  perform s do
    let x ← readBits a
    let v ← readBits d
    write128 d (packFields ((← get).core.layouts.get n) v x)
    next

/-- `hparse` (R243). -/
def execHparse (d a : RegIdx) (n : Fin 8) (s : State) : Host.Outcome State Fault Refusal :=
  perform s do
    let x ← readBits a
    write128 d (parseFields ((← get).core.layouts.get n) x)
    next

end Sys2Proof.Machine
end

