-- ==== Sys2Proof/Machine/Arrivals.lean ====
section
/-! DEFINITION. Messages: the check at the routers (R225, R226), what a core does with each that arrives (R18, R156,
R213, R228, R238, R239), and those that wait at its interface. -/

namespace Sys2Proof.Machine

/-! ### The routers (R225) -/

/-- MESSAGE_ROUTER_CHECK (R225, R227): a message leaves the network interface, those to one core in their order; an arrived
spawn may have waited for its place. -/
def execMessageRouterCheck (s : State) : Host.Outcome State Fault Refusal :=
  match s.event with
  | .msg m =>
    if m ∈ s.core.outgoing then
      let behind := (s.core.outgoing.takeWhile fun x => x != m).any fun x => x.dst == m.dst
      if behind then happen (s.schedule .messageRouterCheck s.event)
      else
        match (s.modCore fun c => { c with outgoing := dropFirst m c.outgoing }).routeMessage m with
        | some t => happen t.lookAtMessages
        | none => happen (s.defer ⟨.messageRouterCheck, .msg m⟩)
    else happen s
  | _ => happen s

/-! ### Task messages -/

/-- Bytes that arrive in this core's LM; none while a solo sheaf holds some of them (R177, R178). -/
def State.arriveLm (s : State) (off : Nat) (data : List Byte) (tag : Bool) : Option State :=
  (s.arrive (s.lm off) data.length).map fun s => s.poke (s.lm off) data tag

/-- The word of the class table for a class (R228). -/
def State.classEntry (s : State) (cls : BitVec 8) : Nat := s.lmNat (tableOffset s.core.clsbase + 4 * cls.toNat) 4

/-- A free receive place (R215). -/
def State.freeReceivePlace (s : State) : Option Nat :=
  let free := (upFrom 0 16).filter fun p => !(s.core.received.contains p)
  free[Config.receivePlace s.fresh % free.length]?

/-- The LM offset of a receive place, after the ring's 4,096 bytes. -/
def State.receiveOffset (s : State) (p : Nat) : Nat := tableOffset s.core.rrbase + 4096 + 512 * p

/-- A task message queued (R228): none where it waits for a receive place, a ring entry or a solo sheaf. -/
def State.queueMessage (s : State) (m : Msg) : Option State :=
  let e := s.classEntry m.cls
  if e = 0 then some (s.divert m 0x202)
  else
    match s.freeReceivePlace, s.ringFree with
    | some p, true =>
      let off := s.receiveOffset p
      let furrow := furrowOf (msgField m 0 32)
      (s.tick.arriveLm off m.payload false).map fun s =>
        (s.modCore fun c => { c with received := c.received ++ [p] }).queueEntry
          (entryBits m.cls.toNat m.payload.length e furrow 1 false m.src off) 1 furrow m.src false (some p) m.payload.length
    | _, _ => none

/-! ### Spawns and their answers (R238) -/

/-- The reason for which this core refuses a spawn that reached it with its key: the first of the list that holds. -/
def State.spawnRefusal (s : State) (m : Msg) : Option Nat :=
  if s.ringFree = false then some 0
  else if s.core.tenant ≠ m.tenant then some 1
  else if s.isServer s.core.id then some 2
  else if s.core.handoff.isSome then some 4
  else none

/-- The answer to a spawn: [0] refused, [3:1] the reason. -/
def State.answerSpawn (s : State) (m : Msg) (refused : Option Nat) : State :=
  let v := match refused with
    | some r => 1 + 2 * r
    | none => 0
  s.sendMessage (s.shortMessage 2 0#32 m.src 0#12 v)

/-- A spawn taken or refused; the interface has a place for the answer. -/
def State.takeSpawn (s : State) (m : Msg) : State :=
  match s.spawnRefusal m with
  | some r => s.answerSpawn m (some r)
  | none =>
    let d := qOfBytes m.payload
    let s := s.queueEntry (descriptorEntry d false m.src) 3 (furrowOf (bits d 96 32)) m.src false
    s.answerSpawn m none

/-- The answer in the wait of a spawn, where the context stands in it or a trap interrupts it. -/
def Standing.answered (v : D) (w : Standing) : Standing :=
  match w.wait with
  | .spawn none => { w with wait := .spawn (some v) }
  | _ => w

def Ctx.answered (c : Ctx) (v : D) : Ctx :=
  { c with
    wait := c.wait.map (Standing.answered v)
    parked := c.parked.map fun p => { p with wait := p.wait.map (Standing.answered v) } }

/-- A spawn answer (kind 2): to the oldest spawn to its sender that is outstanding, or on to where that context stands
now (R238, R295). A frame sealed under a handover key changes no more. DEDUCED (log entry 35). -/
def State.takeAnswer (s : State) (m : Msg) : State :=
  let v : D := BitVec.ofNat 64 (msgField m 0 4)
  match s.core.spawned.find? fun x => x.target == m.src with
  | none => s
  | some x =>
    let s := s.modCore fun c => { c with spawned := dropFirst x c.spawned }
    match x.owner with
    | none => s.modCtx x.slot fun c => c.answered v
    | some id =>
      (match (s.core.forwards.find? fun (y : Forward) => y.id == id).map Forward.place with
        | some (.frame n) => if s.handedOver n then s else s.modFrame n fun y => { y with ctx := y.ctx.answered v }
        | some (.slot c k) => if c = s.core.id then s.modCtx k fun c => c.answered v else s
        | none => s).freeForwards

/-! ### Remote windows and `tdec` -/

/-- A remote-window write (R18, R265): SPACE and OFFSET stand in the first 16 bytes where Table 1.3 has them; none where
it waits for a scrub or a solo sheaf. -/
def State.takeWindow (s : State) (m : Msg) : Option State :=
  let data := windowBytes m
  let cm := msgField m 53 2 == 1
  let off := msgField m 0 22
  let size := if cm then 2 ^ 22 else 2 ^ 18
  if cm && s.cluster.scrubbing then none
  else if size < off + data.length then some s
  else
    let loc := if cm then cmLoc s.core.id off else s.lm off
    (s.arrive loc data.length).map fun s => s.writeGranules m loc 0 data data.length

/-- A `tdec` message (R239): none where it waits for a ring entry or a solo sheaf. -/
def State.takeTdec (s : State) (m : Msg) : Option State :=
  let rec_ := msgField m 0 18
  let n := msgField m 32 16
  match s.applyTdec rec_ n with
  | none => some (s.divert m 0x206)
  | some _ =>
    let r := s.lmNat rec_ 32
    if recArmed r && decide (signed 32 (recField r 0 32) ≤ (n : Int)) && !s.ringFree then none
    else
      (s.arrive (s.lm rec_) 32).map fun s =>
        let s := if dieOf m.src = s.dieNo then s else s.modCore fun c => { c with farDecs := rec_ :: c.farDecs.filter fun r => r != rec_ }
        (s.applyTdec rec_ n).getD s

/-- A credit (R156). DESIGN CHOICE (log entry 9). -/
def State.takeCreditMessage (s : State) (m : Msg) : State :=
  s.takeCredit (Fin.ofNat 16 (msgField m 0 4)) (msgField m 4 1 == 1) (msgField m 8 17)

/-! ### Launches (R213) -/

def recStart (r : Nat) : Bool := fld r 189 1 == 1
def recOrigin (r : Nat) : CoreId := BitVec.ofNat 13 (fld r 176 13)
def recStage (r : Nat) : BitVec 4 := BitVec.ofNat 4 (fld r 172 4)
def recPkey (r : Nat) : BitVec 32 := BitVec.ofNat 32 (fld r 140 32)
def recTenant (r : Nat) : BitVec 12 := BitVec.ofNat 12 (fld r 128 12)
def recCode (r : Nat) : Q := q (fld r 0 128)

/-- The service level lets a core accept a launch (R390). -/
def State.launchLevel (s : State) (c : CoreId) : Bool :=
  match s.serviceLevel with
  | 0 => false
  | 1 => dieOf c == s.l1die
  | _ => true

/-- Another core of the cluster that holds a kernel is busy; server cores do not count. -/
def State.neighboursIdle (s : State) (target : CoreId) : Bool :=
  coreIds.all fun i =>
    let c := s.sibling i.val
    if c = target ∨ s.isServer c = true then true
    else if c = s.core.id then s.core.kernel.isNone || (!s.anyFiring && s.core.ring.isEmpty)
    else !(s.cluster.cores.get i).kernel || !s.neighbourBusy i

/-- The tests of R213 that do not look at the target's own slots, for a target of this cluster: the header and the
members of the gang where they pass. -/
def State.launchTests (s : State) (m : Msg) (h : Option Nat) : Option (Nat × List Nat) :=
  let r := ofBytes m.payload
  match h with
  | none => none
  | some h =>
    match gangMembers h (recOrigin r) with
    | none => none
    | some l =>
      if m.payload.length == 48 && r / 2 ^ 190 == 0 && kernelHeaderValid h && hdrTenant h == recTenant r && recTenant r != 0#12 &&
        s.gangAllowed (recTenant r) l && l.contains m.dst.toNat && s.launchLevel m.dst &&
        (s.cluster.tenant == some (recTenant r) || s.neighboursIdle m.dst) then some (h, l)
      else none

/-- The launch makes a core scrub of this core (R214). -/
def State.needsScrub (s : State) (t : BitVec 12) : Bool :=
  !s.core.ran || (match s.core.kernel with
    | some k => k.tenant != t
    | none => false)

/-- The state that a launch sets (R213). -/
def State.install (s : State) (r h : Nat) (k : Kernel) : State :=
  let top := k.allocation - 12288
  let s := s.modCore fun c =>
    { c with
      tenant := recTenant r, pkey := recPkey r, stg := recStage r, stgNext := none, kernel := some k, ran := true
      clsbase := BitVec.ofNat 13 (hdrClsoff h / 32), tmbase := BitVec.ofNat 13 (hdrTmoff h / 32)
      rrbase := BitVec.ofNat 13 (top / 32), ring := [], unplaced := [], received := [], armed := [], cf := 0, runs := 0, localRuns := 0
      wdg := ⟨0#32, false, false, 0⟩, barriers := Vector.replicate 4 ⟨false, 0⟩ }
  s.zero (s.lm top) (s.lm top + 12288)

/-- The first task of a launch with START: a spawn at ENTRY with the rank and the member count. -/
def State.queueFirst (s : State) (k : Kernel) (src : CoreId) : State :=
  s.queueEntry (entryBits k.members k.rank k.entry 0 3 false src 0) 3 0 src false

/-- A launch that this core accepts. -/
def State.acceptLaunch (s : State) (m : Msg) (h : Nat) (l : List Nat) : State :=
  let r := ofBytes m.payload
  let k := kernelOf (recCode r) h (recOrigin r) (l.idxOf s.core.id.toNat) l.length
  let wide := s.cluster.tenant != some (recTenant r)
  let core := s.needsScrub (recTenant r)
  let s := if wide then s.scrubCluster (recTenant r) true else s
  let s := if core then s.scrubCore else s
  let s := if wide || core then (s.modCore fun c => { c with scrubbing := true }).schedule .scrubComplete else s
  let s := s.install r h k
  if recStart r then s.queueFirst k m.src else s

/-- A launch of another core of this cluster that the core accepts: the cluster scrub reaches this core too (R214). -/
def State.neighbourLaunch (s : State) (m : Msg) : State :=
  let r := ofBytes m.payload
  let s := if s.cluster.tenant = some (recTenant r) then s
    else ((s.scrubCluster (recTenant r) false).zeroLm m.dst).schedule .scrubComplete
  let i := Fin.ofNat 16 (coreOf m.dst)
  s.modCluster fun c =>
    { c with cores := c.cores.set i.val { c.cores.get i with kernel := true, busy := recStart r, stage := recStage r, next := none } i.isLt }

/-- A launch that arrived (R213). -/
def State.takeLaunch (s : State) (m : Msg) : State :=
  let r := ofBytes m.payload
  let (s, h) := s.tick.headerOf (recTenant r) (recCode r)
  if m.dst = s.core.id then
    if s.anyFiring || !s.core.ring.isEmpty || s.core.handoff.isSome then s.divert m 0x20B
    else
      match s.launchTests m h with
      | some (h, l) => s.acceptLaunch m h l
      | none => s.divert m 0x20B
  else
    match s.launchTests m h with
    | some _ => if s.neighbourBusy (Fin.ofNat 16 (coreOf m.dst)) then s.divert m 0x20B else s.neighbourLaunch m
    | none => s.divert m 0x20B

/-! ### Arrival (R228) -/

/-- What the core does with a message: none where it waits at the interface, as a spawn does for a place for its answer
(R227). -/
def State.takeMessage (s : State) (m : Msg) : Option State :=
  let answered (s : State) (c r : Nat) : State := if m.kind = 1 then (s.divert m c).answerSpawn m (some r) else s.divert m c
  if s.core.mode = .held then some (s.divert m 0x20B)
  else if m.kind = 6 then some (s.takeLaunch m)
  else if m.kind = 7 then some (s.divert m 0x20B)
  else if m.kind = 1 ∧ s.netFull then none
  else if m.kind ≠ 2 ∧ m.pkey ≠ s.core.pkey then some (answered s 0x201 3)
  else if s.core.kernel = none then some (answered s 0x20B 4)
  else if s.core.scrubbing then none
  else if m.kind = 1 then some (s.takeSpawn m)
  else if s.core.handoff.isSome then none
  else
    match m.kind with
    | 0 => s.queueMessage m
    | 2 => some (s.takeAnswer m)
    | 3 => s.takeTdec m
    | 4 => some (s.takeCreditMessage m)
    | _ => s.takeWindow m

/-- A message of a core waits behind one of the same sender that waits (R225). -/
def State.takeInOrder (s : State) (m : Msg) : State :=
  let hold (s : State) : State := s.modCore fun c => { c with arrived := c.arrived ++ [m] }
  if s.core.arrived.any fun x => x.src == m.src then hold s
  else
    match s.takeMessage m with
    | some t => t
    | none => hold s

/-- The arrival of a message of kind `k` at this core, or of a launch at another core of its cluster; every idle slot of
the core is woken (R285). -/
def State.messageArrives (s : State) (k : Nat) : State :=
  match s.event with
  | .msg m =>
    if m.wf k = false then s
    else if m.dst = s.core.id then s.wakeAll.takeInOrder m
    else if k = 6 ∧ m.dst.toNat / 16 = s.core.id.toNat / 16 then s.takeLaunch m
    else s
  | _ => s

def execMessageTask (s : State) := happen (s.messageArrives 0)
def execMessageSpawn (s : State) := happen (s.messageArrives 1)
def execMessageSpawnAnswer (s : State) := happen (s.messageArrives 2)
def execMessageTdec (s : State) := happen (s.messageArrives 3)
def execMessageCredit (s : State) := happen (s.messageArrives 4)
def execMessageRemoteWindow (s : State) := happen (s.messageArrives 5)
def execMessageLaunch (s : State) := happen (s.messageArrives 6)
def execMessageUnusedKind (s : State) := happen (s.messageArrives 7)

/-- MESSAGE_HOLD_RELEASE (R228): the messages at the interface taken up again in their order. -/
def execMessageHoldRelease (s : State) : Host.Outcome State Fault Refusal :=
  happen (s.core.arrived.foldl State.takeInOrder (s.modCore fun c => { c with arrived := [] }))

end Sys2Proof.Machine
end

