-- ==== Sys2Proof/Machine/Contexts.lean ====
section
/-! DEFINITION. Contexts: the return from a trap (R284, R116), and the moves of a slot's context: `ctxsave`, `ctxload`
and `migr` (R290 to R295, R395, R398). -/

namespace Sys2Proof.Machine

/-! ### The return from a trap (R284) -/

/-- The trap registers of a level above user. -/
def Ctx.trapRegs (c : Ctx) (l : Level) : TrapRegs := if l = .monitor then c.mx else c.sx

def Ctx.setTrapRegs (c : Ctx) (l : Level) (r : TrapRegs) : Ctx := if l = .monitor then { c with mx := r } else { c with sx := r }

/-- The length of a unit: its guard and its instruction (R64). -/
def DrillUnit.length (u : DrillUnit) : Nat := (if u.guarded.isSome then 2 else 0) + u.bytes

/-- Bytes from the origin of a block to its unit `n`; a unit that pass 0 could not fetch counts 4 (R404). -/
def Drill.bytesTo (d : Drill) (n : Nat) : Nat :=
  let known := (d.units.take n).map DrillUnit.length
  known.sum + 4 * (n - known.length)

/-- Where a return with DRILL set goes on from a position and DPASS (R116): the replay, if it has not ended, and the
address; none where the slot holds no buffer or one of them is out of range. -/
def Ctx.resumedDrill (c : Ctx) (pos dpass : Nat) : Option (Option Drill × Nat) :=
  match c.drill with
  | none => none
  | some d =>
    if d.n < pos ∨ d.k ≤ dpass then none
    else if pos < d.n then
      some (some { d with pass := d.k - 1 - dpass, pos := pos, live := true }, (d.origin + d.bytesTo pos) % 2 ^ 72)
    else if 0 < dpass then some (some { d with pass := d.k - dpass, pos := 0, live := true }, d.origin)
    else some (none, (d.origin + d.bytesTo d.n) % 2 ^ 72)

/-- A context whose own replay an `xret` ends: it is a transfer of control, and a drill that a handler runs ends at it.
DEDUCED (log entry 56). -/
def Ctx.leavesReplay (c : Ctx) : Ctx := if c.replaying then { c with drill := none } else c

/-- The cause with which an `xret` from a level traps, with `xval2`. -/
def Ctx.returnFault (c : Ctx) (l : Level) : Option (Nat × Q) :=
  let r := c.trapRegs l
  if r.ppl = 3 then some (0x002, 0#128)
  else if l.num < r.ppl then some (0x009, 0#128)
  else if r.drill && (c.resumedDrill r.dpos r.dpass).isNone then some (0x008, q (r.dpos + 2 ^ 4 * r.dpass))
  else none

/-- The unit of a replay that a return goes on at is the one that the trap interrupted: its wait and its run stand. -/
def Ctx.sameUnit (c : Ctx) (d : Option Drill) : Bool :=
  match c.drill, d with
  | some x, some y => x.pos == y.pos && x.pass == y.pass
  | _, _ => false

/-- The context after a return from a level; where DRILL is set, to a position of the block (R284, R116). -/
def Ctx.returnedTo (c : Ctx) (l : Level) (pos : Nat) : Ctx :=
  let r := c.trapRegs l
  let c' := (c.setTrapRegs l r.leave).returnFrom r
  if r.drill then
    match c.resumedDrill pos r.dpass with
    | some (d, at_) =>
      if c.sameUnit d then { c'.setPc at_ with drill := d } else { c'.setPc at_ with drill := d, wait := none, run := none }
    | none => c'
  else c'

/-- The context after an `xret` from a level. -/
def Ctx.returned (c : Ctx) (l : Level) : Ctx := c.returnedTo l (c.trapRegs l).dpos

/-- The bits of the instruction that a cause 0x002 of `xret` reports (R73). -/
def xretWord : Nat := 0x08000059

/-- `xret` (R284): the last instruction of its sheaf, and a taken transfer (R248). -/
def execXret (s : State) : Host.Outcome State Fault Refusal :=
  perform s do
    let c ← myCtx
    let at_ ← instrAddr
    match c.level with
    | .user =>
      trapIf (!c.uxact) 0x009 (q at_)
      pure (.lastThen fun s =>
        .ok .gone (((s.modCtx s.cur fun c => { c.leavesReplay.resumeAt c.uxpc with uxact := false }).refreshDrill s.cur).setBubble s.cur))
    | l =>
      match c.leavesReplay.returnFault l with
      | some (cause, v2) =>
        trap cause (q (if cause = 0x002 then xretWord else at_))
          (if cause = 0x002 then (c.guarded.map fun g => q g.word.toNat).getD 0#128 else v2)
      | none =>
        pure (.lastThen fun s =>
          .ok .gone (((s.modCtx s.cur fun c => c.leavesReplay.returned l).refreshDrill s.cur).setBubble s.cur))

/-! ### Frames (R290, R291) -/

/-- Frames of the silo: 8 KiB each. -/
def State.siloFrames (s : State) : Nat := s.module.silo * 128

def State.spillFrames (s : State) : Nat := s.module.spill.2 / 8192

/-- The first number from `n` on that names no frame. -/
def freeFrameFrom (used : List Nat) : Nat → Nat → Nat
  | 0, n => n % 65536
  | fuel + 1, n => if used.contains (n % 65536) then freeFrameFrom used fuel (n + 1) else n % 65536

/-- The first frame of the silo, which was written least recently, spilled. -/
def spillFirst : List (Nat × Frame) → List (Nat × Frame)
  | [] => []
  | x :: t => if x.2.spilled then x :: spillFirst t else (x.1, { x.2 with spilled := true }) :: t

/-- A silo frame made free, where there is room (R291). -/
def State.makeRoom (s : State) : Option State :=
  let inSilo := (s.die.frames.filter fun x => !x.2.spilled).length
  let inSpill := (s.die.frames.filter fun x => x.2.spilled).length
  if inSilo < s.siloFrames then some s
  else if 0 < s.siloFrames ∧ inSpill < s.spillFrames then some (s.modDie fun d => { d with frames := spillFirst d.frames })
  else none

/-! ### What leaves with a context (R292, R293) -/

/-- The base of the kernel's code capability and its TENANT. -/
def State.kernelHome (s : State) : Option (Nat × BitVec 12) := s.core.kernel.map fun k => (headerAddr k.code, k.tenant)

/-- The cluster of the core in the module: its die and its cluster. -/
def State.clusterNo (s : State) : Nat := s.core.id.toNat / 16

/-- The key identifier and the key of the enclave that has the core's cluster (R376, R377). -/
def State.enclaveKey (s : State) : Option (BitVec 10 × Nat) :=
  (s.module.enclaves.find? fun e => e.cluster == some s.clusterNo).map fun e => (e.key, e.epoch)

/-- The ports that a slot has bound. -/
def State.portsOf (s : State) (k : SlotId) : List (Fin 8 × Port) :=
  (portIds.filter fun p => (s.port p).owner == some k).map fun p => (p, s.port p)

/-- The first write port of a slot with elements still to drain. -/
def State.undrainedPort (s : State) (k : SlotId) : Option (Fin 8) :=
  portIds.find? fun p => (s.port p).owner == some k && (s.port p).write && (s.port p).undrained != 0

/-- The class of the leave that a slot holds, or of the request that waits at the headland (R395, R398). -/
def State.leaveClass (s : State) (k : SlotId) : Option Nat :=
  match (s.slot k).grant with
  | some c => some c
  | none => (s.die.asks.find? fun a => a.isOf k).map Ask.cls

/-- The context of slot `k` has engine commands or a spawn unanswered on this core (R293). -/
def State.outstanding (s : State) (k : SlotId) : Bool :=
  (fifos.any fun f => ((s.slot k).engine f).own != 0) || s.core.spawned.any fun x => x.slot == k && x.owner == none

/-- The forwarding entry that this core holds for the context in slot `k`. -/
def State.entryFor (s : State) (k : SlotId) : Option Forward :=
  s.core.forwards.find? fun x => x.place == .slot s.core.id k

/-- A move of the context of slot `k` needs a forwarding entry and finds none free (R295). -/
def State.lacksEntry (s : State) (k : SlotId) : Bool :=
  s.outstanding k && (s.entryFor k).isNone && decide (16 ≤ s.core.forwards.length)

/-- An engine's queues as they leave. -/
def Engine.leaving (e : Engine) : Engine := { e with taken := [], away := e.away + e.own }

/-- What an engine keeps: the commands it has taken, now answered through an entry. -/
def Engine.staying (e : Engine) (id : Nat) : Engine :=
  { Engine.reset with taken := e.taken.map fun c => if c.owner.isNone then { c with owner := some id } else c }

/-- The context of slot `k` as it leaves at a level. -/
def State.contextOf (s : State) (k : SlotId) : Frame where
  ctx := { s.ctx k with wait := none, guarded := none }
  level := (s.ctx k).level
  ports := s.portsOf k
  engines := fifos.map fun f => ((s.slot k).engine f).leaving
  leave := s.leaveClass k
  home := s.kernelHome
  enclave := s.enclaveKey
  entries := (s.slot k).entries
  entry := none
  spilled := false

/-- The answers that the context of slot `k` leaves outstanding go to `place` from now on (R295). -/
def State.forwardFrom (s : State) (k : SlotId) (place : Whereabouts) : State :=
  let moved := s.modCore fun c =>
    { c with forwards := c.forwards.map fun x => if x.place = .slot c.id k then { x with place := place } else x }
  if s.outstanding k = false then moved
  else
    let id := ((s.entryFor k).map Forward.id).getD s.fresh
    let t := moved.tick.modCore fun c =>
      { c with
        forwards := if (s.entryFor k).isSome then c.forwards else c.forwards ++ [⟨id, place⟩]
        spawned := c.spawned.map fun x => if x.slot = k ∧ x.owner = none then { x with owner := some id } else x }
    fifos.foldl (fun t f => t.modSlot k fun x => x.setEngine f ((x.engine f).staying id)) t

/-- The coordinates of the entries held for the context of slot `k`, this core's among them (R292). -/
def State.entriesAfter (s : State) (k : SlotId) : List CoreId :=
  let l := (s.slot k).entries
  if s.outstanding k && !l.contains s.core.id then l ++ [s.core.id] else l

/-- Slot `k` without its context: ports, drill buffer and leave released, no firing and no handler (R293). -/
def State.vacate (s : State) (k : SlotId) (place : Whereabouts) : State :=
  let s := (s.settled k).forwardFrom k place
  let s := fifos.foldl (fun s f => s.modSlot k fun x =>
    x.setEngine f { Engine.reset with taken := (x.engine f).taken.filter fun c => c.owner.isSome }) s
  let s := portIds.foldl (fun s p => if (s.port p).owner = some k then s.setPort p Port.free else s) s
  let s := (s.refreshStreams.returnGrant k).withdrawAsk k
  (s.modSlot k fun x => { x with entries := [], ctx := { x.ctx with spec := 0#12 } }).freeSlot k

/-- A context put into a frame of this die's silo; none where no frame is free (R291, R293). -/
def State.saveContext (s : State) (k : SlotId) (fr : Frame) : Option (State × Nat) :=
  s.makeRoom.map fun s =>
    let n := freeFrameFrom (s.die.frames.map Prod.fst) (s.die.frames.length + 1) (Config.frameNumber s.fresh)
    let fr := { fr with entries := s.entriesAfter k }
    let s := s.tick.modDie fun d => { d with frames := d.frames ++ [(n, fr)] }
    (s.vacate k (.frame n), n)

/-- The record of a saved context (R293, R305). -/
def savedRecord (c : CoreId) (k : SlotId) (cause n : Nat) : FaultRecord :=
  { origin := c, slot := k.val, source := 3, cause := cause, frame := n }

/-- What a save waits for: its write ports drained, a forwarding entry. -/
def readyToLeave : Act Unit := do
  let s ← get
  match s.undrainedPort s.cur with
  | some p => stall (.drained p)
  | none => pure ()
  if s.lacksEntry s.cur then stall .forwarding
  if fifos.any fun f => (s.settleLate s.cur f).isNone then stall .solo

/-- `ctxsave`, `ctxload` and `migr` stand in a handler at their level. -/
def inHandler : Act Unit := do
  let c ← myCtx
  let at_ ← instrAddr
  trapIf (!c.inTrap) 0x009 (q at_)

/-- `ctxsave` (R293). -/
def saveMine : Act Go := do
  readyToLeave
  let s ← get
  let c ← myCtx
  match s.saveContext s.cur (s.contextOf s.cur) with
  | none => trap 0x00E 0#128 1#128
  | some (t, n) =>
    set (t.record (savedRecord t.core.id s.cur ((c.trapRegs c.level).cause.toNat % 2 ^ 10) n))
    pure .gone

def execCtxsave (s : State) : Host.Outcome State Fault Refusal :=
  perform s do
    inHandler
    pure (.lastThen saveMine)

/-! ### The load (R294) -/

/-- The registers of a context restored in a slot whose own vectors, and registers of levels above the saving one,
stay; the slot is in no handler of those levels any more. -/
def Frame.restored (f : Frame) (c : Ctx) : Ctx :=
  match f.level with
  | .user => { f.ctx with level := .user, image := c.image, sx := c.sx.leave, mx := c.mx.leave }
  | .supervisor =>
    { f.ctx with level := .supervisor, image := c.image, sx := { f.ctx.sx with vec := c.sx.vec }, mx := c.mx.leave }
  | .monitor =>
    { f.ctx with
      level := .monitor, image := c.image, sx := { f.ctx.sx with vec := c.sx.vec, pc := c.sx.pc }, mx := { f.ctx.mx with vec := c.mx.vec } }

/-- The cause with which the return to a restored context traps. -/
def Frame.fault (f : Frame) (c : Ctx) : Option (Nat × Q) :=
  if f.level = .user then none else (f.restored c).returnFault f.level

/-- A restored context as it goes on: where `xret` from its level leads, or at the `succ` that saved it (R235). -/
def Frame.resumed (f : Frame) (c : Ctx) : Ctx := if f.level = .user then f.restored c else (f.restored c).returned f.level

/-- The slot asks again for the class that its context records (R395, R398). -/
def State.askLeave (s : State) (k : SlotId) (cls : Option Nat) : State :=
  let s := s.modCtx k fun c => { c with again := cls }
  match cls with
  | none => s
  | some c => (s.modDie fun d => { d with asks := d.asks ++ [⟨k, c, none⟩] }).scheduleOnce .headlandGrant

/-- The ports of a context bound again. -/
def State.bindAgain (s : State) (k : SlotId) (l : List (Fin 8 × Port)) : State :=
  (l.foldl (fun s p => (s.setPort p.1 { p.2 with owner := some k }).scheduleOnce .streamElementFetch (.port p.1)) s).refreshStreams

/-- The engine queues of a context; what the slot's own commands still bring is no longer wanted. -/
def State.loadEngines (s : State) (k : SlotId) (l : List Engine) : State :=
  (fifos.foldl (fun s f => s.modSlot k fun x =>
    let mine := (x.engine f).staying s.fresh
    x.setEngine f { l.getD (fifoIndex f) Engine.reset with taken := mine.taken }) s).tick.lookAtResults k

/-- The context of a frame in slot `k`, as `c` leaves it there; its late answers come to the slot (R294, R295). -/
def State.loadContext (s : State) (k : SlotId) (n : Nat) (f : Frame) (c : Ctx) : State :=
  let me := s.core.id
  let s := ((s.releaseDrill k).returnGrant k).withdrawAsk k
  let s := s.modDie fun d => { d with frames := d.frames.filter fun x => x.1 != n }
  let s := s.modCore fun c =>
    { c with
      forwards := c.forwards.map fun x => if x.place = .frame n ∨ f.entry = some x.id then { x with place := .slot me k } else x
      spawned := c.spawned.filter fun x => !(x.slot == k && x.owner == none) }
  let s := s.modSlot k fun x => { x with entries := f.entries, ctx := c }
  ((s.loadEngines k f.engines).bindAgain k f.ports).askLeave k f.leave

/-- The reason for which a frame is refused (R294). -/
def State.frameRefused (s : State) (n : Nat) : Option Nat :=
  match s.frame (n % 2 ^ 16) with
  | none => some 2
  | some f =>
    if n / 2 ^ 16 ≠ 0 then some 2
    else if s.handedOver n = true then some 3
    else if f.home ≠ s.kernelHome ∨ f.enclave ≠ s.enclaveKey then some 3
    else if f.ports.any fun p => (s.port p.1).bound.isSome then some 4
    else none

/-- A context that holds a drill buffer finds the core's held by another slot, or wanted by one that has waited longer (R113). -/
def State.bufferTaken (s : State) (k : SlotId) (f : Frame) : Bool :=
  f.ctx.drill.isSome &&
    match s.core.drillOwner with
    | some j => j != k
    | none => !(s.ctx k).wantsBuffer && s.bufferWanted k

/-- What the load of a frame into slot `k` waits for: the core's drill buffer, a port that another slot's open sheaf has
freed. -/
def State.loadWaits (s : State) (k : SlotId) (f : Frame) : Option Wait :=
  if s.bufferTaken k f then some .drillBuffer
  else (f.ports.find? fun p => s.freedElsewhere k p.1).map fun p => .freed p.1

/-- The context of a frame restored in slot `k`: it goes on as `xret` would from its level, which may trap at the address
`at_` of the load (R294). -/
def State.loadFrame (s : State) (k : SlotId) (n : Nat) (f : Frame) (at_ : Nat) : State :=
  let c := s.ctx k
  match f.fault c with
  | some (cause, v2) =>
    ((s.loadContext k n f { f.restored c with code := c.code }).takeDrill k).deliver k
      ⟨cause, q (if cause = 0x002 then xretWord else at_), v2, false, c.guarded.isSome⟩
  | none => ((s.loadContext k n f (f.resumed c)).takeDrill k).setBubble k

/-- `ctxload` of a frame into the slot that issues (R294). -/
def loadMine (n : Nat) : Act Go := do
  let s ← get
  match s.frameRefused n with
  | some r => trap 0x00E (q (n % 2 ^ 16)) (q r)
  | none => pure ()
  match s.frame (n % 2 ^ 16) with
  | none => pure .gone
  | some f =>
    match s.loadWaits s.cur f with
    | some w => stall w
    | none =>
      set (s.loadFrame s.cur (n % 2 ^ 16) f (← instrAddr))
      pure .gone

def execCtxload (a : RegIdx) (s : State) : Host.Outcome State Fault Refusal :=
  perform s do
    inHandler
    pure (.lastThen do loadMine (n64 (← readBits a)))

/-! ### The migration (R295) -/

/-- The destination of a migration, if its coordinates can be one. -/
def State.migrationTarget (s : State) (n : Nat) : Option CoreId :=
  let c : CoreId := BitVec.ofNat 13 n
  if n / 2 ^ 13 ≠ 0 ∨ s.isServer c = true ∨ c = s.core.id ∨ s.inSubmesh s.core.tenant c = false then none else some c

/-- `migr`: a refusal writes d; a context that is accepted leaves this core. -/
def migrateTo (d : RegIdx) (n : Nat) : Act Go := do
  let s ← get
  match s.migrationTarget n with
  | none =>
    writeNat d 1
    pure .seq
  | some c =>
    readyToLeave
    let answer := Config.migrationAnswer s.fresh
    modify State.tick
    if answer = 2 ∨ answer = 3 ∨ answer = 4 then
      writeNat d answer
      pure .seq
    else
      modify fun s => s.vacate s.cur (.slot c (Config.migrationSlot s.fresh))
      pure .gone

/-- What this core answers a context that migrates to it (R295): the slot that takes it, if one does. -/
def State.takerOf (s : State) (f : Frame) : Option SlotId :=
  let n := (s.core.kernel.map Kernel.slots).getD 0
  if s.core.kernel.isNone ∨ f.home ≠ s.kernelHome ∨ f.enclave ≠ s.enclaveKey then none
  else if f.ports.any fun p => (s.port p.1).bound.isSome || slotIds.any fun k => s.freedElsewhere k p.1 then none
  else slotIds.find? fun k => decide (k.val < n) && (s.slot k).isFree && !(s.slot k).starting

/-- A context that migrates to slot `k` resumes as at a load of its frame. -/
def State.settleMigrant (s : State) (k : SlotId) (f : Frame) : State :=
  let c := s.ctx k
  match f.fault c with
  | some (cause, v2) =>
    ((s.loadContext k (2 ^ 16) f { f.restored c with code := f.ctx.code }).refreshDrill k).deliver k
      ⟨cause, if cause = 0x002 then q xretWord else q f.ctx.pc, v2, false, false⟩
  | none => ((s.loadContext k (2 ^ 16) f (f.resumed c)).refreshDrill k).setBubble k

/-- The oldest context that another core's `migr` brings: this core refuses it, and it stays where it was, or a free slot
takes it. A handoff that stands holds the answer back. DEDUCED (log entry 62). -/
def State.takeMigrant (s : State) : State :=
  match s.die.migrants with
  | [] => s
  | f :: rest =>
    if s.core.handoff.isSome then s.schedule (.migr 0 0) .migration
    else
      let t := s.modDie fun d => { d with migrants := rest }
      match s.takerOf f with
      | some k => t.settleMigrant k f
      | none => t

/-- The event is the arrival of another core's migration. -/
def State.migrantComes (s : State) : Bool := !s.eventTurn && s.event == .migration

/-- `migr` of the slot that issues, or, as an event, that of another core to this one. -/
def execMigr (d a : RegIdx) (s : State) : Host.Outcome State Fault Refusal :=
  if s.migrantComes then happen s.takeMigrant
  else
    perform s do
      inHandler
      pure (.lastThen do
        let n := n64 (← readBits a)
        roomFor d
        migrateTo d n)

end Sys2Proof.Machine
end

