-- ==== Sys2Proof/Machine/Mailbox.lean ====
section
/-! DEFINITION. The mailboxes as the device uses them: the commands of e7 (R161, R362), and the append of an entry to
an outbound mailbox (R361). -/

namespace Sys2Proof.Machine

/-- The places of a mailbox (R358). -/
def boxPlaces : Nat := 256

/-- An entry appended to outbound mailbox `m` of function `f`, which has room; MSI-X vector `m` is signalled where the
mailbox was empty and MSI is set (R361). -/
def State.appendOut (s : State) (f m : Nat) (entry : List Byte) : State :=
  let o := s.outboxOf f m
  let s := s.setOutbox f m { o with entries := o.entries ++ [entry] }
  if o.msi && o.entries.isEmpty then s.modModule fun x => { x with msi := x.msi ++ [(f, m)] } else s

/-- SEND to outbound mailbox `m` of the tenant's function: the answer (R161, R362). -/
def State.sendEntry (s : State) (t : BitVec 12) (m : Nat) (entry : List Byte) : State × Answer :=
  match s.boundFunction t with
  | none => (s, .refuse 0x2E3)
  | some f =>
    let used := (s.outboxOf f m).entries.length
    if boxPlaces ≤ used then (s, .refuse 0x385)
    else (s.appendOut f m entry, { value := boxPlaces - used - 1 })

/-- RECV from inbound mailbox `m` of the tenant's function: the answer (R161, R362). -/
def State.recvEntry (s : State) (t : BitVec 12) (m : Nat) : State × Answer :=
  match s.boundFunction t with
  | none => (s, .refuse 0x2E3)
  | some f =>
    let b := s.inboxOf f m
    match b.entries with
    | [] => (s, { value := 0 })
    | e :: rest =>
      (s.setInbox f m { b with entries := rest },
        { value := 1, data := (upFrom 0 4).map fun i => qOfBytes ((e.drop (16 * i)).take 16) })

/-- MAILBOX_SEND (R362). -/
def execMailboxSend (s : State) : Host.Outcome State Fault Refusal :=
  happen (s.commandStep .e7 .mailboxSend fun s k c =>
    let (s, r) := s.sendEntry c.tenant (headerArg c.header) (((upFrom 1 4).map fun i => qBytes (c.elem i).bits).flatten)
    s.answer k .e7 r)

/-- RECV (R362). -/
def execMailboxRecv (s : State) : Host.Outcome State Fault Refusal :=
  happen (s.commandStep .e7 .mailboxRecv fun s k c =>
    let (s, r) := s.recvEntry c.tenant (headerArg c.header)
    s.answer k .e7 r)

end Sys2Proof.Machine
end

