-- ==== Sys2Proof/Machine/Stores.lean ====
section
/-! DEFINITION. Stores to registers of system space by other cores and by firmware (R298, R286, R296, R402, R345, R226,
R339, R353, R365, R381, R390, R392). What the store names stands in the event. A store of this core acts in its own
instruction by the same operation. -/

namespace Sys2Proof.Machine

/-- The store of the event, where it reaches a register of the kind that a test names; the writer stands at the level
that may write it. -/
def State.storeFrom (s : State) (test : Nat → Bool) : State :=
  match s.event with
  | .register a v => if systemKnown a.toNat && test a.toNat then s.writeSystem .monitor a.toNat v else s
  | _ => s

/-- A register of a block at an offset. -/
def isReg (b : Nat) (o : Nat → Bool) (a : Nat) : Bool := sysBlock a == b && o (sysOffset a)

/-- A register with a behaviour that a row of its own has. -/
def hasRow (a : Nat) : Bool :=
  isReg 0 (fun o => o == 0x08 || o == 0x10 || o == 0x18) a || isReg 3 (· == 0x00) a || isReg 4 (· == 0x20000) a || isReg 6 (· == 0x8000) a ||
    isReg 10 (fun _ => true) a || isReg 5 (fun _ => true) a || isReg 7 (fun o => decide (o < 0x8000) || o == 0xA000) a ||
    isReg 8 (· == 0x18) a || isReg 9 (fun o => o == 0x00 || o == 0x08) a

/-- HALTEND (R286). -/
def execHaltend (s : State) : Host.Outcome State Fault Refusal := happen s.endHalt

/-- RELEASE (R297). -/
def execReleaseHeld (s : State) : Host.Outcome State Fault Refusal := happen s.releaseHeldState

/-- PREEMPT_WRITE (R296). -/
def execPreemptWrite (s : State) : Host.Outcome State Fault Refusal := happen (s.storeFrom (isReg 0 (· == 0x10)))

/-- RESUME_WRITE (R296). -/
def execResumeWrite (s : State) : Host.Outcome State Fault Refusal := happen (s.storeFrom (isReg 0 (· == 0x18)))

/-- FQHEAD_WRITE (R402). -/
def execFqheadWrite (s : State) : Host.Outcome State Fault Refusal := happen (s.storeFrom (isReg 3 (· == 0x00)))

/-- SQHEAD_WRITE (R402). -/
def execSqheadWrite (s : State) : Host.Outcome State Fault Refusal := happen (s.storeFrom (isReg 4 (· == 0x20000)))

/-- KRHEAD_WRITE (R345). -/
def execKrheadWrite (s : State) : Host.Outcome State Fault Refusal := happen (s.storeFrom (isReg 6 (· == 0x8000)))

/-- SUBMESH_WRITE (R226). -/
def execSubmeshWrite (s : State) : Host.Outcome State Fault Refusal := happen (s.storeFrom (isReg 10 fun _ => true))

/-- KV_DESCRIPTOR_WRITE (R339). -/
def execKvDescriptorWrite (s : State) : Host.Outcome State Fault Refusal := happen (s.storeFrom (isReg 5 fun _ => true))

/-- TBIND_WRITE (R353). -/
def execTbindWrite (s : State) : Host.Outcome State Fault Refusal := happen (s.storeFrom (isReg 7 fun o => decide (o < 0x8000)))

/-- SVC_WRITE (R390). -/
def execSvcWrite (s : State) : Host.Outcome State Fault Refusal := happen (s.storeFrom (isReg 9 (· == 0x00)))

/-- PCAP_WRITE (R392). -/
def execPcapWrite (s : State) : Host.Outcome State Fault Refusal := happen (s.storeFrom (isReg 9 (· == 0x08)))

/-- REKEY (R381). -/
def execRekey (s : State) : Host.Outcome State Fault Refusal := happen (s.enclosureCommand 1)

/-- DISSOLVE (R381). -/
def execDissolve (s : State) : Host.Outcome State Fault Refusal := happen (s.enclosureCommand 2)

/-- SYSTEM_REGISTER_WRITE (R298): a register with no behaviour of its own. -/
def execSystemRegisterWrite (s : State) : Host.Outcome State Fault Refusal := happen (s.storeFrom fun a => !hasRow a)

/-- OWNREQ_TO_HOST and OWNREQ_TO_DEVICE (R365). -/
def State.flipEvent (s : State) (toHost : Bool) : State :=
  match s.event with
  | .page p => s.requestFlip p.toNat toHost
  | _ => s

def execOwnreqToHost (s : State) : Host.Outcome State Fault Refusal := happen (s.flipEvent true)

def execOwnreqToDevice (s : State) : Host.Outcome State Fault Refusal := happen (s.flipEvent false)

/-- An engine has still to write some of `n` bytes at `base` that it has reported done (R171). -/
def State.lateIn (s : State) (base n : Nat) : Bool :=
  slotIds.any fun k => fifos.any fun f => ((s.slot k).engine f).taken.any fun c => c.progress.late.any fun w =>
    decide (w.1 < base + n ∧ base < w.1 + w.2.2.length)

/-- The last steps of a flip (Table 24.3): to the host, the page's sheaves squashed, its copies written back and
dropped; to the device, its lines taken back from the host with what it has changed, and the cached lines of its alias
dropped. An uncommitted solo sheaf that holds a line of the page commits first, as does what an engine has reported done. -/
def State.completeFlip (s : State) : State :=
  match s.module.flip with
  | none => s
  | some f =>
    let base := f.page * 2 ^ 12
    if s.lateIn base (2 ^ 12) then s.schedule .ownershipFlipComplete
    else if f.toHost then
      match s.arrive base (2 ^ 12) with
      | none => s.schedule .ownershipFlipComplete
      | some s =>
        let s := ((upFrom (base / 32) 128).foldl State.flushSector s).uncache base (2 ^ 12)
        s.modModule fun m => { m with hostOwned := Table.set false m.hostOwned f.page true, flip := none }
    else
      match s.snoopBack base (2 ^ 12) true with
      | none => s.schedule .ownershipFlipComplete
      | some s => (s.uncache base (2 ^ 12)).modModule fun m => { m with hostOwned := Table.set false m.hostOwned f.page false, flip := none }

def execOwnershipFlipComplete (s : State) : Host.Outcome State Fault Refusal := happen s.completeFlip

end Sys2Proof.Machine
end

