-- ==== Sys2Proof/Machine/HostSide.lean ====
section
/-! DEFINITION. What the host does to the module (R350 to R366): mailbox pushes, reads and acknowledgements, other
writes to BAR 0, reads and writes of device memory, snoops, the link, the decoder. The answer stands in `reply`. -/

namespace Sys2Proof.Machine

/-- The module answers on its ports (R369, R396). DEDUCED (log entry 34). -/
def State.answers (s : State) : Bool := s.module.phase == .released || s.module.phase == .started

/-- An event of the host: nothing reaches a module that is in reset or has lost its clocks. -/
def State.hostEvent (s : State) (f : State → State) : State := if s.answers then f s else s

def State.replyWith (s : State) (r : HostReply) : State := s.modModule fun m => { m with reply := r }

/-! ### Mailboxes -/

/-- IN_STAT (Table 24.2). -/
def Inbox.status (b : Inbox) : Nat := b.accepted.toNat * 2 ^ 32 + b.dropped.toNat * 2 ^ 16 + (boxPlaces - b.entries.length)

/-- The location of a byte of host memory, or of the device memory behind its alias. -/
def State.hostLoc (s : State) (h : Nat) : Nat := (s.aliasOf h).getD (hostBase + h)

/-- The credit word of an inbound mailbox written (R360); in device memory, under key identifier 1 (R374, R375), once the host
has given its line up (R352). None while a solo sheaf that holds the word defers it (R178). -/
def State.creditWord (s : State) (f m : Nat) : Option State :=
  let b := s.inboxOf f m
  let loc := s.hostLoc (8 * b.credAddr.toNat)
  if b.credEn = false then some s
  else
    ((if s.remote loc then some s else s.arrive loc 8).bind fun s => s.snoopBack loc 8 true).map fun s =>
      if spaceOf loc = .hbm then s.homeWrite 1#10 loc (leBytes 8 b.status) false 2 else s.poke loc (leBytes 8 b.status) false

/-- The tenant bound to a function. -/
def State.tenantOf (s : State) (f : Nat) : Option (BitVec 12) :=
  (s.sys.find? fun e =>
    sysBlock e.1 == 7 && decide (sysOffset e.1 < 0x8000) && fld e.2.toNat 3 1 == 1 && e.2.toNat % 8 == f).map fun e =>
      BitVec.ofNat 12 (sysOffset e.1 / 8)

/-- The notice of an inbound mailbox that was empty (R363); it reaches this core where it names it. DEDUCED (log entry
34). -/
def State.notice (s : State) (f m : Nat) : State :=
  let r := (s.sysReg (sysAddr 0 0 0 7 (0x9000 + 512 * f + 8 * m))).toNat
  match s.tenantOf f with
  | none => s
  | some t =>
    if r % 2 = 1 ∧ fld r 16 13 = s.core.id.toNat then
      let msg : Msg := ⟨0, 0, BitVec.ofNat 8 (fld r 8 8), BitVec.ofNat 32 (fld r 32 32), t, 0#13, s.core.id, 0#12, leBytes 16 m⟩
      s.schedule .messageTask (.msg msg)
    else s

/-- IN_PUSH (R360). A push whose credit word a solo sheaf defers is taken once that sheaf has committed. -/
def State.push (s : State) (f m size : Nat) (entry : List Byte) : State :=
  let b := s.inboxOf f m
  if size ≠ 64 ∨ entry.length ≠ 64 then s.setInbox f m { b with dropped := true }
  else if boxPlaces ≤ b.entries.length then s.replyWith .retry
  else
    let t := s.setInbox f m { b with entries := b.entries ++ [entry], accepted := b.accepted + 1#32 }
    match (if b.entries = [] then t.notice f m else t).creditWord f m with
    | some t => t.replyWith .done
    | none => s.defer ⟨.inPush, s.event⟩

def execInPush (s : State) : Host.Outcome State Fault Refusal :=
  happen (s.hostEvent fun s =>
    match s.event with
    | .push f m size e => s.push f.val m.val size e
    | _ => s)

/-- A read of IN_STAT clears DROPPED. -/
def State.readInStat (s : State) (f m : Nat) : State :=
  let b := s.inboxOf f m
  (s.setInbox f m { b with dropped := false }).replyWith (.data (leBytes 8 b.status))

/-- IN_CRED, OUT_STAT and OUT_CTL (Table 24.2). -/
def Inbox.credit (b : Inbox) : Nat := b.credAddr.toNat * 2 ^ 3 + b.credEn.toNat
def Outbox.status (o : Outbox) : Nat := o.headseq.toNat * 2 ^ 32 + o.entries.length
def Outbox.control (o : Outbox) : Nat := o.msi.toNat * 2 + o.early.toNat

/-- What the spec gives no value: a read of a register that is written only, or of an entry that is not held any more. DESIGN
CHOICE (log entry 32). -/
def unstated (o n : Nat) : List Byte := ((upFrom 0 (n / 8)).map fun i => leBytes 8 (Config.writeOnly (2 ^ 72 + o + 8 * i)).toNat).flatten

/-- OUT_ENTRY(m, k): entry s with s mod 256 = k while it is held (R361); zeros where no entry has lain. -/
def Outbox.place (b : Outbox) (o k : Nat) : List Byte :=
  match b.entries[(256 + k - b.headseq.toNat % 256) % 256]? with
  | some e => e
  | none => if b.headseq.toNat + b.entries.length ≤ k then List.replicate 64 0#8 else unstated o 64

/-- EXTFENCE (R366): the read completes once every XCOPY sector begun has completed. An XCOPY of this core holds a sector that
it has begun. -/
def State.sectorBegun (s : State) : Bool :=
  slotIds.any fun k => ((s.slot k).engine .e0).taken.any fun c => headerOpc c.header == 0x03 && c.progress.buf != []

/-- A read of `n` bytes at an offset of BAR 0 (Table 24.2). One of another size or alignment returns zeros. -/
def State.barRead (s : State) (f o n : Nat) : State :=
  let word (v : Nat) : State := s.replyWith (.data (leBytes 8 v))
  if 0x100000 ≤ o ∧ n = 64 ∧ o % 64 = 0 then
    s.replyWith (.data ((s.outboxOf f ((o - 0x100000) / 0x4000)).place o (o % 0x4000 / 64)))
  else if o < 0x1000 ∧ n = 64 ∧ o % 64 = 0 then s.replyWith (.data (unstated o 64))
  else if n ≠ 8 ∨ o % 8 ≠ 0 then s.replyWith (.data (List.replicate n 0#8))
  else if 0x1000 ≤ o ∧ o < 0x1200 then s.readInStat f ((o - 0x1000) / 8)
  else if 0x1200 ≤ o ∧ o < 0x1400 then word (s.inboxOf f ((o - 0x1200) / 8)).credit
  else if 0x2000 ≤ o ∧ o < 0x2200 then word (s.outboxOf f ((o - 0x2000) / 8)).status
  else if 0x2400 ≤ o ∧ o < 0x2600 then word (s.outboxOf f ((o - 0x2400) / 8)).control
  else if (0x2200 ≤ o ∧ o < 0x2400) ∨ o = 0x3008 then s.replyWith (.data (unstated o 8))
  else if o = 0x3010 then word (s.systemValue (sysAddr 0 0 0 7 0xA008)).toNat
  else word 0

/-- IN_STAT_READ (R359, R361): a read of BAR 0. -/
def execInStatRead (s : State) : Host.Outcome State Fault Refusal :=
  happen (s.hostEvent fun s =>
    match s.event with
    | .mailbox f m _ => s.readInStat f.val m.val
    | .barRead f o n =>
      if o = 0x3000 ∧ n = 8 ∧ s.sectorBegun = true then s.schedule .inStatRead s.event else s.barRead f.val o n
    | _ => s)

/-- OUT_ACK (R361): held entries numbered below SEQ are freed. -/
def State.acknowledge (s : State) (f m : Nat) (v : BitVec 64) : State :=
  let o := s.outboxOf f m
  let n := (v.setWidth 32 - o.headseq).toNat
  if v.toNat < 2 ^ 32 ∧ n ≤ o.entries.length then
    s.setOutbox f m { o with entries := o.entries.drop n, headseq := v.setWidth 32 }
  else s

def execOutAck (s : State) : Host.Outcome State Fault Refusal :=
  happen (s.hostEvent fun s =>
    match s.event with
    | .mailbox f m v => s.acknowledge f.val m.val v
    | _ => s)

/-- A write of `size` bytes to a register of BAR 0 (Table 24.2). A write of another size or alignment is discarded. -/
def State.barWrite (s : State) (f o size : Nat) (v : BitVec 64) : State :=
  if o < 0x1000 then s.push f (o / 64) 0 []
  else if size ≠ 8 ∨ o % 8 ≠ 0 then s
  else if 0x1200 ≤ o ∧ o < 0x1400 then
    let m := (o - 0x1200) / 8
    s.setInbox f m { s.inboxOf f m with credAddr := BitVec.ofNat 51 (fld v.toNat 3 51), credEn := v.getLsbD 0 }
  else if 0x2200 ≤ o ∧ o < 0x2400 then s.acknowledge f ((o - 0x2200) / 8) v
  else if 0x2400 ≤ o ∧ o < 0x2600 then
    let m := (o - 0x2400) / 8
    s.setOutbox f m { s.outboxOf f m with msi := v.getLsbD 1, early := v.getLsbD 0 }
  else if o = 0x3008 then s.writeSystem .supervisor (sysAddr 0 0 0 7 0xA000) v
  else s

/-- HOST_BAR_REGISTER_WRITE (R359). -/
def execHostBarRegisterWrite (s : State) : Host.Outcome State Fault Refusal :=
  happen (s.hostEvent fun s =>
    match s.event with
    | .bar f o size v => s.barWrite f.val o size v
    | _ => s)

/-- EXTFENCE_READ (R366). -/
def execExtfenceRead (s : State) : Host.Outcome State Fault Refusal :=
  happen (s.hostEvent fun s => if s.sectorBegun then s.schedule .extfenceRead else s.replyWith (.data (leBytes 8 0)))

/-! ### Device memory (R351, R352) -/

/-- Entries of a die's snoop filter. -/
def filterEntries : Nat := 1048576

/-- The slots whose open sheaves hold writes to a line of 64 bytes. -/
def State.lineWriters (s : State) (line : Nat) : List SlotId :=
  slotIds.filter fun k => (s.slot k).sheaf.meets (sectorsOf (64 * line) 64) false

/-- What becomes of the open sheaves when the host caches a line that it may change, and whether it may change it: not while a
solo sheaf holds the line (R178), and where it does change one that an open sheaf has written, that sheaf is squashed (R352,
R177). DEDUCED (log entry 34). -/
def State.lendLine (s : State) (line : Nat) : State × Bool :=
  if slotIds.any fun k => (s.slot k).sheaf.solo && (s.slot k).sheaf.touches (sectorsOf (64 * line) 64) then (s, false)
  else
    match s.lineWriters line with
    | [] => (s, true)
    | l => if Config.hostDirty s.fresh then (l.foldl State.squash s.tick, true) else (s.tick, false)

/-- The host caches a line: an entry of the filter of its home die, whose oldest is taken back to make room (R352); none while
a solo sheaf defers that. DEDUCED (log entry 34). -/
def State.snoopEntry (s : State) (line : Nat) : Option State :=
  let (s, may) := s.lendLine line
  if (s.hostHolds line).isSome then
    some (s.modModule fun m => { m with snooped := m.snooped.map fun l => if l.1 = line then (line, l.2 || may) else l })
  else
    let same := s.module.snooped.filter fun l => homeDie (64 * l.1) == homeDie (64 * line)
    let room := match same with
      | oldest :: _ => if filterEntries ≤ same.length then s.snoopLine true oldest.1 else some s
      | [] => some s
    room.map fun s => s.modModule fun m => { m with snooped := m.snooped ++ [(line, may)] }

/-- The device address that a host address of the decoder's range names; none at or above HVTOP. -/
def State.deviceAddr (s : State) (h n : Nat) : Option Nat :=
  let b := s.module.hdmbase.toNat
  if b ≤ h ∧ h - b + n ≤ s.module.hvtop * 2 ^ 30 then some (h - b) else none

/-- A request to a page waits for its ownership flip (Table 24.3). -/
def State.pageFlips (s : State) (a : Nat) : Bool :=
  match s.module.flip with
  | some f => f.page == a / 2 ^ 12
  | none => false

/-- HOST_MEM_READ (R351, R375). -/
def State.hostReads (s : State) (h n : Nat) : State :=
  match s.deviceAddr h n with
  | none => s.replyWith .error
  | some a =>
    if s.pageFlips a then s.schedule .hostMemRead s.event
    else if s.opensAll 1#10 a n = false then s.replyWith .error
    else
      match (linesOf a n).foldl (fun t l => t.bind fun t => t.snoopEntry l) (some s) with
      | some t => t.replyWith (.data (s.bytes a n))
      | none => s.defer ⟨.hostMemRead, s.event⟩

def execHostMemRead (s : State) : Host.Outcome State Fault Refusal :=
  happen (s.hostEvent fun s =>
    match s.event with
    | .hostRead h n => s.hostReads h n
    | _ => s)

/-- A block of `n` bytes at a device address is sealed under another identifier than the host's (R375). -/
def State.foreignBlock (s : State) (a n : Nat) : Bool :=
  (upFrom (a / 256) ((a + n + 255) / 256 - a / 256)).any fun b => s.seal (256 * b) != 0 && s.seal (256 * b) != 2

/-- HOST_MEM_WRITE (R351, R352, R374, R375): sheaves of the home die that hold a byte of the line are squashed; a write to a
block of another identifier is discarded, a merge with its record. -/
def State.hostWrites (s : State) (h : Nat) (data : List Byte) : State :=
  match s.deviceAddr h data.length with
  | none => s.replyWith .error
  | some a =>
    let whole := a % 256 == 0 && data.length == 256
    if s.pageFlips a then s.schedule .hostMemWrite s.event
    else if s.foreignBlock a data.length then (if whole then s else s.recordError a).replyWith .error
    else if s.opensAll 1#10 a data.length || whole then
      let t := if s.remote a then some s else s.arrive (a / 64 * 64) (Nat.max 64 data.length)
      match t with
      | none => s.defer ⟨.hostMemWrite, s.event⟩
      | some t => (t.homeWrite 1#10 a data false (data.length / 256 + 2)).replyWith .done
    else (s.homeWrite 1#10 a data false (data.length / 256 + 2)).replyWith .error

def execHostMemWrite (s : State) : Host.Outcome State Fault Refusal :=
  happen (s.hostEvent fun s =>
    match s.event with
    | .hostWrite h data => s.hostWrites h data
    | _ => s)

/-- This die caches the line at a location for the host to snoop: host memory in a window with COH 1, or a page of device
memory that the host owns (R355, R365). -/
def State.snoopable (s : State) (loc : Nat) : Bool :=
  spaceOf loc != .host ||
    [Kind.load, Kind.store].any fun kind => (s.hostWindowFor s.core.tenant (loc - hostBase) 1 kind).any s.windowCoherent

/-- A snoop of the host for lines of host memory, and what it then writes there (R184, R355): the sheaves whose sets hold the
lines are squashed, and the lines leave the L1 data cache. Lines that are never cached are not snooped. -/
def State.hostSnoops (s : State) (loc : Nat) (data : List Byte) : State :=
  let n := Nat.max 64 data.length
  match if s.snoopable loc then s.arrive (loc / 64 * 64) (loc % 64 + n) else some s with
  | some t =>
    let t := t.modCore fun c => { c with l1 := c.l1.filter fun l => !(sectorsOf (loc / 64 * 64) (loc % 64 + n)).contains l }
    if spaceOf loc = .host then t.poke loc data false else t
  | none => s.defer ⟨.hostSnoop, s.event⟩

/-- HOST_SNOOP (R184, R355). -/
def execHostSnoop (s : State) : Host.Outcome State Fault Refusal :=
  happen (s.hostEvent fun s =>
    match s.event with
    | .line loc => s.hostSnoops loc []
    | .snoop loc data => s.hostSnoops loc data
    | _ => s)

/-! ### The link and the decoder -/

/-- HOST_LINK_DOWN (R354). -/
def execHostLinkDown (s : State) : Host.Outcome State Fault Refusal := happen (s.modModule fun m => { m with linkUp := false })

/-- HOST_LINK_UP (R354). -/
def execHostLinkUp (s : State) : Host.Outcome State Fault Refusal := happen (s.modModule fun m => { m with linkUp := true })

/-- HDM_DECODER_WRITE (R351): HDMBASE takes the base that the host writes into the decoder. -/
def execHdmDecoderWrite (s : State) : Host.Outcome State Fault Refusal :=
  happen (s.hostEvent fun s =>
    match s.event with
    | .bar _ _ _ v => s.modModule fun m => { m with hdmbase := v }
    | _ => s)

end Sys2Proof.Machine
end

