-- ==== Sys2Proof/Machine/Succession.lean ====
section
/-! DEFINITION. The handoff to a successor kernel: `succ` (R234, R244) and what the core does once it is quiet (R235,
R273). -/

namespace Sys2Proof.Machine

/-! ### The inheritance mask (R234, Table 14.8) -/

def maskStream (b : Q) : Bool := b.getLsbD 53
def maskAcc (b : Q) : Bool := b.getLsbD 52
def maskRegs (b : Q) : Nat := bits b 0 32

/-- The maps of the ranges that a mask uses. -/
def maskMaps (b : Q) : List (Fin 16) :=
  ((upFrom 0 4).filter fun k => b.getLsbD (32 + k)).map fun k => Fin.ofNat 16 (bits b (36 + 4 * k) 4)

/-- The LM range of a map over ADDR 0 (R234): none where the map is invalid or its range leaves the allocation below
the top 12 KiB. -/
def State.inherited (s : State) (m : Nat) : Option (Nat × Nat) :=
  let p := (mapPattern m 0#128).span
  if mapValid m && decide (0 ≤ p.1) && decide (p.2 + 12288 ≤ (s.allocation : Int)) then some (p.1.toNat, p.2.toNat) else none

/-- The ranges of a mask, or cause 0x213. -/
def inheritRanges (b : Q) : List (Fin 16) → Act (List (Nat × Nat))
  | [] => pure []
  | n :: rest => do
    let s ← get
    let off := s.mapOffset n
    if s.allocation < off + 64 then trap 0x213 (q (bits b 0 64)) (q (bits b 64 64))
    else
      let m := ofBytes (← readLm off 64)
      match s.inherited m with
      | none => trap 0x213 (q (bits b 0 64)) (q (bits b 64 64))
      | some r => do
        let l ← inheritRanges b rest
        pure (r :: l)

/-! ### The instruction -/

/-- A task that the dispatcher drew from a stage queue and that has not begun is discarded (R235). -/
def State.dropStaged (s : State) (k : SlotId) : State :=
  let x := s.slot k
  match x.starting, x.ctx.firing with
  | true, some f =>
    if bits f.entry 31 1 = 1 then (s.modSlot k fun x => { x with starting := false }).freeSlot k else s
  | _, _ => s

/-- The handoff begins: dispatch stops, and entries not begun are discarded (R235). -/
def State.beginHandoff (s : State) (h : Handoff) : State :=
  let s := slotIds.foldl State.dropStaged s
  let held := slotIds.filterMap fun k => (s.ctx k).firing.bind Firing.recv
  let s := s.modCore fun c => { c with handoff := some h, ring := [], unplaced := [], received := c.received.filter fun p => held.contains p }
  (s.modCtx h.slot fun c => { c with wait := some ⟨.handoff, c.pc⟩, guarded := none }).scheduleOnce .successorHandoff

/-- The 64 bytes of the header at the address of `succ`'s capability. -/
def readSuccessor (c : Reg) (r : RegIdx) : Act Nat := do
  let v := (← get).view
  let a := addrOf c.bits
  checkCap c r.val [.load, .execute] a 64
  trapIf (a % 64 != 0) 0x101 (q a) (capVal2 r.val false false 64)
  let p ← place v c.bits .load a 64 (capVal2 r.val false false 64)
  let data ← readPlace v p a 64
  pure (ofBytes data)

/-- `succ` (R244): the checks, and the wait until the core is quiet. -/
def execSucc (a b : RegIdx) (s : State) : Host.Outcome State Fault Refusal :=
  perform s do
    let c ← readReg a
    let y ← readBits b
    let at_ ← instrAddr
    trapIf (← myCtx).inTrap 0x20C (q at_)
    let h ← readSuccessor c a
    let s ← get
    let hdr := addrOf c.bits
    trapIf (s.core.kernel.isNone || s.isServer s.core.id || s.core.handoff.isSome || !kernelHeaderValid h || headerAddr c.bits != hdr)
      0x212 (q hdr)
    trapIf (bits y 54 74 != 0) 0x213 (q (bits y 0 64)) (q (bits y 64 64))
    let ranges ← inheritRanges y (maskMaps y)
    let ho : Handoff := ⟨s.cur, c, BitVec.ofNat 512 h, y, ranges, (s.ctx s.cur).guarded⟩
    pure (.lastThen fun s => .ok .gone (s.beginHandoff ho))

/-! ### The handoff (R235) -/

/-- The harrow operations of this core are done (R273). -/
def State.harrowQuiet (s : State) : Bool :=
  s.harrow.work.isEmpty && s.harrow.queue.isEmpty && s.harrow.drains.isEmpty &&
    (s.harrow.slices.get s.sliceNo).load.isNone

/-- What the handoff of slot `k` waits for. -/
def State.coreQuiet (s : State) (k : SlotId) : Bool :=
  (slotIds.all fun j => j == k || ((s.slot j).isFree && !(s.slot j).starting)) &&
  (slotIds.all fun j => fifos.all fun f => ((s.slot j).engine f).taken.isEmpty) && s.harrowQuiet &&
  (portIds.all fun p => !(s.port p).write || (s.port p).undrained == 0) && s.core.outgoing.isEmpty

/-- The fields of the shape, and the tenant, that differ between a kernel and a header (R235). -/
def State.shapeDiff (s : State) (k : Kernel) (h : Nat) : Nat :=
  (k.slots != hdrSlots h).toNat + 2 * (k.lmsize != hdrLmsize h).toNat + 4 * (k.harrow != hdrHarrow h).toNat +
  8 * (k.gang != hdrGang h || k.gw != hdrGw h || k.gh != hdrGh h).toNat + 16 * (hdrTenant h != s.core.tenant).toNat

/-- A range of LM zeroed but for the bytes of `keep`, which are written back with their tags where a whole granule is
kept. -/
def State.zeroOutside (s : State) (keep : List (Nat × Nat)) (n : Nat) : State :=
  let saved := keep.map fun r => (r, s.bytes (s.lm r.1) (r.2 - r.1), (upFrom (r.1 / 16) ((r.2 + 15) / 16 - r.1 / 16)).filter fun g =>
    s.granuleTag (s.lm (16 * g)) && decide (r.1 ≤ 16 * g) && decide (16 * g + 16 ≤ r.2))
  let t := s.zero (s.lm 0) (s.lm 0 + n)
  saved.foldl (fun t x =>
    let t := t.poke (t.lm x.1.1) x.2.1 false
    x.2.2.foldl (fun t g => t.poke (t.lm (16 * g)) (t.bytes (t.lm (16 * g)) 16) true) t) t

/-- The ring entry with which a successor's first firing starts. -/
def firstEntry (k : Kernel) (src : CoreId) : Q := entryBits k.members k.rank k.entry 0 3 false src 0

/-- The ports as the mask keeps them: those of the issuing slot under STREAM. -/
def State.handPorts (s : State) (h : Handoff) : State :=
  (portIds.foldl (fun s p =>
    if maskStream h.mask && (s.port p).owner == some h.slot then s else s.setPort p Port.free) s).refreshStreams

/-- The general registers, engine queues, `fstat` and `frnd` of a slot at a handoff. -/
def Slot.handOver (x : Slot) (keep : Nat) : Slot :=
  let regs := Vector.ofFn fun i : Fin 32 => if keep / 2 ^ i.val % 2 = 1 then x.ctx.regs.get i else Reg.null
  { x.emptyEngines with ctx := { x.ctx with regs := regs, fstat := 0#6, frnd := 0#2 } }

/-- The successor installed and its first firing begun on the issuing slot. A replay in which the `succ` stood ends here, and
its drill buffer is free from now on. DEDUCED (log entry 52). -/
def State.installSuccessor (s : State) (h : Handoff) (old : Kernel) : State :=
  let k := kernelOf h.code.bits h.header.toNat old.origin old.rank old.members
  let s := (s.returnGrant h.slot).releaseDrill h.slot
  let s := slotIds.foldl (fun s j => s.modSlot j fun x => x.handOver (if j = h.slot then maskRegs h.mask else 0)) s
  let s := s.zeroOutside h.ranges k.allocation
  let s := if maskAcc h.mask then s else s.scrubSlice
  let s := s.modCore fun c =>
    { c.takeStage with
      kernel := some k, clsbase := BitVec.ofNat 13 (hdrClsoff h.header.toNat / 32)
      tmbase := BitVec.ofNat 13 (hdrTmoff h.header.toNat / 32), handoff := none, ring := [], unplaced := [], received := [], armed := []
      cf := 0, runs := 0, localRuns := 0, handles := Vector.replicate 16 Handle.reset, wdg := { c.wdg with count := 0 } }
  let s := s.handPorts h
  let f : Firing := ⟨firstEntry k s.core.id, false, none, 0, false⟩
  let s := s.modCtx h.slot fun c => { c.start k false f (maskRegs h.mask) with spec := 0#12 }
  s.lookAtMessages.scheduleOnce .dispatch

/-- The contexts of slots saved in frames of the silo, each with its record; none where a frame is lacking. -/
def State.saveAll (s : State) : List SlotId → Option State
  | [] => some s
  | k :: rest =>
    match s.saveContext k (s.contextOf k) with
    | none => none
    | some (t, n) => (t.record (savedRecord t.core.id k 0x214 n)).saveAll rest

/-- The successor's shape differs: the context of every slot is saved, and the issuing slot takes cause 0x214; where not
every one finds a frame, none is saved and it takes cause 0x00E. DEDUCED (log entry 52). -/
def State.refuseSuccessor (s : State) (h : Handoff) (diff : Nat) : State :=
  let s := s.modCore fun c => { c with handoff := none }
  let s := s.modCtx h.slot fun c => { c with wait := none, guarded := h.guard }
  let c := s.ctx h.slot
  match s.saveAll slotIds with
  | none => s.raise h.slot 4 0x00E 0#128 1#128
  | some t =>
    let t := t.modCtx h.slot fun x => { x with handler := true, code := c.code, level := c.level, guarded := h.guard }
    t.raise h.slot 4 0x214 (q (addrOf h.code.bits)) (q diff)

/-- SUCCESSOR_HANDOFF (R235): tried again until the core is quiet and the issuing slot stands in its wait. -/
def State.handOff (s : State) : State :=
  match s.core.handoff, s.core.kernel with
  | some h, some k =>
    let stands := match (s.ctx h.slot).wait with
      | some w => w.wait == .handoff
      | none => false
    if stands && s.coreQuiet h.slot then
      let diff := s.shapeDiff k h.header.toNat
      if diff = 0 then s.installSuccessor h k else s.refuseSuccessor h diff
    else s.scheduleOnce .successorHandoff
  | _, _ => s

def execSuccessorHandoff (s : State) : Host.Outcome State Fault Refusal := happen s.handOff

end Sys2Proof.Machine
end

