-- ==== Sys2Proof/Machine/Trust.lean ====
section
/-! DEFINITION. The identity of the module (R371), the enclosure and its fabric (R378 to R382, R386), enclaves and the Stile's
switch of a cluster (R376, R377), the handover of a context to another module (R383, R387), and the SPDM responder (R372). -/

namespace Sys2Proof.Machine

/-! ### Identity (R371) -/

/-- The bytes of a 256-bit value. -/
def digestBytes (v : BitVec 256) : List Byte := leBytes 32 v.toNat

def Module.register (m : Module) (i : Fin 16) : BitVec 256 := m.meas.get i

def Module.setRegister (m : Module) (i : Fin 16) (v : BitVec 256) : Module := { m with meas := m.meas.set i.val v i.isLt }

/-- CDI0. -/
def Module.cdi0 (m : Module) : BitVec 256 :=
  Config.sha3 (digestBytes Config.deviceSecret ++ digestBytes (m.register 0) ++ digestBytes (m.register 1))

/-- CDI1. -/
def Module.cdi1 (m : Module) : BitVec 256 :=
  Config.sha3 (digestBytes m.cdi0 ++ digestBytes (m.register 2) ++ digestBytes (m.register 3) ++ digestBytes (m.register 4))

/-- "MPXF1-", with which both labels begin. -/
def labelStart : List Byte := [0x4D#8, 0x50#8, 0x58#8, 0x46#8, 0x31#8, 0x2D#8]

/-- "MPXF1-DEVID". -/
def deviceLabel : List Byte := labelStart ++ [0x44#8, 0x45#8, 0x56#8, 0x49#8, 0x44#8]

/-- "MPXF1-ALIAS". -/
def aliasLabel : List Byte := labelStart ++ [0x41#8, 0x4C#8, 0x49#8, 0x41#8, 0x53#8]

/-- The DeviceID seed. -/
def deviceSeed : BitVec 256 := Config.sha3 (deviceLabel ++ digestBytes Config.deviceSecret)

/-- The Alias seed. -/
def Module.aliasSeed (m : Module) : BitVec 256 := Config.sha3 (aliasLabel ++ digestBytes m.cdi1)

/-- The measurement blocks that the module reports and that the Alias certificate carries: registers 0 to 4. -/
def Module.measured (m : Module) : List (BitVec 256) := m.meas.toList.take 5

/-- The Alias certificate: the Alias public key and registers 0 to 4 under the DeviceID key. -/
def Module.certify (m : Module) : Certificate :=
  let key := Config.publicKey m.aliasSeed
  ⟨key, m.measured, Config.signature deviceSeed (Config.sha3 ((key :: m.measured).map digestBytes).flatten)⟩

/-- CDI1 and the Alias certificate computed, if they are not yet. -/
def Module.identify (m : Module) : Module :=
  match m.identity with
  | some ⟨d, c, none, _⟩ => { m with identity := some ⟨d, c, some m.cdi1, some m.certify⟩ }
  | _ => m

def Certificate.bytes (c : Certificate) : List Byte := ((c.aliasKey :: c.registers ++ [c.signature]).map digestBytes).flatten

/-- The chain of certificate slot 0 (Table 26.2): Strelcia's root, DeviceID, and Alias once it is computed. PRESUMED (log
entry 21). -/
def Module.chain (m : Module) : List Byte :=
  Config.rootCertificate ++ Config.deviceCertificate ++ ((m.identity.bind Identity.aliasCert).map Certificate.bytes).getD []

/-! ### Fabric links (R379) -/

def State.setLink (s : State) (i : Nat) (l : Link) : State :=
  s.modModule fun m => { m with links := Table.set Link.fresh m.links i l }

/-- The record of a link (R385). -/
def State.linkRecord (s : State) (i cause : Nat) : State := s.record { handle := i, origin := 0#13, source := 7, cause := cause }

/-! ### Handovers (R383, R387) -/

/-- A frame scrubbed (Table 26.6). -/
def State.scrubFrame (s : State) (n : Nat) : State := s.modDie fun d => { d with frames := d.frames.filter fun x => x.1 != n }

/-- A frame lost. -/
def State.loseHandover (s : State) (n : Nat) : State :=
  match s.handover n with
  | some h => if h.state = .failedKeysErased then (s.setHandover n { h with state := .lost }).scrubFrame n else s
  | none => s

/-- The event of a frame. -/
def State.frameEvent (s : State) (f : Nat → Fin 64 → State) : State :=
  match s.event with
  | .transfer n p => f n p
  | _ => s

/-- The event of a signed answer for a frame. -/
def State.signedEvent (s : State) (f : Nat → Handover → State) : State :=
  match s.event with
  | .signed n nonce ok =>
    match s.handover n with
    | some h => if ok && h.nonce == nonce then f n h else s
    | none => s
  | _ => s

/-- What the digest of a frame is over: all of it, wherever it stands. -/
def Frame.content (f : Frame) : Frame := { f with spilled := false }

/-- HANDOVER_SEAL (R383): a frame of this die's silo sealed under a handover key, for a member of the enclosure, while the
frame can still be opened. -/
def execHandoverSeal (s : State) : Host.Outcome State Fault Refusal :=
  happen (s.frameEvent fun n p =>
    match s.frame n with
    | none => s
    | some f =>
      if s.isMember p.val = false ∨ s.handedOver n = true ∨ s.keysHeld n = false then s
      else
        let e := s.module.enclaves.find? fun e => some (e.key, e.epoch) == f.enclave
        s.tick.setHandover n
          { state := .sealed, sealedFrame := f.content, peer := p, nonce := Config.nonce s.fresh
            tenant := (e.map Enclave.tenant).getD ((f.home.map Prod.snd).getD 0#12), meas := (e.map Enclave.meas).getD 0#256 })

/-- HANDOVER_SENT (R383). -/
def execHandoverSent (s : State) : Host.Outcome State Fault Refusal :=
  happen (s.frameEvent fun n _ =>
    match s.handover n with
    | some h => if h.state = .sealed then s.setHandover n { h with state := .sent } else s
    | none => s)

/-- HANDOVER_CONFIRM (R383, R387). -/
def execHandoverConfirm (s : State) : Host.Outcome State Fault Refusal :=
  happen (s.signedEvent fun n h =>
    if h.state = .sent then (s.setHandover n { h with state := .confirmed }).scrubFrame n else s)

/-- HANDOVER_FAIL (R383). -/
def execHandoverFail (s : State) : Host.Outcome State Fault Refusal := happen (s.frameEvent fun n _ => s.failHandover n)

/-- HANDOVER_REFUSE (R383). -/
def execHandoverRefuse (s : State) : Host.Outcome State Fault Refusal := happen (s.frameEvent fun n _ => s.loseHandover n)

/-! ### Enclaves (R376) -/

/-- An identifier of 2 to 1,023 that no enclave has, from a place on. -/
def freeKeyFrom (used : List Nat) : Nat → Nat → Option Nat
  | 0, _ => none
  | fuel + 1, n =>
    let k := 2 + n % 1022
    if used.contains k then freeKeyFrom used fuel (n + 1) else some k

/-- A new enclave with a fresh key, where an identifier is free; it has no cluster yet. Its measurement is reported under the
signature of the Alias key. -/
def State.newEnclave (s : State) (t : BitVec 12) (meas : BitVec 256) : Option (State × Enclave) :=
  (freeKeyFrom (s.module.enclaves.map fun e => e.key.toNat) 1022 (Config.enclaveKey s.fresh)).map fun k =>
    let e : Enclave := ⟨BitVec.ofNat 10 k, t, meas, Config.signature s.module.aliasSeed meas, none, s.module.epoch + 1⟩
    (s.tick.modModule fun m => { m.identify with enclaves := m.enclaves ++ [e], epoch := m.epoch + 1 }, e)

/-- ENCLAVE_CREATE (R376): one enclave is one tenant. -/
def execEnclaveCreate (s : State) : Host.Outcome State Fault Refusal :=
  happen (match s.event with
    | .enclave t meas =>
      if s.module.enclaves.any fun e => e.tenant == t then s else ((s.newEnclave t meas).map Prod.fst).getD s
    | _ => s)

/-- The seal of a block whose key is discarded: no identifier opens it. DEDUCED (log entry 35). -/
def deadSeal : Nat := 2048

/-- An identifier released and its key discarded: blocks sealed under it open no more, and bytes that wait to be written
back under it are lost. -/
def State.endEnclave (s : State) (k : BitVec 10) : State :=
  if s.module.enclaves.any fun e => e.key == k then
    let s := s.modModule fun m => { m with enclaves := m.enclaves.filter fun e => e.key != k }
    let s := s.modDie fun d => { d with copies := d.copies.filter fun c => !(c.2.dirty != 0#32 && c.2.key == k) }
    { s with seals := s.seals.map fun e => if e.2 = 1 + k.toNat then (e.1, deadSeal) else e }
  else s

/-- ENCLAVE_END (R376). -/
def execEnclaveEnd (s : State) : Host.Outcome State Fault Refusal :=
  happen (match s.event with
    | .key k => s.endEnclave k
    | _ => s)

/-- A frame written into the silo; where that makes one too many there, the one written least recently is spilled (R291). -/
def State.intoSilo (s : State) (n : Nat) (f : Frame) : State :=
  s.modDie fun d =>
    let l := (d.frames.filter fun x => x.1 != n) ++ [(n, { f with spilled := false })]
    { d with frames := if s.siloFrames < (l.filter fun x => !x.2.spilled).length then spillFirst l else l }

/-- HANDOVER_AUTHORISE (R387): the frame, where it is the one that the digest is over, is sealed under a new enclave into the
silo and resumes there. -/
def State.authorise (s : State) (n : Nat) (h : Handover) : State :=
  match s.frame n with
  | none => s
  | some f =>
    if h.state ≠ .failedKeysErased ∨ f.content ≠ h.sealedFrame then s
    else
      match s.newEnclave h.tenant h.meas with
      | none => s
      | some (t, e) => (t.setHandover n { h with state := .resumed }).intoSilo n { f with enclave := some (e.key, e.epoch) }

def execHandoverAuthorise (s : State) : Host.Outcome State Fault Refusal := happen (s.signedEvent fun n h => s.authorise n h)

/-! ### The Stile's switch of a cluster (R377) -/

/-- Every slot of the cluster is free or saved. -/
def State.allFree (s : State) : Bool :=
  (slotIds.all fun k => (s.slot k).isFree && !(s.slot k).starting) &&
    coreIds.all fun i => s.sibling i.val == s.core.id || !s.neighbourBusy i

/-- The one owner that windows are for: the identifier 1 where none is enabled (R375). -/
def windowOwner (w : List Q) : Option Nat :=
  match ((w.take 16).filter fun x => x.getLsbD 3).map fun x => bits x 56 10 with
  | [] => some 1
  | k :: rest => if rest.all (· == k) then some k else none

/-- The cluster can pass to an identifier: to 1, or to an enclave that has no other cluster, where no core is a server core
(R376). -/
def State.mayOwn (s : State) (k : Nat) : Bool :=
  k == 1 || (coreIds.all (fun i => !s.isServer (s.sibling i.val)) &&
    s.module.enclaves.any fun e => e.key.toNat == k && (e.cluster == none || e.cluster == some s.clusterNo))

/-- What the switch waits for. -/
def State.clusterQuiet (s : State) : Bool :=
  (slotIds.all fun j => fifos.all fun f => ((s.slot j).engine f).taken.isEmpty) && s.harrowQuiet &&
    (portIds.all fun p => !(s.port p).write || (s.port p).undrained == 0) && s.core.outgoing.isEmpty && s.core.arrived.isEmpty

/-- The cluster passes to an identifier. -/
def State.giveCluster (s : State) (k : Nat) : State :=
  s.modModule fun m =>
    { m with
      enclaves := m.enclaves.map fun e =>
        if e.key.toNat = k then { e with cluster := some s.clusterNo }
        else if e.cluster = some s.clusterNo then { e with cluster := none }
        else e }

/-- Steps 2 to 7 of R377 for this core, its row and its cluster; the vectors are among the registers of Table 5.10. DEDUCED (log entry 35). -/
def State.switchCluster (s : State) (w : List Q) : State :=
  let s := s.dropTranslations fun _ => true
  let s := slotIds.foldl (fun s k => s.modSlot k fun _ => Slot.reset) s
  let s := s.modCore fun c =>
    { c with
      ports := Vector.replicate 8 Port.free, handles := Vector.replicate 16 Handle.reset, drillOwner := none
      layouts := Vector.replicate 8 0#128, stg := 0#4, stgNext := none, pkey := 0#32, tenant := 0#12
      kernel := none, ring := [], unplaced := [], received := [], armed := [], farDecs := [], l1 := []
      pwin := Vector.ofFn fun i => w.getD i.val 0#128 &&& q windowMask }
  let s := coreIds.foldl (fun s i => s.zeroLm (s.sibling i.val)) s
  let s := s.zero (cmLoc s.core.id 0) (cmLoc s.core.id 0 + 2 ^ 22)
  let s := s.modHarrow fun h => { h with cells := [], slices := h.slices.map Slice.cleared, flags := 0#6 }
  s.modCluster fun c => { c with tenant := none, cores := Vector.replicate 16 ⟨0#4, none, false, false⟩ }

/-- CLUSTER_SWITCH (R376, R377): to windows of one owner, only when every slot is free or saved, once the units are quiet. -/
def execClusterSwitch (s : State) : Host.Outcome State Fault Refusal :=
  happen (match s.event with
    | .windows w =>
      match (windowOwner w).filter s.mayOwn with
      | none => s
      | some k =>
        if s.allFree = false then s.tick
        else if s.clusterQuiet then (s.switchCluster w).giveCluster k
        else s.tick.schedule .clusterSwitch s.event
    | _ => s)

/-! ### The enclosure (R381, R386) -/

/-- MEMBERS written. -/
def State.setMembers (s : State) (v : BitVec 64) : State := s.setSysReg encMemb v

/-- The module leaves: FORMED 0, a barrier that stands ended, the keys discarded, every outstanding request failed, and every
frame that only a peer's answer could release lost. -/
def State.leaveEnclosure (s : State) : State :=
  let s := ((s.setStat 1 false).setStat 2 false).setMembers (BitVec.ofNat 64 (2 ^ s.selfPeer))
  let s := (s.failStores fun _ => true).modModule fun m =>
    { m with links := [], barrier := false, dissolving := false, signals := [] }
  s.module.handovers.foldl (fun s h => (s.failHandover h.1).loseHandover h.1) s

/-- A collective that a leaving peer left waiting is looked at again (R382). -/
def State.retryCollectives (s : State) : State :=
  slotIds.foldl (fun s k =>
    match s.taken k .e3 with
    | some c => s.schedule (commandEvent .e3 (headerOpc c.header)) (.collective k [])
    | none => s) s

/-- The switch to the next generation: MEMBERS, GEN and the links. -/
def State.nextGeneration (s : State) : State :=
  let next := if s.module.dissolving then BitVec.ofNat 64 (2 ^ s.selfPeer) else s.sysReg encNext
  let gone := (s.peersIn (s.sysReg encMemb)).filter fun i => !next.getLsbD i
  let s := gone.foldl State.failPeer s
  let stat := (s.sysReg encStat).toNat
  let s := s.setSysReg encStat (BitVec.ofNat 64 ((s.generation + 1) % 2 ^ 16 * 2 ^ 48 + stat % 2 ^ 48))
  let s := ((s.setMembers next).setStat 1 true).setStat 2 false
  let leaving := s.module.dissolving
  let s := s.modModule fun m => { m with links := [], barrier := false, dissolving := false, signals := [] }
  (if leaving then s.leaveEnclosure else s).retryCollectives

/-- Every peer that was sent MARK has sent its own, or has failed or left since, and has answered every request sent before. -/
def State.barrierMet (s : State) : Bool :=
  s.module.signals.all fun x =>
    !x.2 || s.peerCut x.1 || ((s.link x.1).mark && !s.module.inFlight.any fun y => y.peer == x.1)

/-- REKEY_SWITCH (R381). -/
def execRekeySwitch (s : State) : Host.Outcome State Fault Refusal :=
  happen (if s.module.barrier then (if s.barrierMet then s.nextGeneration else s.schedule .rekeySwitch) else s)

/-- A link carries what a member sends: it is in service, and a fabric port is enabled (R379, Table 26.7). -/
def State.carries (s : State) (i : Nat) : Bool := !s.peerCut i

/-- MARK_RECEIVE (R381). -/
def execMarkReceive (s : State) : Host.Outcome State Fault Refusal :=
  happen (match s.event with
    | .peer i => if s.carries i.val then s.setLink i.val { s.link i.val with mark := true } else s
    | _ => s)

/-- REMOVE_RECEIVE (R386). -/
def execRemoveReceive (s : State) : Host.Outcome State Fault Refusal :=
  happen (match s.event with
    | .peer i =>
      if s.carries i.val then
        let left := s.sysReg encMemb &&& ~~~BitVec.ofNat 64 (2 ^ i.val)
        let s := ((s.setMembers left).failPeer i.val).setLink i.val { s.link i.val with out := true }
        (if left = BitVec.ofNat 64 (2 ^ s.selfPeer) then s.leaveEnclosure else s).retryCollectives
      else s
    | _ => s)

/-- A peer answers the oldest store that it owes an answer. -/
def State.answerStore (s : State) (i : Nat) : State :=
  s.modModule fun m => { m with inFlight := m.inFlight.eraseP fun x => x.peer == i }

/-- FABRIC_PACKET_RECEIVE (R379, R381): a packet of an earlier generation is recorded whoever sent it; of a member's, the next
in sequence with a valid tag is accepted, and any other takes its link out of service, and the peer counts as failed. -/
def State.receivePacket (s : State) (i : Nat) (gen seqNo : Nat) (ok answers : Bool) : State :=
  let l := s.link i
  if s.module.fusedPorts = 0#16 then s
  else if gen < s.generation then s.linkRecord i 0x388
  else if s.carries i = false then s
  else if gen = s.generation ∧ seqNo = l.seqNo ∧ ok = true then
    let s := s.setLink i { l with seqNo := l.seqNo + 1 }
    if answers then s.answerStore i else s
  else (((s.setLink i { l with out := true }).linkRecord i 0x389).failPeer i).retryCollectives

def execFabricPacketReceive (s : State) : Host.Outcome State Fault Refusal :=
  happen (match s.event with
    | .packet i gen n ok answers => s.receivePacket i.val gen.toNat n ok answers
    | _ => s)

/-! ### SPDM (R372) -/

/-- The responder answers; before the release it answers nothing. -/
def State.spdmAnswer (s : State) (f : State → State × SpdmAnswer) : State :=
  if s.answers then
    let (t, a) := f s
    t.modModule fun m => { m with spdm := some a }
  else s

/-- A request that needs the negotiation to have come to a step (SPDM 1.3). PRESUMED (log entry 21). -/
def State.negotiatedTo (s : State) (n : Nat) (f : State → State × SpdmAnswer) : State :=
  s.spdmAnswer fun s => if n ≤ s.module.negotiated then f s else (s, .unexpectedRequest)

/-- The negotiation goes on to a step. -/
def State.negotiateTo (s : State) (n : Nat) (a : SpdmAnswer) : State × SpdmAnswer :=
  (s.modModule fun m => { m with negotiated := n }, a)

/-- The signature of the Alias key over the measurements and a nonce. -/
def State.signed (s : State) (nonce : BitVec 256) : BitVec 256 :=
  Config.signature s.module.aliasSeed (Config.sha3 ((s.module.measured.map digestBytes).flatten ++ digestBytes nonce))

/-- CDI1 and the Alias seed are computed (R371). -/
def State.aliasKnown (s : State) : Bool := s.module.identity.any fun x => x.cdi1.isSome

/-- A request whose answer the Alias key signs: not before the key is computed. PRESUMED (log entry 21). -/
def State.signedTo (s : State) (f : State → State × SpdmAnswer) : State :=
  s.negotiatedTo 3 fun s => if s.aliasKnown then f s else (s, .unexpectedRequest)

/-- A request of a session. -/
def State.sessionEvent (s : State) (f : State → Session → State × SpdmAnswer) : State :=
  match s.event with
  | .session id =>
    s.negotiatedTo 3 fun s =>
      match s.module.sessions.find? fun x => x.id == id with
      | some x => f s x
      | none => (s, .invalidSession id)
  | _ => s

def State.setSession (s : State) (x : Session) : State :=
  s.modModule fun m => { m with sessions := m.sessions.map fun y => if y.id = x.id then x else y }

def execSpdmGetVersion (s : State) : Host.Outcome State Fault Refusal :=
  happen (s.spdmAnswer fun s => (s.modModule fun m => { m with sessions := [] }).negotiateTo 1 .version)

def execSpdmGetCapabilities (s : State) : Host.Outcome State Fault Refusal :=
  happen (s.negotiatedTo 1 fun s => s.negotiateTo 2 .capabilities)

def execSpdmNegotiateAlgorithms (s : State) : Host.Outcome State Fault Refusal :=
  happen (s.negotiatedTo 2 fun s => s.negotiateTo 3 (.algorithms [.mlDsa44, .sha3, .mlKem768, .aes256Gcm]))

def execSpdmGetDigests (s : State) : Host.Outcome State Fault Refusal := 
  happen (s.negotiatedTo 3 fun s => (s, .digests (Config.sha3 s.module.chain)))

def execSpdmGetCertificate (s : State) : Host.Outcome State Fault Refusal := 
  happen (s.negotiatedTo 3 fun s => (s, .certificate s.module.chain))

/-- The nonce of a request. -/
def State.requestNonce (s : State) : BitVec 256 :=
  match s.event with
  | .nonce n => n
  | _ => 0#256

def execSpdmChallenge (s : State) : Host.Outcome State Fault Refusal :=
  happen (s.signedTo fun s => (s, .challengeAuth s.requestNonce (s.signed s.requestNonce)))

def execSpdmGetMeasurements (s : State) : Host.Outcome State Fault Refusal :=
  happen (s.signedTo fun s => (s, .measurements s.module.measured (s.signed s.requestNonce)))

def execSpdmKeyExchange (s : State) : Host.Outcome State Fault Refusal :=
  happen (s.negotiatedTo 3 fun s =>
    let id := Config.sessionNumber s.fresh
    (s.tick.modModule fun m => { m with sessions := m.sessions.filter (fun x => x.id != id) ++ [⟨id, false, 0⟩] }, .keyExchange id))

def execSpdmFinish (s : State) : Host.Outcome State Fault Refusal :=
  happen (s.sessionEvent fun s x => (s.setSession { x with secured := true }, .finish x.id))

/-- A request within a session whose handshake FINISH has closed. -/
def State.securedEvent (s : State) (f : State → Session → State × SpdmAnswer) : State :=
  s.sessionEvent fun s x => if x.secured then f s x else (s, .unexpectedRequest)

def execSpdmKeyUpdate (s : State) : Host.Outcome State Fault Refusal :=
  happen (s.securedEvent fun s x => (s.setSession { x with updates := x.updates + 1 }, .keyUpdate x.id))

def execSpdmHeartbeat (s : State) : Host.Outcome State Fault Refusal :=
  happen (s.securedEvent fun s x => (s, .heartbeat x.id))

def execSpdmEndSession (s : State) : Host.Outcome State Fault Refusal :=
  happen (s.securedEvent fun s x =>
    (s.modModule fun m => { m with sessions := m.sessions.filter fun y => y.id != x.id }, .endSession x.id))

def execSpdmUnsupportedRequest (s : State) : Host.Outcome State Fault Refusal :=
  happen (match s.event with
    | .request code => s.spdmAnswer fun s => (s, .unsupportedRequest code)
    | _ => s)

end Sys2Proof.Machine
end

