-- ==== Sys2Proof/Machine/Bringup.lean ====
section
/-! DEFINITION. Reset and bring-up (R369 to R371, R388, R389), the thermal limits (R396), and the uncorrectable memory
error (R309). -/

namespace Sys2Proof.Machine

/-! ### Module reset (R388) -/

/-- What a module reset leaves: the state right after reset, with the coordinates of the core, the fused limits, what
stands outside the module, and the count of free values. DESIGN CHOICE (log entry 5). -/
def State.resetModule (s : State) : State :=
  { State.reset with
    core := { Core.reset with id := s.core.id }
    mem := s.mem.filter fun e =>
      match spaceOf e.1 with
      | .host | .peer | .storage => true
      | _ => false
    module :=
      { Module.reset with
        fusecap := s.module.fusecap, pcap := s.module.fusecap, fusedHvtop := s.module.fusedHvtop
        fusedWindows := s.module.fusedWindows, fusedPorts := s.module.fusedPorts, linkUp := s.module.linkUp }
    fresh := s.fresh }

/-- MODULE_RESET (R388). -/
def execModuleReset (s : State) : Host.Outcome State Fault Refusal := happen s.resetModule

/-! ### The release (R369, R371) -/

/-- The fused limits of Table 26.7 other than the UDS, each a little-endian 64-bit value in the order of the table. -/
def Module.fuses (m : Module) : List Byte :=
  leBytes 8 m.fusecap ++ leBytes 8 m.fusedPorts.toNat ++ leBytes 8 m.fusedWindows ++ leBytes 8 m.fusedHvtop

/-- A slot begins code that no task brings, at a level: the boot firmware, the system image. -/
def Ctx.begun (c : Ctx) (l : Level) (code : Q) : Ctx := { c with level := l, handler := true, code := ⟨code, true⟩ }

/-- The boot firmware begins on core (0,0,0), and nowhere else (R388). DESIGN CHOICE (log entry 42). -/
def State.boot (s : State) : State := if s.core.id = 0#13 then s.modCtx 0 fun c => c.begun .monitor Config.bootCode else s

/-- ROT_RELEASE (R369, R388, R397): not below the minimum flow; measurements after the release are ignored. -/
def State.release (s : State) (flowOk : Bool) (firmware stile image : BitVec 256) : State :=
  if s.module.phase = .inReset ∧ flowOk = true then
    (s.modModule fun m =>
      let m := (((m.setRegister 0 (Config.sha3 m.fuses)).setRegister 1 firmware).setRegister 2 stile).setRegister 3 image
      { m with phase := .released, identity := some ⟨deviceSeed, m.cdi0, none, none⟩ }).boot
  else s

def execRotRelease (s : State) : Host.Outcome State Fault Refusal :=
  happen (match s.event with
    | .release ok a b c => s.release ok a b c
    | _ => s)

/-- MEASUREMENT_REGISTER_4_WRITE (R370): by the boot firmware, before it starts the Stile; a second write is ignored. -/
def execMeasurementRegister4Write (s : State) : Host.Outcome State Fault Refusal :=
  happen (match s.event with
    | .digest v =>
      if s.module.phase = .released ∧ s.module.meas4 = false then
        s.modModule fun m => { m.setRegister 4 v with meas4 := true }.identify
      else s
    | _ => s)

/-! ### The start of the Stile (R389) -/

/-- At least one server core per die (R23). -/
def serversValid (l : List CoreId) : Bool := (upFrom 0 8).all fun d => l.any fun c => dieOf c == d

/-- Silo sizes in MiB (R16). -/
def siloValid (n : Nat) : Bool := n % 16 == 0 && decide (16 ≤ n) && decide (n ≤ 256)

def Module.hvtopValid (m : Module) (n : Nat) : Bool := decide (1 ≤ n) && decide (n ≤ 1279) && decide (n ≤ m.fusedHvtop)

/-- Where the ownership table begins (R351). -/
def ownershipTable : Nat := 0x13FFC000000

/-- A spill area, against the HVTOP and the silo in use. -/
def spillValid (hvtop silo : Nat) (p : Nat × Nat) : Bool :=
  p.1 % 8192 == 0 && p.2 % 8192 == 0 && decide (hvtop * 2 ^ 30 ≤ p.1) && decide (p.1 + p.2 ≤ ownershipTable) &&
    decide (p.2 / 8192 ≤ 65536 - silo * 128)

/-- Two areas, as base and length, share a byte; one of length 0 holds none. -/
def overlaps (p r : Nat × Nat) : Bool := p.2 != 0 && r.2 != 0 && decide (p.1 < r.1 + r.2) && decide (r.1 < p.1 + p.2)

/-- The spill area written for a die, where it keeps its limits and overlaps none that is written for another die. -/
def spillOf (x : Settings) (hvtop silo die : Nat) : Option (Nat × Nat) :=
  ((x.spills.find? fun e => e.1.val == die).map Prod.snd).filter fun p =>
    spillValid hvtop silo p && !x.spills.any fun e => e.1.val != die && overlaps p e.2

/-- The row map written for a slice of this row, where it is one of 64 distinct working physical rows of 66 (R274). -/
def mapOf (x : Settings) (p : Fin 8) : Option (List Nat) :=
  ((x.maps.find? fun e => e.1 == p).map Prod.snd).filter fun l =>
    l.length == 64 && decide l.Nodup && l.all fun r => decide (r < 66) && Config.rowWorks p.val r

/-- The settings that step 5 replaces, from those that are good (R389). -/
def replacedOf (good : List (Setting × Bool)) : List Setting := (good.filter fun e => !e.2).map Prod.fst

/-- PCAP as step 3 wrote it: a setting of the firmware, or a store to the register. -/
def Module.capWritten (m : Module) (x : Settings) : Option Nat :=
  (x.pcap.orElse fun _ => m.settings.pcap).filter fun w => decide (1000 ≤ w) && decide (w ≤ m.fusecap)

/-- The settings of step 3 checked and fixed for a die (Table 28.6), and the replacements that are reported. -/
def Module.settle (m : Module) (die : Nat) (x : Settings) : Module :=
  let servers := x.servers.filter serversValid
  let hvtop := x.hvtop.filter m.hvtopValid
  let silo := x.silo.filter siloValid
  let top := hvtop.getD (Nat.min 1279 m.fusedHvtop)
  let spill := spillOf x top (silo.getD 64) die
  let cap := m.capWritten x
  { m with
    settings := x, servers := servers, silo := silo.getD 64, hvtop := top, spill := spill.getD (0, 0), pcap := cap.getD m.fusecap
    replaced := replacedOf ([(Setting.servers, servers.isSome), (Setting.silo, silo.isSome), (Setting.hvtop, hvtop.isSome),
      (Setting.spill, spill.isSome), (Setting.pcap, cap.isSome)] ++ sliceIds.map fun p => (Setting.rowMap p, (mapOf x p).isSome))
    phase := .started }.identify

/-- The row maps of the row's slices (R274, R390): one that is missing or breaks its limits makes its slice unavailable. -/
def Harrow.mapRows (h : Harrow) (x : Settings) : Harrow :=
  { h with
    slices := Vector.ofFn fun p =>
      { h.slices.get p with
        unmapped := (mapOf x p).isNone, spare := ((mapOf x p).getD []).any fun r => decide (64 ≤ r) } }

/-- The vectors of the Stile and of the system image on a slot (R388, R403). DESIGN CHOICE (log entry 42). -/
def Ctx.governed (c : Ctx) : Ctx :=
  { c with
    image := true, mx := { c.mx with vec := ⟨Config.stileVector, true⟩ }, sx := { c.sx with vec := ⟨Config.imageVector, true⟩ } }

/-- STILE_START (R388, R389): the settings are fixed, the boot firmware ends, the Stile and the handlers of the system image
stand on every core, and a server core begins the system image. -/
def State.startStile (s : State) (x : Settings) : State :=
  if s.module.phase = .released then
    let s := (s.modModule fun m => m.settle s.dieNo x).modHarrow fun h => h.mapRows x
    let s := if s.core.id = 0#13 then (s.commit 0).freeSlot 0 else s
    let s := slotIds.foldl (fun s k => s.modCtx k Ctx.governed) s
    if s.isServer s.core.id then s.modCtx 0 fun c => c.begun .supervisor Config.imageCode else s
  else s

def execStileStart (s : State) : Host.Outcome State Fault Refusal :=
  happen (match s.event with
    | .settings x => s.startStile x
    | _ => s.startStile s.module.settings)

/-! ### Thermal limits (R396) -/

/-- An event of a die while the clocks run. -/
def State.dieEvent (s : State) (f : Nat → State) : State :=
  match s.event with
  | .die d => if s.answers then f d.val else s
  | _ => s

/-- THERMAL_THROTTLE: grants held are kept, no new one is made. -/
def execThermalThrottle (s : State) : Host.Outcome State Fault Refusal :=
  happen (s.dieEvent fun d =>
    if d = s.dieNo then s.modDie fun x => { x with throttle := true }
    else s.modModule fun m => { m with throttled := d :: m.throttled.filter (· != d) })

/-- THERMAL_RECOVER. -/
def execThermalRecover (s : State) : Host.Outcome State Fault Refusal :=
  happen (s.dieEvent fun d =>
    if d = s.dieNo then (s.modDie fun x => { x with throttle := false }).scheduleOnce .headlandGrant
    else s.modModule fun m => { m with throttled := m.throttled.filter (· != d) })

/-- THERMAL_TRIP: every clock stops and every state of the module is lost; only a new reset leaves it. DEDUCED (log
entry 36). -/
def execThermalTrip (s : State) : Host.Outcome State Fault Refusal :=
  happen (s.dieEvent fun _ => s.resetModule.modModule fun m => { m with phase := .stopped, tripped := true })

/-! ### An uncorrectable memory error (R309) -/

/-- UNCORRECTABLE_MEMORY_ERROR: the block keeps its uncorrectable check until a whole write. -/
def execUncorrectableMemoryError (s : State) : Host.Outcome State Fault Refusal :=
  happen (match s.event with
    | .line loc => { s with bad := Table.set false s.bad (loc / 256) true }
    | _ => s)

end Sys2Proof.Machine
end

