-- ==== Sys2Proof/Machine/Capability.lean ====
section
/-! DEFINITION. The capability instructions (R117 to R122). -/

namespace Sys2Proof.Machine

/-- A query of a capability's bits: data, zero-extended, tag 0 (R117). -/
def query (d a : RegIdx) (f : Reg → Nat) : Act After := do
  let x ← readReg a
  write128 d (q (f x))
  next

/-- Base and length by R56, 0 where the bounds are malformed (Table 7.7). -/
def baseOf (c : Q) : Nat := if malformed c then 0 else (capBounds c).1.toNat
def lengthOf (c : Q) : Nat := if malformed c then 0 else ((capBounds c).2 - (capBounds c).1).toNat

def execCgetaddr (d a : RegIdx) (s : State) := perform s (query d a fun x => addrOf x.bits)
def execCgetbase (d a : RegIdx) (s : State) := perform s (query d a fun x => baseOf x.bits)
def execCgetlen (d a : RegIdx) (s : State) := perform s (query d a fun x => lengthOf x.bits)
def execCgetperm (d a : RegIdx) (s : State) := perform s (query d a fun x => permOf x.bits)
def execCgettype (d a : RegIdx) (s : State) := perform s (query d a fun x => otypeOf x.bits)
def execCgettag (d a : RegIdx) (s : State) := perform s (query d a fun x => x.tag.toNat)

/-- `cclrtag`: all 128 bits with tag 0. -/
def execCclrtag (d a : RegIdx) (s : State) : Host.Outcome State Fault Refusal :=
  perform s do
    let x ← readReg a
    write128 d x.bits
    next

/-- The trap of a capability instruction: ADDR of the operand `c` in register `r`, and a size (Table 7.8). -/
def capTrapIf (b : Bool) (cause : Nat) (c : Reg) (r : RegIdx) (size : Nat) : Act Unit :=
  trapIf b cause (q (addrOf c.bits)) (capVal2 r.val false false size)

/-- The address of x changed, with the tag kept where the address is representable (R118). -/
def withNewAddr (x : Reg) (a : Nat) : Reg := ⟨withAddr x.bits a, x.tag && representable x.bits a⟩

/-- R118: a result derived from x by one field. -/
def derive (d a : RegIdx) (x r : Reg) : Act After := do
  capTrapIf (x.tag && otypeOf x.bits != 0) 0x181 x a 0
  writeReg d r
  next

/-- The address that an increment gives, mod 2^72. -/
def incremented (x : Reg) (v : Int) : Nat := (((addrOf x.bits : Int) + v) % (2 ^ 72 : Nat)).toNat

def execCsetaddr (d a b : RegIdx) (s : State) : Host.Outcome State Fault Refusal :=
  perform s do
    let x ← readReg a
    let y ← readBits b
    derive d a x (withNewAddr x (bits y 0 72))

def execCincaddr (d a b : RegIdx) (s : State) : Host.Outcome State Fault Refusal :=
  perform s do
    let x ← readReg a
    let y ← readBits b
    derive d a x (withNewAddr x (incremented x (s64 y)))

def execCincaddri (d a : RegIdx) (imm : BitVec 15) (s : State) : Host.Outcome State Fault Refusal :=
  perform s do
    let x ← readReg a
    derive d a x (withNewAddr x (incremented x imm.toInt))

def execCandperm (d a b : RegIdx) (s : State) : Host.Outcome State Fault Refusal :=
  perform s do
    let x ← readReg a
    let y ← readBits b
    derive d a x ⟨withPerm x.bits (permOf x.bits &&& bits y 0 12), x.tag⟩

/-- R119: the bounds of x narrowed to `len` bytes from its address; `exact` asks that they encode exactly. -/
def narrow (d a b : RegIdx) (exact : Bool) : Act After := do
  let x ← readReg a
  let y ← readBits b
  let len := bits y 0 72
  let lo := addrOf x.bits
  let bd := capBounds x.bits
  capTrapIf (!x.tag) 0x180 x a len
  capTrapIf (otypeOf x.bits != 0) 0x181 x a len
  capTrapIf (decide ((lo : Int) < bd.1 ∨ bd.2 < (lo : Int) + len)) 0x185 x a len
  let (e, bl, tl, ex) := capEncode lo (lo + len)
  capTrapIf (exact && !ex) 0x183 x a len
  writeReg d ⟨withBounds x.bits e bl tl lo, true⟩
  next

def execCsetbounds (d a b : RegIdx) (s : State) := perform s (narrow d a b false)
def execCsetboundsx (d a b : RegIdx) (s : State) := perform s (narrow d a b true)

/-- The checks that `cseal` and `cunseal` share: those of the sealing capability y (R120). -/
def checkSealer (y : Reg) (b : RegIdx) (p : Perm) : Act Unit := do
  capTrapIf (!y.tag) 0x180 y b 1
  capTrapIf (otypeOf y.bits != 0) 0x181 y b 1
  capTrapIf (!hasPerm y.bits p) 0x182 y b 1
  let bd := capBounds y.bits
  capTrapIf (decide ((addrOf y.bits : Int) < bd.1 ∨ bd.2 ≤ (addrOf y.bits : Int))) 0x185 y b 1

def execCseal (d a b : RegIdx) (s : State) : Host.Outcome State Fault Refusal :=
  perform s do
    let x ← readReg a
    let y ← readReg b
    capTrapIf (!x.tag) 0x180 x a 1
    capTrapIf (otypeOf x.bits != 0) 0x181 x a 1
    checkSealer y b .seal
    let o := addrOf y.bits
    capTrapIf (decide (o < 1 ∨ 255 < o)) 0x184 y b 1
    writeReg d ⟨withOtype x.bits o, true⟩
    next

def execCunseal (d a b : RegIdx) (s : State) : Host.Outcome State Fault Refusal :=
  perform s do
    let x ← readReg a
    let y ← readReg b
    capTrapIf (!x.tag) 0x180 x a 1
    capTrapIf (otypeOf x.bits == 0) 0x184 x a 1
    checkSealer y b .unseal
    capTrapIf (addrOf y.bits != otypeOf x.bits) 0x184 y b 1
    writeReg d ⟨withOtype x.bits 0, true⟩
    next

def execCtestsub (d a b : RegIdx) (s : State) : Host.Outcome State Fault Refusal :=
  perform s do
    let x ← readReg a
    let y ← readBits b
    writeNat d (x.tag && otypeOf x.bits == 0 && within x.bits y).toNat
    next

def execCbuild (d a b : RegIdx) (s : State) : Host.Outcome State Fault Refusal :=
  perform s do
    let x ← readReg a
    let y ← readBits b
    capTrapIf (!x.tag) 0x180 x a 0
    capTrapIf (otypeOf x.bits != 0) 0x181 x a 0
    writeReg d ⟨y, within x.bits y⟩
    next

end Sys2Proof.Machine
end

