-- ==== Sys2Proof/Machine/Numbers.lean ====
section
/-! DEFINITION. Number formats and exact arithmetic (R29 to R48): values, decoding, the conversion of R40, rounding to
integers (R41), and the operations of IEEE 754-2019 as R39 and R193 give them. -/

namespace Sys2Proof.Machine

/-! ### Values -/

/-- A value: an exact number (−1)^neg × n/d, an infinity, or a NaN that is signalling or quiet. -/
inductive Value where
  | num (neg : Bool) (n d : Nat)
  | inf (neg : Bool)
  | nan (signalling : Bool)
  deriving DecidableEq, Repr, Inhabited

def Value.isNan : Value → Bool
  | .nan _ => true
  | _ => false

def Value.signalling : Value → Bool
  | .nan s => s
  | _ => false

def Value.isZero : Value → Bool
  | .num _ n _ => n == 0
  | _ => false

def Value.negative : Value → Bool
  | .num s _ _ => s
  | .inf s => s
  | .nan _ => false

def Value.neg : Value → Value
  | .num s n d => .num (!s) n d
  | .inf s => .inf (!s)
  | v => v

/-- m × 2^e. -/
def scaled (neg : Bool) (m : Nat) (e : Int) : Value := .num neg (m * 2 ^ e.toNat) (2 ^ (-e).toNat)

/-- m × 10^e. -/
def scaled10 (neg : Bool) (n d : Nat) (e : Int) : Value := .num neg (n * 10 ^ e.toNat) (d * 10 ^ (-e).toNat)

def Value.ofInt (v : Int) : Value := .num (decide (v < 0)) v.natAbs 1

/-- The numerator with its sign. -/
def signedNum (neg : Bool) (n : Nat) : Int := if neg then -(n : Int) else n

/-! ### Formats (Tables 3.1, 3.2, 3.7) -/

/-- The formats of Table 3.1 that results are converted into. -/
inductive Fmt where | f32 | bf16 | e4m3 | e5m2 | e2m1 | dm8
  deriving DecidableEq, Repr, Inhabited

/-- Width in bits. -/
def Fmt.width : Fmt → Nat
  | .f32 => 32
  | .bf16 => 16
  | .e2m1 => 4
  | _ => 8

/-- Fraction bits. -/
def Fmt.frac : Fmt → Nat
  | .f32 => 23
  | .bf16 => 7
  | .e4m3 => 3
  | .e5m2 => 2
  | .e2m1 => 1
  | .dm8 => 0

/-- Exponent bits. -/
def Fmt.exp : Fmt → Nat
  | .f32 | .bf16 => 8
  | .e4m3 => 4
  | .e5m2 => 5
  | .e2m1 => 2
  | .dm8 => 0

def Fmt.bias (f : Fmt) : Nat := 2 ^ (f.exp - 1) - 1

/-- The exponent of the smallest normal: 1 − bias. -/
def Fmt.emin (f : Fmt) : Int := 1 - (f.bias : Int)

def Fmt.hasInf : Fmt → Bool
  | .f32 | .bf16 | .e5m2 => true
  | _ => false

/-- The canonical NaN, where the format has one. -/
def Fmt.canonical : Fmt → Option Nat
  | .f32 => some 0x7FC00000
  | .bf16 => some 0x7FC0
  | .e4m3 => some 0x7F
  | .e5m2 => some 0x7E
  | .e2m1 => none
  | .dm8 => some 0x80

/-- The code of the largest finite magnitude. -/
def Fmt.maxCode : Fmt → Nat
  | .f32 => 0x7F7FFFFF
  | .bf16 => 0x7F7F
  | .e4m3 => 0x7E
  | .e5m2 => 0x7B
  | .e2m1 => 7
  | .dm8 => 3

/-- The largest finite magnitude. -/
def Fmt.maxValue : Fmt → Nat
  | .f32 => (2 ^ 24 - 1) * 2 ^ 104
  | .bf16 => (2 ^ 8 - 1) * 2 ^ 120
  | .e4m3 => 448
  | .e5m2 => 57344
  | .e2m1 => 6
  | .dm8 => 10 ^ 7

/-- The overflow threshold under rne (Table 3.7). -/
def Fmt.ovf : Fmt → Nat
  | .f32 => 2 ^ 128 - 2 ^ 103
  | .bf16 => 2 ^ 128 - 2 ^ 119
  | .e4m3 => 464
  | .e5m2 => 61440
  | .e2m1 => 7
  | .dm8 => 10 ^ 7

def Fmt.saturating : Fmt → Bool
  | .f32 | .bf16 => false
  | _ => true

def Fmt.signBit (f : Fmt) : Nat := f.width - 1

def Fmt.infCode (f : Fmt) : Nat := (2 ^ f.exp - 1) * 2 ^ f.frac

/-! ### DM8 (R33, R34) -/

/-- Fraction bits and the decimal exponents by exponent field, by the number of 0 bits above the marker (Table 3.3). -/
def dm8Layout : Nat → Nat × List Int
  | 0 => (5, [-1, 0])
  | 1 => (4, [-2, 1])
  | 2 => (3, [-3, 2])
  | 3 => (1, [-5, -4, 3, 4])
  | 4 => (0, [-7, -6, 5, 6])
  | 5 => (0, [-8, 7])
  | _ => (0, [-9])

/-- dm8_value(c). -/
def dm8Value (c : Nat) : Value :=
  let s := c / 128 % 2 == 1
  let p := c % 128
  if p = 0 then (if s then .nan false else .num false 0 1)
  else
    let w := bitLength 8 p - 1
    let (f, ds) := dm8Layout (6 - w)
    let x := p % 2 ^ w
    scaled10 s (2 ^ f + 9 * (x % 2 ^ f)) (2 ^ f) (ds.getD (x / 2 ^ f) 0)

/-! ### Decoding -/

/-- The value of a code of a binary format. -/
def Fmt.decode (f : Fmt) (c : Nat) : Value :=
  let s := c / 2 ^ f.signBit % 2 == 1
  let e := c / 2 ^ f.frac % 2 ^ f.exp
  let m := c % 2 ^ f.frac
  match f with
  | .dm8 => dm8Value (c % 256)
  | _ =>
    if e = 2 ^ f.exp - 1 ∧ f.hasInf = true then
      if m = 0 then .inf s
      else .nan ((f == .f32 || f == .bf16) && decide (m < 2 ^ (f.frac - 1)))
    else if f = .e4m3 ∧ c % 128 = 127 then .nan false
    else if e = 0 then scaled s m (f.emin - f.frac)
    else scaled s (2 ^ f.frac + m) ((e : Int) - f.bias - f.frac)

/-- The width in bits of an element type (Table 12.2). -/
def elemBits : ElemType → Nat
  | .i8 | .n8 | .e4m3 | .e5m2 | .dm8 => 8
  | .i16 | .n16 | .bf16 => 16
  | .i32 | .n32 | .f32 => 32
  | .i64 | .n64 => 64
  | .mxf4 => 4

/-- Lanes in an element of 128 bits. -/
def lanesOf (t : ElemType) : Nat := 128 / elemBits t

/-- The format of a floating element type. -/
def fmtOf : ElemType → Fmt
  | .bf16 => .bf16
  | .e4m3 => .e4m3
  | .e5m2 => .e5m2
  | .mxf4 => .e2m1
  | .dm8 => .dm8
  | _ => .f32

def isFloat : ElemType → Bool
  | .f32 | .bf16 | .e4m3 | .e5m2 | .mxf4 | .dm8 => true
  | _ => false

def isSigned : ElemType → Bool
  | .i8 | .i16 | .i32 | .i64 => true
  | _ => false

/-- The integer that a lane of an integer type holds. -/
def laneInt (t : ElemType) (c : Nat) : Int := if isSigned t then signed (elemBits t) c else (c % 2 ^ elemBits t : Nat)

/-- The value of a lane of a type. -/
def laneValue (t : ElemType) (c : Nat) : Value :=
  if isFloat t then (fmtOf t).decode (c % 2 ^ elemBits t) else Value.ofInt (laneInt t c)

/-! ### Rounding -/

/-- The rounding modes of `frnd.MODE` (Table 3.5). -/
abbrev Mode := BitVec 2

/-- Whether a magnitude between two neighbours goes to the upper one: `half` compares its distance from the lower with
half the gap, `tieUp` says where a tie goes. -/
def roundsUp (mode : Mode) (neg : Bool) (half : Ordering) (tieUp : Bool) : Bool :=
  if mode = 0#2 then half == .gt || (half == .eq && tieUp)
  else if mode = 1#2 then false
  else if mode = 2#2 then !neg
  else neg

/-- floor(log2(n/d)) for n > 0. -/
def floorLog2 (n d : Nat) : Int :=
  let e : Int := (bitLength (n.log2 + 2) n : Int) - (bitLength (d.log2 + 2) d : Int)
  if n * 2 ^ (-e).toNat < d * 2 ^ e.toNat then e - 1 else e

/-- n/d over 2^e: the floor, and how twice the remainder compares with the divisor; the last says whether it is
exact. -/
def quotient (n d : Nat) (e : Int) : Nat × Ordering × Bool :=
  let a := n * 2 ^ (-e).toNat
  let b := d * 2 ^ e.toNat
  (a / b, compare (2 * (a % b)) b, a % b == 0)

/-- The neighbours of a magnitude: the lower and upper code, the comparison, exactness. -/
def Fmt.near (f : Fmt) (n d : Nat) : Nat × Nat × Ordering × Bool :=
  match f with
  | .dm8 =>
    let val (c : Nat) : Nat × Nat := match dm8Value c with
      | .num _ a b => (a, b)
      | _ => (0, 1)
    let below (c : Nat) : Bool := (val c).1 * d ≤ n * (val c).2
    let less (c e : Nat) : Bool := (val c).1 * (val e).2 < (val e).1 * (val c).2
    let codes := upFrom 0 128
    let lo := codes.foldl (fun b c => if below c && less b c then c else b) 0
    let hi := codes.foldl (fun b c => if !below c && less c b then c else b) f.maxCode
    let (a, b) := val lo
    let (a', b') := val hi
    if a * d = n * b then (lo, lo, .lt, true)
    else (lo, hi, compare (2 * n * b * b') ((a * b' + a' * b) * d), false)
  | _ =>
    let e := floorLog2 n d
    let q := (if e < f.emin then f.emin else e) - f.frac
    let (m, half, exact) := quotient n d q
    let code := (q - (f.emin - f.frac)).toNat * 2 ^ f.frac + m
    (code, code + 1, half, exact)

/-- The tininess of an inexact result (R40). -/
def Fmt.tiny (f : Fmt) (mode : Mode) (neg : Bool) (n d code : Nat) : Bool :=
  match f with
  | .dm8 => code == 0
  | _ =>
    let e := floorLog2 n d
    if e + 1 < f.emin then true
    else if f.emin ≤ e then false
    else
      let (m, half, exact) := quotient n d (e - f.frac)
      let m := if !exact && roundsUp mode neg half (m % 2 == 1) then m + 1 else m
      m < 2 ^ (f.frac + 1)

/-- A magnitude code with its sign; every DM8 zero is 0x00. -/
def Fmt.pack (f : Fmt) (neg : Bool) (code : Nat) : Nat :=
  if f = .dm8 ∧ code = 0 then 0 else code + neg.toNat * 2 ^ f.signBit

/-- rounds_outward of R40. -/
def roundsOutward (mode : Mode) (neg : Bool) : Bool := mode == 0#2 || (mode == 2#2 && !neg) || (mode == 3#2 && neg)

/-- overflows of R40. -/
def Fmt.overflows (f : Fmt) (mode : Mode) (n d : Nat) : Bool :=
  if mode = 0#2 ∧ f ≠ .dm8 then f.ovf * d ≤ n else f.maxValue * d < n

/-- The result of an overflow. -/
def Fmt.overflowed (f : Fmt) (mode : Mode) (neg : Bool) : Nat × Flags :=
  (f.pack neg (if f.saturating || !roundsOutward mode neg then f.maxCode else f.infCode), Flags.of ||| Flags.nx)

/-- convert(x, fmt, mode) of R40: the code and the flags. -/
def Fmt.convert (f : Fmt) (mode : Mode) : Value → Nat × Flags
  | .nan sig =>
    match f.canonical with
    | some c => (c, flagIf sig Flags.nv)
    | none => (0, Flags.nv)
  | .inf neg => if f.hasInf then (f.pack neg f.infCode, 0#6) else f.overflowed mode neg
  | .num neg n d =>
    if n = 0 then (f.pack neg 0, 0#6)
    else if f.overflows mode n d then f.overflowed mode neg
    else
      let (lo, hi, half, exact) := f.near n d
      if exact then (f.pack neg lo, 0#6)
      else
        let code := if roundsUp mode neg half (lo % 2 == 1 && hi % 2 == 0) then hi else lo
        (f.pack neg code, Flags.nx ||| flagIf (f.tiny mode neg n d code) Flags.uf)

/-- An exact number rounded to an integer, and whether it was inexact. -/
def roundInt (mode : Mode) (neg : Bool) (n d : Nat) : Int × Bool :=
  let (m, half, exact) := quotient n d 0
  let m := if !exact && roundsUp mode neg half (m % 2 == 1) then m + 1 else m
  (signedNum neg m, !exact)

/-- The bounds of an integer element type. -/
def intBounds (t : ElemType) : Int × Int :=
  if isSigned t then (-(2 ^ (elemBits t - 1) : Nat), (2 ^ (elemBits t - 1) : Nat) - 1) else (0, (2 ^ elemBits t : Nat) - 1)

/-- The conversion into an integer type (R41). -/
def toInteger (t : ElemType) (mode : Mode) : Value → Int × Flags
  | .nan _ => (0, Flags.nv)
  | .inf neg => (if neg then (intBounds t).1 else (intBounds t).2, Flags.nv)
  | .num neg n d =>
    let (v, inexact) := roundInt mode neg n d
    let (r, changed) := clamp (intBounds t).1 (intBounds t).2 v
    (r, if changed then Flags.nv else flagIf inexact Flags.nx)

/-! ### Exact arithmetic -/

/-- An exact product; none where it is invalid: an infinity by a zero. NaN operands are not asked here. -/
def Value.times : Value → Value → Option Value
  | .num s n d, .num t m e => some (.num (s != t) (n * m) (d * e))
  | .inf s, .num t m _ => if m = 0 then none else some (.inf (s != t))
  | .num s n _, .inf t => if n = 0 then none else some (.inf (s != t))
  | .inf s, .inf t => some (.inf (s != t))
  | v, _ => some v

/-- Numerator and denominator of an exact sum of the numbers in a list. -/
def sumExact : List Value → Int × Nat
  | [] => (0, 1)
  | .num s n d :: t =>
    let (a, b) := sumExact t
    if n = 0 then (a, b)
    else
      let l := Nat.lcm b d
      (a * (l / b : Nat) + signedNum s n * (l / d : Nat), l)
  | _ :: t => sumExact t

/-- The exact sum of values that are no NaN; none where infinities of both signs meet. An exact zero keeps a common
sign, and is otherwise +0, or −0 in mode rdn, as IEEE 754-2019, 6.3 has it for two operands: the spec gives the sign of no
exact zero of more. DESIGN CHOICE (log entry 63). -/
def sumValues (mode : Mode) (l : List Value) : Option Value :=
  let up := l.any fun v => v == .inf false
  let down := l.any fun v => v == .inf true
  if up && down then none
  else if up then some (.inf false)
  else if down then some (.inf true)
  else
    let (a, b) := sumExact l
    if a ≠ 0 then some (.num (decide (a < 0)) a.natAbs b)
    else if l.all Value.negative && !l.isEmpty then some (.num true 0 1)
    else if l.all fun v => !v.negative then some (.num false 0 1)
    else some (.num (mode == 3#2) 0 1)

/-- A value rounded into a format, an invalid operation giving the canonical NaN with NV. -/
def Fmt.round (f : Fmt) (mode : Mode) : Option Value → Nat × Flags
  | some v => f.convert mode v
  | none => (f.canonical.getD 0, Flags.nv)

/-- The NaN that an operation with a NaN among its operands gives: canonical, NV where one is signalling (R30, R39). -/
def Fmt.quiet (f : Fmt) (l : List Value) : Nat × Flags :=
  (f.canonical.getD 0, flagIf (l.any Value.signalling) Flags.nv)

/-- round(x + y). -/
def Fmt.add (f : Fmt) (mode : Mode) (x y : Value) : Nat × Flags :=
  if x.isNan || y.isNan then f.quiet [x, y] else f.round mode (sumValues mode [x, y])

/-- round(x × y). -/
def Fmt.mul (f : Fmt) (mode : Mode) (x y : Value) : Nat × Flags :=
  if x.isNan || y.isNan then f.quiet [x, y] else f.round mode (x.times y)

/-- round(x × y + z), rounded once; NV for ∞ × 0 even when z is a quiet NaN (R193). -/
def Fmt.fma (f : Fmt) (mode : Mode) (x y z : Value) : Nat × Flags :=
  if x.isNan || y.isNan then f.quiet [x, y, z]
  else
    match x.times y with
    | none => (f.canonical.getD 0, Flags.nv)
    | some p => if z.isNan then f.quiet [z] else f.round mode (sumValues mode [p, z])

/-- round(x / y). -/
def Fmt.div (f : Fmt) (mode : Mode) (x y : Value) : Nat × Flags :=
  if x.isNan || y.isNan then f.quiet [x, y]
  else
    let s := x.negative != y.negative
    match x, y with
    | .inf _, .inf _ => f.round mode none
    | .inf _, _ => f.convert mode (.inf s)
    | _, .inf _ => f.convert mode (.num s 0 1)
    | .num _ n d, .num _ m e =>
      if m = 0 then
        if n = 0 then f.round mode none
        else
          let (c, fl) := f.convert mode (.inf s)
          (c, fl ||| Flags.dz)
      else f.convert mode (.num s (n * e) (d * m))
    | _, _ => f.round mode none

/-- The integer square root, bit by bit from bit `b` down. -/
def isqrt (n : Nat) : Nat → Nat → Nat
  | 0, r => r
  | b + 1, r => isqrt n b (if (r + 2 ^ b) * (r + 2 ^ b) ≤ n then r + 2 ^ b else r)

/-- The square root of n/d, with a half unit far below any format's last place where it is not exact. -/
def sqrtValue (n d : Nat) : Value :=
  let k := 40 + bitLength (d.log2 + 2) d
  let t := n * 4 ^ k / d
  let r := isqrt t (t.log2 / 2 + 2) 0
  let exact := n * 4 ^ k % d == 0 && r * r == t
  .num false (2 * r + (!exact).toNat) (2 ^ (k + 1))

/-- round(√x). -/
def Fmt.sqrt (f : Fmt) (mode : Mode) (x : Value) : Nat × Flags :=
  match x with
  | .nan _ => f.quiet [x]
  | .inf s => if s then f.round mode none else f.convert mode x
  | .num s n d => if n = 0 then f.convert mode x else if s then f.round mode none else f.convert mode (sqrtValue n d)

/-! ### Order -/

/-- The order of two values that are no NaN; −0 equals +0. -/
def Value.order : Value → Value → Ordering
  | .inf s, .inf t => if s = t then .eq else if s then .lt else .gt
  | .inf s, _ => if s then .lt else .gt
  | _, .inf t => if t then .gt else .lt
  | .num s n d, .num t m e => compare (signedNum s n * (e : Int)) (signedNum t m * (d : Int))
  | _, _ => .eq

/-- The order in which −0 lies below +0 (R194). -/
def Value.orderSigned (x y : Value) : Ordering :=
  match x.order y with
  | .eq => if x.negative && !y.negative then .lt else if !x.negative && y.negative then .gt else .eq
  | o => o

/-- min_num and max_num on codes (R194): `keep` says which order keeps the first operand. -/
def Fmt.pick (f : Fmt) (keep : Ordering → Bool) (a b : Nat) : Nat × Flags :=
  let x := f.decode a
  let y := f.decode b
  let nv := flagIf (x.signalling || y.signalling) Flags.nv
  if x.isNan && y.isNan then (f.canonical.getD 0, nv)
  else if x.isNan then (b, nv)
  else if y.isNan then (a, nv)
  else (if keep (x.orderSigned y) then a else b, nv)

def Fmt.minNum (f : Fmt) (a b : Nat) : Nat × Flags := f.pick (fun o => o != .gt) a b
def Fmt.maxNum (f : Fmt) (a b : Nat) : Nat × Flags := f.pick (fun o => o != .lt) a b

/-! ### Values that other chapters name -/

/-- The FP32 image of a DM8 code (R35). -/
def dm8Image (c : Nat) : Nat := (Fmt.f32.convert 0#2 (dm8Value (c % 256))).1

/-- pow10_f32(n) (R44). -/
def pow10F32 (n : Int) : Value := Fmt.f32.decode (Fmt.f32.convert 0#2 (scaled10 false 1 1 n)).1

/-- The value with which an element enters an exact product: DM8 enters as its image (R43, R48). -/
def productValue (t : ElemType) (c : Nat) : Value :=
  match t with
  | .dm8 => Fmt.f32.decode (dm8Image c)
  | _ => laneValue t c

/-- A sum of exact products and an addend, rounded once to FP32: a NaN lane, ∞ × 0 and opposing infinities are invalid
(R48); a NaN addend alone is as in a fused operation (R39). DEDUCED (log entry 30). -/
def dotSum (mode : Mode) (l : List (Value × Value)) (z : Value) : Nat × Flags :=
  if l.any (fun p => p.1.isNan || p.2.isNan) then Fmt.f32.round mode none
  else
    match l.mapM fun p => p.1.times p.2 with
    | none => Fmt.f32.round mode none
    | some ps =>
      if z.isNan then (if (sumValues mode ps).isNone then Fmt.f32.round mode none else Fmt.f32.quiet [z])
      else Fmt.f32.round mode (sumValues mode (ps ++ [z]))

end Sys2Proof.Machine
end

