-- ==== Sys2Proof/Machine/Collective.lean ====
section
/-! DEFINITION. The collective engine (R162, R382). What the other members bring arrives with the event (log entry 1). -/

namespace Sys2Proof.Machine

/-- ARG of a collective: element count, type code, reduction, member count. -/
def collCount (h : Q) : Nat := bits h 0 32
def collType (h : Q) : Nat := bits h 32 4
def collOp (h : Q) : Nat := bits h 36 3
def collMembers (h : Q) : Nat := bits h 48 10

/-- The element types of R162. -/
def collElem : Nat → Option ElemType
  | 8 => some .f32
  | 9 => some .bf16
  | 2 => some .i32
  | 6 => some .n32
  | _ => none

/-- The ARG fields that a collective uses are in their ranges: a BARRIER (0x34) has no elements, and only ALLREDUCE (0x30) and
REDUCESCATTER (0x32) reduce. A field out of its range is refused with cause 0x2E4. DESIGN CHOICE (log entry 60). -/
def collValid (h : Q) : Bool :=
  let opc := headerOpc h
  1 ≤ collMembers h && collMembers h ≤ 512 &&
    (opc == 0x34 || ((collElem (collType h)).isSome && (collOp h ≤ 2 || (opc != 0x30 && opc != 0x32))))

/-- A collective by its code: whether its source holds a part for every member, and whether its destination does. -/
def wideSource (opc : Nat) : Bool := opc == 0x32
def wideDest (opc : Nat) : Bool := opc == 0x31

/-- The codes that bytes hold. -/
def codesOf (w : Nat) (l : List Byte) (n : Nat) : List Nat := (upFrom 0 n).map fun i => ofBytes ((l.drop (w / 8 * i)).take (w / 8))

/-- Bytes from codes. -/
def codesBytes (w : Nat) (l : List Nat) : List Byte := (l.map (leBytes (w / 8))).flatten

/-- Two elements combined: sums round to nearest even or saturate; max and min keep the first of equals, and give NaN
for a NaN. -/
def combineElems (t : ElemType) (op a b : Nat) : Nat :=
  let x := laneValue t a
  let y := laneValue t b
  if op = 0 then
    if isFloat t then ((fmtOf t).add 0#2 x y).1
    else wrap (elemBits t) (clamp (intBounds t).1 (intBounds t).2 (laneInt t a + laneInt t b)).1
  else if x.isNan || y.isNan then (fmtOf t).canonical.getD 0
  else
    match x.order y with
    | .eq => a
    | .lt => if op = 1 then b else a
    | .gt => if op = 1 then a else b

/-- The sources of all members combined element by element in ascending rank. -/
def reduceAll (t : ElemType) (op : Nat) : List (List Nat) → List Nat
  | [] => []
  | l :: rest => rest.foldl (fun acc r => (acc.zip r).map fun p => combineElems t op p.1 p.2) l

/-- What a member of rank `r` writes, from the sources in rank order. PRESUMED (log entry 19). -/
def collResult (opc : Nat) (t : ElemType) (h : Q) (r : Nat) (srcs : List (List Byte)) : List Byte :=
  let n := collCount h
  let w := elemBits t
  match opc with
  | 0x30 => codesBytes w (reduceAll t (collOp h) (srcs.map fun l => codesOf w l n))
  | 0x31 => (srcs.map fun l => l.take (w / 8 * n)).flatten
  | 0x32 => codesBytes w (reduceAll t (collOp h) (srcs.map fun l => codesOf w (l.drop (w / 8 * n * r)) n))
  | _ => (srcs.headD []).take (w / 8 * n)

/-- The members of a list as it lies in memory, 16 bits each. -/
def memberList (l : List Byte) (n : Nat) : List Nat := codesOf 16 l n

/-- The bytes that a member brings: this core's own, or those of the event. -/
def State.brings (s : State) (own : List Byte) (peers : List PeerData) (m : Nat) : Option (List Byte) :=
  if m = s.core.id.toNat then some own else (peers.find? fun p => p.core.toNat == m).map PeerData.data

/-- A member that stands on another module of the enclosure, its peer index above the 13 bits of a core. DESIGN CHOICE (log
entry 60). -/
def memberPeer (m : Nat) : Nat := m / 2 ^ 13

/-- Perform a collective of this core: none where what another member brings is still missing. -/
def collective (v : View) (c : Command) (peers : List PeerData) : Act (Option Answer) := do
  let h := c.header
  let opc := headerOpc h
  let count := collMembers h
  let group := c.elem 1
  let s ← get
  if collValid h = false then pure (some (.refuse 0x2E4))
  else
    let t := (collElem (collType h)).getD .n32
    let bytes := elemBits t / 8 * collCount h
    let srcLen := if wideSource opc then bytes * count else bytes
    let dstLen := if wideDest opc then bytes * count else bytes
    let moves := opc != 0x34
    let checks := [s.checkRange v group .load (2 * count),
      if moves then s.checkRange v (c.elem 2) .load srcLen else none,
      if moves then s.checkRange v (c.elem 3) .store dstLen else none]
    match firstCause checks with
    | some e => pure (some (.refuse e))
    | none =>
      let (pages, l) ← engineRead v group.bits (addrOf group.bits) (2 * count) []
      match l with
      | .inl e => pure (some (.refuse e))
      | .inr l =>
        let members := memberList l count
        if (members.filter fun m => m == s.core.id.toNat).length ≠ 1 then pure (some (.refuse 0x2E4))
        else if members.any fun m => memberPeer m != 0 && s.peerCut (memberPeer m) then
          pure (some { status := 1, cause := 0x38A })
        else
          let (pages, own) ← if moves then engineRead v (c.elem 2).bits (addrOf (c.elem 2).bits) srcLen pages
            else pure (pages, .inr [])
          match own with
          | .inl e => pure (some (.refuse e))
          | .inr own =>
            match members.mapM (s.brings own peers) with
            | none => pure none
            | some srcs =>
              if moves then
                let out := collResult opc t h (members.idxOf s.core.id.toNat) srcs
                let (_, failed) ← engineWrite v (c.elem 3).bits (addrOf (c.elem 3).bits) out pages
                match failed with
                | some e => pure (some (.refuse e))
                | none => pure (some { value := collCount h })
              else pure (some {})

/-- The event of a collective: of the slot's oldest command on e3, where that is of this code. -/
def State.collectiveStep (s : State) (what : Instr) : State :=
  match s.event with
  | .collective k peers =>
    match s.taken k .e3 with
    | some c =>
      if commandEvent .e3 (headerOpc c.header) ≠ what then s
      else if s.enginesWait then s.schedule what (.collective k peers)
      else
        match collective c.view c peers s with
        | .ok (some r) t => t.answer k .e3 r
        | .ok none t => t
        | .error _ t => (s.keep t).schedule what (.collective k peers)
    | none => s
  | _ => s

def execAllreduce (s : State) := happen (s.collectiveStep .allreduce)
def execAllgather (s : State) := happen (s.collectiveStep .allgather)
def execReducescatter (s : State) := happen (s.collectiveStep .reducescatter)
def execBroadcast (s : State) := happen (s.collectiveStep .broadcast)
def execCollBarrier (s : State) := happen (s.collectiveStep .collBarrier)

end Sys2Proof.Machine
end

