-- ==== Sys2Proof/Machine/Float.lean ====
section
/-! DEFINITION. The scalar floating-point instructions, major 0x27 (R193 to R197). -/

namespace Sys2Proof.Machine

/-- The rounding mode at issue (R188). -/
def roundingMode : Act Mode := do return (← myCtx).frnd

/-- The low bits of a register in the width of a type. -/
def lowBits (t : ElemType) (x : Q) : Nat := bits x 0 (elemBits t)

/-- The value of the low bits of a register read in a type. -/
def lowValue (t : ElemType) (x : Q) : Value := laneValue t (lowBits t x)

/-- An instruction that reads d as a source: a stream-bound d raises cause 0x141 before anything else (R189). -/
def readsDest (d : RegIdx) : Act Unit := do trapIf ((← get).streamed d) 0x141 (q d.val)

/-- Write a result code in the low bits of d, zero above, with its flags (R188). -/
def writeCode (d : RegIdx) (r : Nat × Flags) : Act After := do
  setFlags r.2
  write128 d (q r.1)
  next

/-- Read a and b; write d in the type's width. -/
def floatBinary (d a b : RegIdx) (f : Mode → Nat → Nat → Nat × Flags) (t : ElemType) : Act After := do
  let m ← roundingMode
  let x ← readBits a
  let y ← readBits b
  writeCode d (f m (lowBits t x) (lowBits t y))

/-- Read a; write d. -/
def floatUnary (d a : RegIdx) (f : Mode → Q → Nat × Flags) : Act After := do
  let m ← roundingMode
  let x ← readBits a
  writeCode d (f m x)

/-- Read a, b and d; write d. -/
def floatTernary (d a b : RegIdx) (t : ElemType) (f : Mode → Value → Value → Value → Nat × Flags) : Act After := do
  readsDest d
  let m ← roundingMode
  let x ← readBits a
  let y ← readBits b
  let z ← readBits d
  writeCode d (f m (lowValue t x) (lowValue t y) (lowValue t z))

def faddOf (t : ElemType) (m : Mode) (x y : Nat) := (fmtOf t).add m (laneValue t x) (laneValue t y)
def fsubOf (t : ElemType) (m : Mode) (x y : Nat) := (fmtOf t).add m (laneValue t x) (laneValue t y).neg
def fmulOf (t : ElemType) (m : Mode) (x y : Nat) := (fmtOf t).mul m (laneValue t x) (laneValue t y)
def fdivOf (t : ElemType) (m : Mode) (x y : Nat) := (fmtOf t).div m (laneValue t x) (laneValue t y)
def fminOf (t : ElemType) (_ : Mode) (x y : Nat) := (fmtOf t).minNum x y
def fmaxOf (t : ElemType) (_ : Mode) (x y : Nat) := (fmtOf t).maxNum x y

def execFadd (d a b : RegIdx) (t : ElemType) (s : State) := perform s (floatBinary d a b (faddOf t) t)
def execFsub (d a b : RegIdx) (t : ElemType) (s : State) := perform s (floatBinary d a b (fsubOf t) t)
def execFmul (d a b : RegIdx) (t : ElemType) (s : State) := perform s (floatBinary d a b (fmulOf t) t)
def execFdiv (d a b : RegIdx) (t : ElemType) (s : State) := perform s (floatBinary d a b (fdivOf t) t)
def execFmin (d a b : RegIdx) (t : ElemType) (s : State) := perform s (floatBinary d a b (fminOf t) t)
def execFmax (d a b : RegIdx) (t : ElemType) (s : State) := perform s (floatBinary d a b (fmaxOf t) t)

def execFma (d a b : RegIdx) (t : ElemType) (s : State) :=
  perform s (floatTernary d a b t fun m x y z => (fmtOf t).fma m x y z)
def execFms (d a b : RegIdx) (t : ElemType) (s : State) :=
  perform s (floatTernary d a b t fun m x y z => (fmtOf t).fma m x y z.neg)
def execFnma (d a b : RegIdx) (t : ElemType) (s : State) :=
  perform s (floatTernary d a b t fun m x y z => (fmtOf t).fma m x.neg y z)

/-- The sign bit cleared, and inverted (R194). -/
def clearSign (t : ElemType) (x : Nat) : Nat := x % 2 ^ (elemBits t - 1)
def invertSign (t : ElemType) (x : Nat) : Nat := x ^^^ 2 ^ (elemBits t - 1)

def execFabs (d a : RegIdx) (t : ElemType) (s : State) :=
  perform s (floatUnary d a fun _ x => (clearSign t (lowBits t x), 0#6))
def execFneg (d a : RegIdx) (t : ElemType) (s : State) :=
  perform s (floatUnary d a fun _ x => (invertSign t (lowBits t x), 0#6))
def execFsqrt (d a : RegIdx) (t : ElemType) (s : State) :=
  perform s (floatUnary d a fun m x => (fmtOf t).sqrt m (lowValue t x))

/-- The relation bits of `fcmp` (Table 12.5). -/
def fcmpBits (x y : Value) : Nat :=
  if x.isNan || y.isNan then 2 + 64
  else
    match x.order y with
    | .eq => 1 + 8 + 16
    | .lt => 2 + 4 + 16
    | .gt => 2 + 8 + 32

/-- `fcmp` (R195). -/
def execFcmp (d a b : RegIdx) (t : ElemType) (s : State) : Host.Outcome State Fault Refusal :=
  perform s do
    let x ← readBits a
    let y ← readBits b
    let v := lowValue t x
    let w := lowValue t y
    setFlags (flagIf (v.signalling || w.signalling) Flags.nv)
    writeNat d (fcmpBits v w)
    next

/-- The class bit of `fclass` (Table 12.6). -/
def fclassBits (t : ElemType) (x : Nat) : Nat :=
  let f := fmtOf t
  match f.decode x with
  | .nan sig => if sig then 2 ^ 8 else 2 ^ 9
  | .inf neg => if neg then 2 ^ 0 else 2 ^ 7
  | .num neg n _ =>
    let sub := x / 2 ^ f.frac % 2 ^ f.exp == 0
    if n = 0 then (if neg then 2 ^ 3 else 2 ^ 4)
    else if sub then (if neg then 2 ^ 2 else 2 ^ 5)
    else if neg then 2 ^ 1 else 2 ^ 6

/-- `fclass` (R196). -/
def execFclass (d a : RegIdx) (t : ElemType) (s : State) : Host.Outcome State Fault Refusal :=
  perform s do
    let x ← readBits a
    writeNat d (fclassBits t (lowBits t x))
    next

/-- `fcvt` (R197). -/
def execFcvt (d a : RegIdx) (t u : ElemType) (s : State) :=
  perform s (floatUnary d a fun m x => (fmtOf t).convert m (lowValue u x))

/-- `fcvti` (R197): in `frnd.MODE`, or toward zero. -/
def execFcvti (d a : RegIdx) (t : ElemType) (z : Bool) (u : ElemType) (s : State) : Host.Outcome State Fault Refusal :=
  perform s do
    let m ← roundingMode
    let x ← readBits a
    let r := toInteger t (if z then 1#2 else m) (lowValue u x)
    setFlags r.2
    write64 d r.1
    next

/-- `icvtf` (R197). -/
def execIcvtf (d a : RegIdx) (t u : ElemType) (s : State) :=
  perform s (floatUnary d a fun m x => (fmtOf t).convert m (lowValue u x))

end Sys2Proof.Machine
end

