-- ==== Sys2Proof/Machine/HarrowMath.lean ====
section
/-! DEFINITION. The arithmetic of the harrow: the geometry of its formats (Table 16.1), tile and row images (R251), and
the blocks of a reduction (R43 to R46). -/

namespace Sys2Proof.Machine

/-! ### Formats (Table 16.1) -/

/-- The element type of a code that the harrow accepts. -/
def harrowType (code : Nat) : Option ElemType :=
  match code with
  | 0 => some .i8
  | 9 => some .bf16
  | 10 => some .e4m3
  | 11 => some .e5m2
  | 12 => some .mxf4
  | 13 => some .dm8
  | _ => none

def harrowFormat (code : Nat) : Bool := (harrowType code).isSome

/-- Elements of an activation row. -/
def formatKt (code : Nat) : Nat := if code = 12 then 128 else 64

/-- Bytes of an activation row image. -/
def formatRow (code : Nat) : Nat := if code = 9 then 128 else 64

/-- Bytes of a weight tile. -/
def formatTile (code : Nat) : Nat := 64 * formatRow code

/-- The formats whose blocks have scales. -/
def formatScaled (code : Nat) : Bool := code == 12 || code == 13

/-- A pair of codes that the harrow accepts (R250). -/
def pairAccepted (a b : Nat) : Bool :=
  (a == b && harrowFormat a) || (a == 10 && b == 11) || (a == 11 && b == 10)

/-- Element `k` of a row image or a column (R251). -/
def imageElement (code : Nat) (image : List Byte) (k : Nat) : Nat :=
  match code with
  | 9 => (image.getD (2 * k) 0#8).toNat + 256 * (image.getD (2 * k + 1) 0#8).toNat
  | 12 => (image.getD (k / 2) 0#8).toNat / 2 ^ (4 * (k % 2)) % 16
  | _ => (image.getD k 0#8).toNat

/-- Column `n` of a tile. -/
def tileColumn (code : Nat) (tile : List Byte) (n : Nat) : List Byte := (tile.drop (n * formatRow code)).take (formatRow code)

/-! ### Blocks (R44, R45) -/

/-- A scale byte of a block: NaN, or the exponent that it stands for. -/
def scaleExponent (code s : Nat) : Option Int :=
  match code with
  | 12 => if s = 0xFF then none else some ((s : Int) - 127)
  | _ => if s = 0x80 then none else some (signed 8 s)

/-- A DM8 scale that is out of range (R36). -/
def dm8ScaleBad (s : Nat) : Bool := (0x14 ≤ s && s ≤ 0x7F) || (0x81 ≤ s && s ≤ 0xEC)

/-- A value with an exact zero taken as +0. -/
def Value.plusZero (v : Value) : Value := if v.isZero then .num false 0 1 else v

/-- A value times 2^e. -/
def Value.shift (v : Value) (e : Int) : Value :=
  match v with
  | .num s n d => .num s (n * 2 ^ e.toNat) (d * 2 ^ (-e).toNat)
  | w => w

/-- The FP32 value of a block from its exact sum and its scales (R44), with the flags that its roundings set. -/
def blockRounded (code : Nat) (x : Value) (sa sb : Int) : Nat × Flags :=
  match code with
  | 12 => Fmt.f32.convert 0#2 (x.shift (sa + sb))
  | 13 =>
    let r := Fmt.f32.convert 0#2 x
    let y := Fmt.f32.mul 0#2 (Fmt.f32.decode r.1) (pow10F32 (sa + sb))
    (y.1, r.2 ||| y.2)
  | _ => Fmt.f32.convert 0#2 x

/-- The canonical NaN of FP32 with NV (R45, R46). -/
def blockNan : Nat × Flags := (Fmt.f32.canonical.getD 0, Flags.nv)

/-- block_value of the pairs of elements of a block and its scales, none for a NaN scale. -/
def blockValue (code : Nat) (pairs : List (Value × Value)) (sa sb : Option Int) : Nat × Flags :=
  match sa, sb with
  | some ea, some eb =>
    if pairs.any (fun p => p.1.isNan || p.2.isNan) then blockNan
    else
      match pairs.mapM fun p => p.1.times p.2 with
      | none => blockNan
      | some ps =>
        match sumValues 0#2 ps with
        | none => blockNan
        | some x => blockRounded code x.plusZero ea eb
  | _, _ => blockNan

/-- An accumulator with a block added (R44 to R46): a NaN that the accumulator holds sets nothing further. -/
def addBlock (acc : Nat) (b : Nat × Flags) : Nat × Flags :=
  let z := Fmt.f32.decode acc
  let y := Fmt.f32.decode b.1
  if z.isNan || y.isNan then (Fmt.f32.canonical.getD 0, b.2)
  else
    let r := Fmt.f32.add 0#2 z y
    (r.1, b.2 ||| r.2)

/-- An integer accumulator with a block added (R44). -/
def addInts (acc : Nat) (pairs : List (Int × Int)) : Nat × Flags :=
  let s := signed 32 acc + (pairs.map fun p => p.1 * p.2).sum
  let (v, changed) := clampSigned 32 s
  (wrap 32 v, flagIf changed Flags.sat)

/-- What one cell's reduction reads: the two formats, the last K index, the row image and the column, and the four
scales of the row and of the column. -/
structure CellJob where
  afmt : Nat
  bfmt : Nat
  klen : Nat
  row  : List Byte
  col  : List Byte
  sa   : List Byte
  sb   : List Byte

/-- The K indices of block `b`. -/
def CellJob.indices (j : CellJob) (b : Nat) : List Nat := upFrom (32 * b) (Nat.min 32 (j.klen + 1 - 32 * b))

/-- One block added to a cell (R44). -/
def CellJob.step (j : CellJob) (acc : Nat × Flags) (b : Nat) : Nat × Flags :=
  let ks := j.indices b
  let ea (k : Nat) := imageElement j.afmt j.row k
  let eb (k : Nat) := imageElement j.bfmt j.col k
  let r :=
    if j.afmt = 0 then addInts acc.1 (ks.map fun k => (signed 8 (ea k), signed 8 (eb k)))
    else
      let ta := (harrowType j.afmt).getD .bf16
      let tb := (harrowType j.bfmt).getD .bf16
      let scale (l : List Byte) : Option Int :=
        if formatScaled j.bfmt then scaleExponent j.bfmt (l.getD b 0#8).toNat else some 0
      addBlock acc.1 (blockValue j.bfmt (ks.map fun k => (productValue ta (ea k), productValue tb (eb k))) (scale j.sa) (scale j.sb))
  (r.1, acc.2 ||| r.2)

/-- The cell after every block (R260). -/
def CellJob.reduce (j : CellJob) (acc : Nat) : Nat × Flags := (upFrom 0 ((j.klen + 32) / 32)).foldl j.step (acc, 0#6)

end Sys2Proof.Machine
end

