-- ==== Sys2Proof/Machine/Harrow.lean ====
section
/-! DEFINITION. The harrow: its instructions (R254 to R269), row order (R252), operations (R260, R261), drains (R264 to
R266, R276), availability (R274) and errors (R270). -/

namespace Sys2Proof.Machine

/-! ### Availability and formats (R255, R274, R390) -/

/-- Slice `p` of the row is available. -/
def State.sliceAvailable (s : State) (p : Fin 8) : Bool :=
  let x := s.harrow.slices.get p
  !x.unmapped &&
  match s.serviceLevel with
  | 0 => false
  | 1 => s.dieNo == s.l1die && !x.spare
  | 2 => !x.spare
  | _ => true

/-- A mask of slices. -/
def sliceMask (l : List (Fin 8)) : Nat := (l.map fun p => 2 ^ p.val).sum

/-- The formats that a service level enables (Table 28.3). -/
def levelEnables (level code : Nat) : Bool :=
  match level with
  | 0 => false
  | 1 => code == 9
  | 2 => code != 12
  | _ => true

def hfmtA (f : BitVec 8) : Nat := f.toNat % 16
def hfmtB (f : BitVec 8) : Nat := f.toNat / 16

/-- Step 1 of R255. -/
def usesHarrow : Act Unit := do
  let s ← get
  let at_ ← instrAddr
  trapIf (!(s.core.kernel.map Kernel.harrow).getD false) 0x280 (q at_)

/-- Step 2 of R255, for slices and formats; a code outside Table 16.1 is left to cause 0x281. -/
def slicesReady (l : List (Fin 8)) (fmts : List Nat) : Act Unit := do
  let s ← get
  let bad := l.filter fun p => !s.sliceAvailable p
  let off := fmts.any fun f => harrowFormat f && !levelEnables s.serviceLevel f
  trapIf (!bad.isEmpty || off) 0x285 (q (s.ctx s.cur).hfmt.toNat) (q (sliceMask bad))

/-! ### Row order (R252) -/

/-- The rows on which an item of work still acts. -/
def RowWork.rows : RowWork → List Nat
  | .operation _ l => l
  | .zero l => l
  | .drain l => l
  | .flags _ => []

/-- An item that sets or reads the row flags. -/
def RowWork.touchesFlags : RowWork → Bool
  | .operation _ _ => true
  | .drain _ => true
  | _ => false

def RowWork.clears : RowWork → Bool
  | .flags _ => true
  | _ => false

/-- The work on rows `l` zeroed in all slices. -/
def Harrow.zeroRow (h : Harrow) (r : Nat) : Harrow :=
  { h with
    cells := sliceIds.foldl (fun c p => Table.clear c (4096 * p.val + 64 * r) (4096 * p.val + 64 * r + 64)) h.cells
    badRows := h.badRows.filter fun x => x != r }

/-- Zeros and flag clears whose turn has come are done: `ahead` is the work before them, which stays. -/
def Harrow.settleFrom (ahead : List RowWork) (h : Harrow) : List RowWork → Harrow
  | [] => { h with work := ahead }
  | w :: rest =>
    match w with
    | .zero l =>
      let free := l.filter fun r => !(ahead.any fun a => a.rows.contains r)
      let left := l.filter fun r => ahead.any fun a => a.rows.contains r
      Harrow.settleFrom (if left = [] then ahead else ahead ++ [.zero left]) (free.foldl Harrow.zeroRow h) rest
    | .flags m =>
      if ahead.any RowWork.touchesFlags then Harrow.settleFrom (ahead ++ [w]) h rest
      else Harrow.settleFrom ahead { h with flags := h.flags &&& ~~~m } rest
    | w => Harrow.settleFrom (ahead ++ [w]) h rest

def Harrow.settle (h : Harrow) : Harrow := Harrow.settleFrom [] h h.work

/-- The work that stands before the first item for which `f` holds. -/
def workBefore (f : RowWork → Bool) : List RowWork → List RowWork
  | [] => []
  | w :: t => if f w then [] else w :: workBefore f t

/-- The turn of a row of an item has come: no earlier item acts on the row, nor waits to clear the flags. -/
def Harrow.turnOf (h : Harrow) (f : RowWork → Bool) (r : Nat) : Bool :=
  !((workBefore f h.work).any fun w => w.rows.contains r || w.clears)

/-- A row taken off an item. -/
def RowWork.without (r : Nat) : RowWork → RowWork
  | .operation k l => .operation k (l.filter fun x => x != r)
  | .zero l => .zero (l.filter fun x => x != r)
  | .drain l => .drain (l.filter fun x => x != r)
  | w => w

/-- The first item for which `f` holds has finished with a row; an item with no rows left goes. -/
def Harrow.finishRow (h : Harrow) (f : RowWork → Bool) (r : Nat) : Harrow :=
  let rec go : List RowWork → List RowWork
    | [] => []
    | w :: t => if f w then (if (w.without r).rows = [] then t else w.without r :: t) else w :: go t
  { h with work := go h.work }.settle

def isOperation (k : Fin 4) : RowWork → Bool
  | .operation j _ => j == k
  | _ => false

def isDrain : RowWork → Bool
  | .drain _ => true
  | _ => false

/-- The `hgo`s in row order that have not reached their end cycle (R257). -/
def Harrow.streaming (h : Harrow) : Bool :=
  !h.queue.isEmpty || h.ops.toList.any fun x =>
    match x.op with
    | some o => !o.ended
    | none => false

/-- Another slot stands in an `hswap`, which an `hset.discard` lets go first (R269). -/
def State.swapStands (s : State) (k : SlotId) : Bool := s.othersWait k fun w => w == .planeSwap

/-- Another slot stands in an `hswap` or an `hset.discard`, which has its place in row order. -/
def State.planeStands (s : State) (k : SlotId) : Bool := s.othersWait k fun w => w == .planeSwap || w == .discard

/-- The slice of this core. -/
def State.slice (s : State) : Slice := s.harrow.slices.get s.sliceNo

def State.modSlice (s : State) (f : Slice → Slice) : State := s.modHarrow fun h => h.modSlice s.sliceNo f

def State.opSlot (s : State) (k : Fin 4) : OpSlot := s.harrow.ops.get k

def State.modOp (s : State) (k : Fin 4) (f : OpSlot → OpSlot) : State :=
  s.modHarrow fun h => { h with ops := h.ops.set k.val (f (h.ops.get k)) k.isLt }

/-! ### When each wait ends -/

def State.loadTurn (s : State) (k : SlotId) : Bool := s.slice.load.isNone && !s.planeStands k
def State.swapTurn (s : State) : Bool := s.slice.load.isNone && !s.harrow.streaming
def State.goTurn (s : State) (k : SlotId) (n : Fin 4) : Bool := (s.opSlot n).done && !s.planeStands k
def State.drainRoom (s : State) : Bool := s.harrow.drains.length < 4
def State.rowTurn (s : State) (r : Nat) : Bool := !(s.harrow.work.any fun w => w.rows.contains r)

/-! ### Patterns of operands -/

/-- A map whose items total `n` bytes, aligned to its items, with LOAD over its span (R256 steps 2 to 5, R259 step 5). -/
def operandPattern (c : Reg) (a : RegIdx) (tm : Fin 16) (n : Nat) (word : Q) : Act Pattern := do
  let p ← readMap tm c.bits
  trapIf (p.items * p.itemBytes != n) 0x284 word 3#128
  trapIf (!p.aligned p.itemBytes) 0x101 (q (addr72 p.first)) (capVal2 a.val false false p.itemBytes)
  checkSpan c a [.load] p
  pure p

/-- Bytes read, the address of the first sector that has an uncorrectable error, and where the items read lie: location,
bytes, key identifier. -/
structure Reading where
  data : List Byte
  bad  : Option Nat
  runs : List (Nat × Nat × BitVec 10) := []

def Reading.add (r : Reading) (data : List Byte) (bad : Option Nat) (run : Nat × Nat × BitVec 10) : Reading :=
  ⟨r.data ++ data, r.bad.or bad, r.runs ++ [run]⟩

/-- The address of the sector of an item. -/
def sectorAddr (a : Nat) : Nat := a / 32 * 32

/-- The items of a pattern in LM or CM, with what the core's own stores on their way write there (R170). -/
def State.readNear (s : State) (p : Pattern) (items : List Nat) : Reading :=
  items.foldl (fun r m =>
    let a := p.itemAddr m
    let loc := s.nearLoc a
    r.add (s.coreBytes loc p.itemBytes) (if s.isBad loc then some (sectorAddr a) else none) (loc, p.itemBytes, 0#10)) ⟨[], none, []⟩

/-- The items of a pattern in translated memory, a page translated where an item enters it (R256); the host is asked first
for a line that it holds (R352). -/
def readFar (v : View) (c : Reg) (a : RegIdx) (p : Pattern) : Option (Nat × Place) → Reading → List Nat → Act Reading
  | _, r, [] => pure r
  | last, r, m :: rest => do
    let at_ := p.itemAddr m
    let n := p.itemBytes
    let pl ← match last with
      | some (page, pl) =>
        if page = at_ / 2 ^ 12 then pure { pl with loc := pl.loc / 2 ^ 12 * 2 ^ 12 + at_ % 2 ^ 12 }
        else place v c.bits .load at_ n (capVal2 a.val false false n)
      | none => place v c.bits .load at_ n (capVal2 a.val false false n)
    v.askHost pl.loc n false
    modify fun s => (pl.uncopy n s).fetchCopies pl.loc n
    let s ← get
    let r := r.add (s.seenBytes s.cur pl.loc n) (if s.readable pl.key pl.loc n then none else some (sectorAddr at_)) (pl.loc, n, pl.key)
    readFar v c a p (some (at_ / 2 ^ 12, pl)) r rest

/-- The items of a pattern lie in regions 0x0 to 0xB. -/
def Pattern.translated (p : Pattern) : Bool := 0 ≤ p.span.1 && p.span.2 ≤ ((0xC * 2 ^ 68 : Nat) : Int)

/-! ### `hload` and `hswap` (R256, R257) -/

/-- The tile bytes of a load: near memory as the slot that issues sees it at the commit. -/
def readTile (c : Reg) (a : RegIdx) (p : Pattern) : Act (Option Reading) := do
  if p.near then pure none
  else if p.translated then
    let r ← readFar (← get).view c a p none ⟨[], none, []⟩ (upFrom 0 p.items)
    pure (some r)
  else trap 0x120 (q (addr72 p.span.1))

/-- The load begins: the shadow plane takes the format, SHLG is set and SHLD cleared. Its sectors may be read as they stand
now (R185). -/
def State.beginLoad (s : State) (fmt : Nat) (p : Pattern) (far : Option Reading) : State :=
  let r := far.getD (s.readNear p (upFrom 0 p.items))
  (s.modSlice fun x =>
    { x with shadow := ⟨BitVec.ofNat 4 fmt, false, []⟩, load := some ⟨r.data, r.runs, far.isSome, r.bad⟩, bad := none }).schedule
      .hloadComplete (.slice s.sliceNo)

/-- `hload`. -/
def execHload (a : RegIdx) (tm : Fin 16) (s : State) : Host.Outcome State Fault Refusal :=
  perform s do
    let f := (← myCtx).hfmt
    usesHarrow
    slicesReady [(← get).sliceNo] [hfmtB f]
    let me ← issuer
    if (← get).loadTurn me = false then stall .planeLoad
    let c ← readReg a
    trapIf (!harrowFormat (hfmtB f)) 0x281 (q f.toNat)
    let p ← operandPattern c a tm (formatTile (hfmtB f)) 0#128
    let far ← readTile c a p
    pure (.lastThen fun s => .ok .seq (s.beginLoad (hfmtB f) p far))

/-- Bytes at locations that were read first as `early` has them: each 32-byte sector as it stood then, or as it stands in
`late`, each decided by itself (R185). DESIGN CHOICE (log entry 43). -/
def State.eitherBytes (s : State) (locs : List Nat) (early late : List Byte) : List Byte :=
  (locs.zip (early.zip late)).map fun x => if Config.sectorEarly (s.fresh * 2 ^ 80 + x.1 / 32) then x.2.1 else x.2.2

/-- What a run of translated memory needs to be read by the die: the host's lines, and this die's copies (R352, R181). -/
def State.reachRun (s : State) (r : Nat × Nat × BitVec 10) : State := ((s.snoopBack r.1 r.2.1 false).getD s).fetchCopies r.1 r.2.1

/-- The bytes of a load as they stand now; of a run that cannot be read any more, those read first. -/
def State.lateTile (s : State) (l : PlaneLoad) : List Byte :=
  (l.runs.foldl (fun (x : List Byte × List Byte) r =>
    (x.1 ++ (if s.readable r.2.2 r.1 r.2.1 then s.coreBytes r.1 r.2.1 else x.2.take r.2.1), x.2.drop r.2.1)) ([], l.tile)).1

/-- HLOAD_COMPLETE (R256): the tile is in the shadow plane. -/
def State.endLoad (s : State) (p : Fin 8) : State :=
  match (s.harrow.slices.get p).load with
  | none => s
  | some l =>
    let s := if l.far then l.runs.foldl State.reachRun s else s
    let tile := s.eitherBytes (l.runs.map fun r => upFrom r.1 r.2.1).flatten l.tile (s.lateTile l)
    s.tick.modHarrow fun h => h.modSlice p fun x =>
      { x with shadow := ⟨x.shadow.fmt, true, tile⟩, load := none, bad := l.bad }

def execHloadComplete (s : State) : Host.Outcome State Fault Refusal :=
  match s.event with
  | .slice p => happen (s.endLoad p)
  | _ => happen s

/-- The planes exchanged. -/
def Slice.swap (x : Slice) : Slice := { x with active := x.shadow, shadow := x.active }

/-- The trap of an `hswap` onto a tile with an error: the shadow plane is left clear (R270). -/
def State.badSwap (s : State) (k : SlotId) (a : Nat) : State :=
  (s.modSlice fun x => { x with shadow := ⟨x.shadow.fmt, false, []⟩, bad := none }).raise k 4 0x286 (q a) 0#128

/-- `hswap`. -/
def execHswap (s : State) : Host.Outcome State Fault Refusal :=
  perform s do
    usesHarrow
    slicesReady [(← get).sliceNo] []
    let s ← get
    trapIf (!s.slice.shadow.valid && s.slice.load.isNone) 0x282
    if s.swapTurn = false then stall .planeSwap
    match s.slice.bad with
    | some a => pure (.lastThen fun s => .ok .gone (s.badSwap s.cur a))
    | none => pure (.lastThen fun s => .ok .seq (s.modSlice Slice.swap))

/-! ### `hgo` (R258 to R261) -/

def opRow0 (w : Nat) : Nat := fld w 0 6
def opRows (w : Nat) : Nat := fld w 6 6 + 1
def opSlotOf (w : Nat) : Fin 4 := Fin.ofNat 4 (fld w 12 2)
def opKlen (w : Nat) : Nat := fld w 14 7

/-- An operation word meets Table 16.3; KT of a format outside Table 16.1 is taken as 128. -/
def opWordValid (w afmt : Nat) : Bool :=
  w / 2 ^ 21 == 0 && opRow0 w + opRows w ≤ 64 && opKlen w + 1 ≤ (if harrowFormat afmt then formatKt afmt else 128)

/-- `n` bytes at an address lie wholly in LM, or wholly in CM. -/
def nearRange (a n : Nat) : Bool :=
  (regionOf a == 0xD && a % 2 ^ 68 + n ≤ 2 ^ 18) || (regionOf a == 0xC && a % 2 ^ 68 + n ≤ 2 ^ 22)

/-- The checks of a scale area (R259 step 6), for control register number `r`. -/
def checkScales (c : Reg) (r n : Nat) : Act Unit := do
  let a := addrOf c.bits
  match capFault c [.load] a n with
  | some cause => trap cause (q a) (capVal2 r false true n)
  | none => trapIf (!nearRange a n) 0x120 (q a)

/-- The bytes of a scale area, and the first of its sectors in error. -/
def readScales (c : Reg) (n : Nat) : Act Reading := do
  let s ← get
  let a := addrOf c.bits
  let loc := s.nearLoc a
  let bad := (sectorsOf loc n).find? fun sec => s.isBad (32 * sec)
  pure ⟨s.seenBytes s.cur loc n, bad.map fun sec => sectorAddr a + 32 * (sec - loc / 32), []⟩

/-- The first DM8 scale out of range among `count` groups of four of which `nb` are used (R36): that of the lowest offset.
DESIGN CHOICE (log entry 64). -/
def badScale (data : List Byte) (count nb : Nat) : Option (Nat × Nat) :=
  (((upFrom 0 count).map fun m => upFrom (4 * m) nb).flatten.find? fun i => dm8ScaleBad (data.getD i 0#8).toNat).map fun i =>
    (i, (data.getD i 0#8).toNat)

/-- Step 8 of R259 for one scale area. -/
def checkScaleBytes (c : Reg) (r : Reading) (count nb : Nat) : Act Unit :=
  match badScale r.data count nb with
  | some (i, v) => trap 0x2A0 (q (addrOf c.bits + i)) (q v)
  | none => pure ()

/-- The scales of an operation, checked: those of A before those of B. DESIGN CHOICE (log entry 64). -/
def operationScales (f m nb : Nat) : Act (Reading × Reading) := do
  let c ← myCtx
  let x ← readScales c.hsca (4 * m)
  let y ← readScales c.hscb 2048
  if f = 13 then
    checkScaleBytes c.hsca x m nb
    checkScaleBytes c.hscb y 512 nb
  pure (x, y)

/-- The operation rows, from `row0`, whose scale reads failed (R270): those whose own A scales lie in a sector in error; all
of them where B scales, which every row uses, do. -/
def State.scaleErrors (s : State) (a : Reg) (y : Reading) (row0 m : Nat) : List Nat :=
  ((upFrom 0 m).filter fun i =>
    y.bad.isSome || (sectorsOf (s.nearLoc (addrOf a.bits) + 4 * i) 4).any fun x => s.isBad (32 * x)).map fun i => row0 + i

/-- The operation takes its place in row order (R252, R260); its activation sectors may be read as they stand now (R185). -/
def State.beginGo (s : State) (k : Fin 4) (o : Operation) (err : Option Nat) : State :=
  let o := { o with early := (s.readNear o.pattern (upFrom 0 o.pattern.items)).data }
  let s := s.modOp k fun _ => ⟨false, false, err, some o⟩
  (s.modHarrow fun h =>
    { h with queue := h.queue ++ [k], work := h.work ++ [.operation k (upFrom o.row0 o.rows)] }).scheduleOnce .harrowOperationBegin

/-- `hgo` and `hgo.init`. -/
def execHgo (d a : RegIdx) (init : Bool) (tm : Fin 16) (s : State) : Host.Outcome State Fault Refusal :=
  perform s do
    let ctx ← myCtx
    let fa := hfmtA ctx.hfmt
    let fb := hfmtB ctx.hfmt
    let word := q ctx.hfmt.toNat
    usesHarrow
    let c ← readReg a
    let w := n64 (← readBits d)
    let k := opSlotOf w
    let me ← issuer
    if (← get).goTurn me k = false then stall (.operation k)
    trapIf (!opWordValid w fa) 0x284 (q w)
    trapIf (!pairAccepted fa fb) 0x281 word
    slicesReady sliceIds [fa, fb]
    let s ← get
    let wrong := sliceIds.filter fun p =>
      let x := (s.harrow.slices.get p).active
      !x.valid || x.fmt.toNat != fb
    trapIf (!wrong.isEmpty) 0x282 (q (sliceMask wrong))
    let m := opRows w
    let p ← operandPattern c a tm (m * formatRow fa) (q w)
    trapIf (!p.near) 0x120 (q (addr72 p.span.1))
    if formatScaled fb then
      checkScales ctx.hsca 9 (4 * m)
      checkScales ctx.hscb 10 2048
    trapIf (!holdsLeave (← mySlot) [1, 4]) 0x283
    let (x, y) ← if formatScaled fb then operationScales fb m ((opKlen w + 32) / 32) else pure (⟨[], none, []⟩, ⟨[], none, []⟩)
    let s ← get
    let bad := if formatScaled fb then s.scaleErrors ctx.hsca y (opRow0 w) m else []
    let o : Operation :=
      ⟨opRow0 w, m, opKlen w, init, BitVec.ofNat 4 fa, BitVec.ofNat 4 fb, p, x.data, y.data, [], false, false, [], [], bad⟩
    pure (.lastThen fun s => .ok .seq (s.beginGo k o (x.bad.or y.bad)))

/-- HARROW_OPERATION_BEGIN (R261): the next operation in row order begins once the one before it has ended. -/
def State.beginOperation (s : State) : State :=
  let active := s.harrow.ops.toList.any fun x =>
    match x.op with
    | some o => o.begun && !o.ended
    | none => false
  match s.harrow.queue with
  | [] => s
  | k :: rest =>
    match (s.opSlot k).op with
    | none => s.modHarrow fun h => { h with queue := rest }
    | some o =>
      if active then s
      else
        let tiles := s.harrow.slices.toList.map fun x => x.active.tile
        let s := (s.modOp k fun x => { x with op := some { o with begun := true, weights := tiles } }).modHarrow fun h =>
          { h with queue := rest }
        let s := (s.schedule .operandsConsumed (.operation k)).schedule .harrowEndCycle (.operation k)
        let s := (upFrom o.row0 o.rows).foldl (fun s r => s.schedule .accumulatorRowFinal (.row k (Fin.ofNat 64 r))) s
        s.schedule .operationDone (.operation k)

def execHarrowOperationBegin (s : State) : Host.Outcome State Fault Refusal := happen s.beginOperation

/-- The item numbers of activation row `m`. -/
def Operation.rowItems (o : Operation) (m : Nat) : List Nat :=
  let n := formatRow o.afmt.toNat / o.pattern.itemBytes
  upFrom (m * n) n

/-- The activation bytes of an operation: each 32-byte sector as it stood when the operation took its place, or as it
stands now, each decided by itself (R185). DESIGN CHOICE (log entry 43). -/
def State.activations (s : State) (o : Operation) : List Byte :=
  let items := upFrom 0 o.pattern.items
  let locs := (items.map fun m => upFrom (s.nearLoc (o.pattern.itemAddr m)) o.pattern.itemBytes).flatten
  s.eitherBytes locs o.early (s.readNear o.pattern items).data

/-- OPERANDS_CONSUMED (R185, R261): the activation rows are read; a row with an error is left out (R270). -/
def State.consume (s : State) (k : Fin 4) : State :=
  match (s.opSlot k).op with
  | none => s
  | some o =>
    if !o.begun || (s.opSlot k).oc then s
    else
      let rows := (upFrom 0 o.rows).map fun m => s.readNear o.pattern (o.rowItems m)
      let bad := (upFrom 0 o.rows).filter fun m => ((rows.getD m ⟨[], none, []⟩).bad).isSome
      let err := (rows.filterMap Reading.bad).head?
      let acts := s.activations o
      s.tick.modOp k fun x =>
        { x with
          oc := true, err := x.err.or err
          op := some { o with acts := acts, badRows := o.badRows ++ bad.map fun m => o.row0 + m } }

def execOperandsConsumed (s : State) : Host.Outcome State Fault Refusal :=
  match s.event with
  | .operation k => happen (s.consume k)
  | _ => happen s

/-- HARROW_END_CYCLE (R261): the active planes are free, and the next operation may begin. -/
def State.endStream (s : State) (k : Fin 4) : State :=
  (s.modOp k fun x => { x with op := x.op.map fun o => if o.begun then { o with ended := true } else o }).scheduleOnce
    .harrowOperationBegin

def execHarrowEndCycle (s : State) : Host.Outcome State Fault Refusal :=
  match s.event with
  | .operation k => happen (s.endStream k)
  | _ => happen s

/-- Cell n of a row of slice p. -/
def cellKey (p : Fin 8) (r n : Nat) : Nat := 4096 * p.val + 64 * r + n

def Harrow.cell (h : Harrow) (p : Fin 8) (r n : Nat) : BitVec 32 := Table.get 0#32 h.cells (cellKey p r n)

def Harrow.setCell (h : Harrow) (p : Fin 8) (r n : Nat) (v : Nat) : Harrow :=
  { h with cells := Table.set 0#32 h.cells (cellKey p r n) (BitVec.ofNat 32 v) }

/-- The reduction of joint column `j` for row `m` of an operation. -/
def Operation.job (o : Operation) (m j : Nat) : CellJob where
  afmt := o.afmt.toNat
  bfmt := o.bfmt.toNat
  klen := o.klen
  row := (o.acts.drop (m * formatRow o.afmt.toNat)).take (formatRow o.afmt.toNat)
  col := tileColumn o.bfmt.toNat (o.weights.getD (j / 64) []) (j % 64)
  sa := (o.scaleA.drop (4 * m)).take 4
  sb := (o.scaleB.drop (4 * j)).take 4

/-- One cell of an accumulator row computed, with the row flags (R260). -/
def Harrow.computeCell (o : Operation) (r : Nat) (h : Harrow) (j : Nat) : Harrow :=
  let p := Fin.ofNat 8 (j / 64)
  let x := (o.job (r - o.row0) j).reduce (if o.init then 0 else (h.cell p r (j % 64)).toNat)
  { h.setCell p r (j % 64) x.1 with flags := h.flags ||| x.2 }

/-- ACCUMULATOR_ROW_FINAL (R261): a row of an operation becomes final once its turn in row order has come. A row whose reads
have failed stays marked until an operation begins it anew, or it is zeroed (R270). -/
def State.finalRow (s : State) (k : Fin 4) (r : Nat) : State :=
  match (s.opSlot k).op with
  | none => s
  | some o =>
    let mine := s.harrow.work.any fun w => isOperation k w && w.rows.contains r
    if mine = false then s
    else if !(s.opSlot k).oc || !(s.harrow.turnOf (isOperation k) r) then
      s.schedule .accumulatorRowFinal (.row k (Fin.ofNat 64 r))
    else
      let bad := o.badRows.contains r
      s.modHarrow fun h =>
        let h := if bad then { h with badRows := r :: h.badRows.filter fun x => x != r }
          else
            { (upFrom 0 512).foldl (Harrow.computeCell o r) h with
              badRows := if o.init then h.badRows.filter fun x => x != r else h.badRows }
        h.finishRow (isOperation k) r

def execAccumulatorRowFinal (s : State) : Host.Outcome State Fault Refusal :=
  match s.event with
  | .row k r => happen (s.finalRow k r.val)
  | _ => happen s

/-- OPERATION_DONE (R261): DONE is set once every row is final. -/
def State.operationEnds (s : State) (k : Fin 4) : State :=
  match (s.opSlot k).op with
  | none => s
  | some o =>
    if (s.harrow.work.any (isOperation k)) || !o.ended then s.schedule .operationDone (.operation k)
    else s.modOp k fun x => { x with done := true, op := none }

def execOperationDone (s : State) : Host.Outcome State Fault Refusal :=
  match s.event with
  | .operation k => happen (s.operationEnds k)
  | _ => happen s

/-! ### Waiting and zeroing (R262, R263) -/

/-- `hwait.oc` and `hwait.done`: the sheaf ends before it (R253, R165). One that finds ERR clears it and traps (R270). -/
def execHwait (a : RegIdx) (done : Bool) (s : State) : Host.Outcome State Fault Refusal :=
  perform s do
    beginSheaf
    usesHarrow
    let w := n64 (← readBits a)
    trapIf (decide (4 ≤ w)) 0x284 (q w) 2#128
    let k : Fin 4 := Fin.ofNat 4 w
    let x := (← get).opSlot k
    if (if done then x.done else x.oc) = false then stall (if done then .done k else .consumed k)
    match x.err with
    | some e => throw (.operationError k e)
    | none => next

/-- `hzero`. -/
def execHzero (a : RegIdx) (s : State) : Host.Outcome State Fault Refusal :=
  perform s do
    usesHarrow
    slicesReady sliceIds []
    let w := n64 (← readBits a)
    let row0 := fld w 0 6
    let n := fld w 6 6 + 1
    trapIf (w / 2 ^ 12 != 0 || decide (64 < row0 + n)) 0x284 (q w) 2#128
    pure (.lastThen fun s =>
      .ok .seq (s.modHarrow fun h => ({ h with work := h.work ++ [RowWork.zero (upFrom row0 n)] } : Harrow).settle))

/-! ### Drains (R264 to R266, R276) -/

def drainRow0 (w : Nat) : Nat := fld w 0 6
def drainRows (w : Nat) : Nat := fld w 6 6 + 1

/-- A drain word meets Table 16.5. -/
def drainWordValid (w : Nat) : Bool :=
  fld w 22 10 == 0 && (fld w 20 1 == 1 || fld w 12 8 == 0) && drainRow0 w + drainRows w ≤ 64

/-- The place of a drain's destination (R264 step 3). -/
def checkDrainTarget (a n : Nat) : Act Unit := do
  match regionOf a with
  | 0xD => trapIf (decide (2 ^ 18 < a % 2 ^ 68 + n)) 0x120 (q a)
  | 0xE => do
    trapIf (fld a 53 2 != 0) 0x120 (q a)
    checkRemote (← get).view a
    trapIf (decide (2 ^ 18 < fld a 0 22 + n)) 0x120 (q a)
  | _ => trap 0x120 (q a)

/-- `hdrain` and `hdrain.bf16`. -/
def execHdrain (d a : RegIdx) (bf : Bool) (s : State) : Host.Outcome State Fault Refusal :=
  perform s do
    usesHarrow
    slicesReady sliceIds []
    let c ← readReg a
    let w := n64 (← readBits d)
    trapIf (!drainWordValid w) 0x284 (q w) 1#128
    let at_ := addrOf c.bits
    let n := drainRows w * (if bf then 1024 else 2048)
    checkCap c a.val [.store] at_ n
    trapIf (at_ % 32 != 0) 0x101 (q at_) (capVal2 a.val false false n)
    checkDrainTarget at_ n
    let s ← get
    if s.drainRoom = false then stall .drainPlace
    let own := regionOf at_ == 0xD
    let x : Drain :=
      ⟨c, own, fld at_ 0 18, if own then s.core.id else remoteCore at_, BitVec.ofNat 32 (fld w 32 32), fld w 21 1 == 1,
        fld w 20 1 == 1, BitVec.ofNat 8 (fld w 12 8), drainRows w, drainRow0 w, bf, 0, false, 0#6, (s.ctx s.cur).spec, 0⟩
    pure (.lastThen fun s =>
      .ok .seq ((s.modHarrow fun h =>
        { h with drains := h.drains ++ [x], work := h.work ++ [.drain (upFrom x.row0 x.nrows)] }).scheduleOnce .drainRowWrite))

/-- The cells of a row in joint-column order. -/
def Harrow.rowCells (h : Harrow) (r : Nat) : List Nat :=
  (sliceIds.map fun p => (upFrom 0 64).map fun n => (h.cell p r n).toNat).flatten

/-- A drained row's bytes, and the flags of its conversion (R264). -/
def drainedRow (cells : List Nat) (bf : Bool) : List Byte × Flags :=
  if bf then
    let l := cells.map fun c => Fmt.bf16.convert 0#2 (Fmt.f32.decode c)
    ((l.map fun x => leBytes 2 x.1).flatten, l.foldl (fun f x => f ||| x.2) 0#6)
  else ((cells.map fun c => leBytes 4 c).flatten, 0#6)

/-- The remote-window message of up to 480 bytes of a row (R265). -/
def Drain.message (x : Drain) (tenant : BitVec 12) (src : CoreId) (off : Nat) (part : List Byte) : Msg :=
  ⟨5, Fin.ofNat 16 (part.length / 32), 0#8, pkeyOf x.dest.bits, tenant, src, x.target, x.spec, leBytes 16 (off % 2 ^ 18) ++ part⟩

/-- Bytes of a row still to be written go to their destination: all of them into the own LM, none while a solo sheaf holds some
of the sectors; else the next message of the row, none while the interface has no place for it (R227). The state, and the bytes
of the row written so far. -/
def State.writeDrained (s : State) (x : Drain) (off : Nat) (data : List Byte) : Option (State × Nat) :=
  if x.ownLm then (s.arriveLm off data false).map fun t => (t, data.length)
  else if s.netFull then none
  else
    let part := (data.drop x.sent).take 480
    some (s.sendMessage (x.message s.core.tenant s.core.id (off + x.sent) part), x.sent + part.length)

/-- The drain after a row. -/
def Drain.wrote (x : Drain) (bad : Bool) (flags : BitVec 6) : Drain :=
  { x with next := x.next + 1, sent := 0, err := x.err || bad, flags := if x.next + 1 = x.nrows then flags else x.flags }

/-- The oldest drain replaced. -/
def Harrow.setDrain (h : Harrow) (x : Drain) : Harrow :=
  { h with drains := match h.drains with
    | [] => []
    | _ :: t => x :: t }

/-- The oldest drain leaves the queue; the next may write. -/
def State.dropDrain (s : State) : State :=
  (s.modHarrow fun h => { h with drains := h.drains.drop 1 }).scheduleOnce .drainRowWrite

/-- DRAIN_ROW_WRITE (R264, R266): the next row of the oldest drain, or a message of it, once its turn in row order has come. -/
def State.drainRow (s : State) : State :=
  match s.harrow.drains with
  | [] => s
  | x :: _ =>
    if x.nrows ≤ x.next then s
    else
      let r := x.row0 + x.next
      if !(s.harrow.turnOf isDrain r) then s.schedule .drainRowWrite
      else
        let (data, fl) := drainedRow (s.harrow.rowCells r) x.bf16
        match s.writeDrained x (x.offset + x.next * data.length) data with
        | none => s.schedule .drainRowWrite
        | some (s, n) =>
          if n < data.length then (s.modHarrow fun h => h.setDrain { x with sent := n }).schedule .drainRowWrite
          else
          let s := s.modHarrow fun h =>
            let y := x.wrote (h.badRows.contains r) (h.flags ||| fl)
            let h := { h with flags := h.flags ||| fl }.setDrain y
            (if x.zero then h.zeroRow r else h).finishRow isDrain r
          if x.next + 1 < x.nrows then s.schedule .drainRowWrite
          else if x.wake then s.schedule .drainWakeup
          else s.dropDrain

def execDrainRowWrite (s : State) : Host.Outcome State Fault Refusal := happen s.drainRow

/-- The payload of a wake-up (Table 16.6). -/
def Drain.payload (x : Drain) : Nat :=
  x.tag.toNat * 2 ^ 96 + x.flags.toNat * 2 ^ 46 + x.err.toNat * 2 ^ 45 + x.bf16.toNat * 2 ^ 44 + (x.nrows - 1) * 2 ^ 38 +
    x.row0 * 2 ^ 32 + x.offset

/-- The wake-up message. -/
def Drain.wakeup (x : Drain) (tenant : BitVec 12) (src : CoreId) : Msg :=
  ⟨0, 0, x.cls, pkeyOf x.dest.bits, tenant, src, x.target, x.spec, leBytes 16 x.payload⟩

/-- A wake-up for the issuing core's own ring (R276): queued without a key check, or diverted; none where it waits. -/
def State.takeWakeup (s : State) (m : Msg) : Option State :=
  if s.core.mode = .held ∨ s.core.kernel = none then some (s.divert m 0x20B)
  else if s.core.handoff.isSome || s.core.scrubbing then none
  else s.queueMessage m

/-- DRAIN_WAKEUP (R264, R276): the closing wake-up is queued in the core's own ring, or leaves as a task message. The drain
keeps its place until the wake-up has left the core, or stands in its ring. In a handoff the drain has sent its wake-up,
which waits as a message does (R273, R235). -/
def State.wakeDrain (s : State) : State :=
  match s.harrow.drains with
  | [] => s
  | x :: _ =>
    let m := x.wakeup s.core.tenant s.core.id
    if x.next < x.nrows then s
    else if x.wake = false then (if m ∈ s.core.outgoing then s.schedule .drainWakeup else s.dropDrain)
    else if x.ownLm = false ∧ s.netFull then s.schedule .drainWakeup
    else if x.ownLm = false then
      (((s.releaseTo x.target).sendMessage m).modHarrow fun h => h.setDrain { x with wake := false }).schedule .drainWakeup
    else
      match s.takeWakeup m with
      | some t => t.dropDrain
      | none => if s.core.handoff.isSome then s.dropDrain.schedule .drainWakeup (.msg m) else s.schedule .drainWakeup

def execDrainWakeup (s : State) : Host.Outcome State Fault Refusal :=
  match s.event with
  | .msg m => happen ((s.takeWakeup m).getD (s.schedule .drainWakeup (.msg m)))
  | _ => happen s.wakeDrain

/-! ### Cells, status and flags (R267 to R269) -/

/-- The cell address of `hacc`: row and group. -/
def cellWord (a : RegIdx) : Act (Nat × Nat) := do
  let w := n64 (← readBits a)
  trapIf (w / 2 ^ 10 != 0) 0x284 (q w) 2#128
  let s ← get
  if s.rowTurn (fld w 0 6) = false then stall (.row (Fin.ofNat 64 w))
  pure (fld w 0 6, fld w 6 4)

/-- `hacc.rd`. -/
def execHaccRd (d a : RegIdx) (s : State) : Host.Outcome State Fault Refusal :=
  perform s do
    usesHarrow
    slicesReady [(← get).sliceNo] []
    let (r, g) ← cellWord a
    let s ← get
    write128 d (q (ofLanes 32 ((upFrom (4 * g) 4).map fun n => (s.harrow.cell s.sliceNo r n).toNat)))
    pure (.last .seq)

/-- `hacc.wr`. -/
def execHaccWr (d a : RegIdx) (s : State) : Host.Outcome State Fault Refusal :=
  perform s do
    usesHarrow
    slicesReady [(← get).sliceNo] []
    let (r, g) ← cellWord a
    let v ← readBits d
    pure (.lastThen fun s =>
      .ok .seq (s.modHarrow fun h => (upFrom 0 4).foldl (fun h i => h.setCell s.sliceNo r (4 * g + i) (lane v 32 i)) h))

/-- A mask of the operation slots for which a condition holds. -/
def Harrow.opMask (h : Harrow) (f : OpSlot → Bool) : Nat :=
  (([0, 1, 2, 3] : List (Fin 4)).map fun k => if f (h.ops.get k) then 2 ^ k.val else 0).sum

/-- Harrow status (Table 16.7). -/
def State.harrowStatus (s : State) : Nat :=
  let h := s.harrow
  let x := s.slice
  h.opMask (fun o => o.err.isSome) * 2 ^ 32 + h.opMask OpSlot.done * 2 ^ 28 + h.opMask OpSlot.oc * 2 ^ 24 +
  h.drains.length % 8 * 2 ^ 20 + x.shadow.fmt.toNat * 2 ^ 16 + x.active.fmt.toNat * 2 ^ 12 + x.active.valid.toNat * 2 ^ 10 +
  x.shadow.valid.toNat * 2 ^ 9 + x.load.isSome.toNat * 2 ^ 8 + (sliceIds.all s.sliceAvailable).toNat * 2 ^ 6 +
  (h.flags &&& ~~~Flags.dz).toNat

/-- `hstat`. -/
def execHstat (d : RegIdx) (s : State) : Host.Outcome State Fault Refusal :=
  perform s do
    usesHarrow
    write128 d (q (← get).harrowStatus)
    next

/-- `hset.clr`. -/
def execHsetClr (a : RegIdx) (s : State) : Host.Outcome State Fault Refusal :=
  perform s do
    usesHarrow
    let w := n64 (← readBits a)
    trapIf (w / 2 ^ 6 != 0) 0x284 (q w) 2#128
    pure (.lastThen fun s =>
      .ok .seq (s.modHarrow fun h => ({ h with work := h.work ++ [RowWork.flags (BitVec.ofNat 6 w)] } : Harrow).settle))

/-- `hset.discard`. -/
def execHsetDiscard (s : State) : Host.Outcome State Fault Refusal :=
  perform s do
    usesHarrow
    slicesReady [(← get).sliceNo] []
    let me ← issuer
    if (← get).swapStands me then stall .discard
    pure (.lastThen fun s =>
      .ok .seq (s.modSlice fun x => { x with shadow := ⟨x.shadow.fmt, false, []⟩, load := none, bad := none }))

end Sys2Proof.Machine
end

