-- ==== Sys2Proof/Machine/LoadStore.lean ====
section
/-! DEFINITION. Loads and stores (R127 to R131), ordered accesses and atomics (R132 to R136, R356, R357), fences, cache
maintenance and prefetches (R137 to R142). -/

namespace Sys2Proof.Machine

/-! ### Loads -/

/-- The bytes of a load at a place, system space or memory. -/
def loadBytes (v : View) (p : Place) (a n : Nat) : Act (List Byte) := do
  if p.system then
    let x ← loadSystem p a
    pure (leBytes 8 x.toNat)
  else readPlace v p a n

/-- A load of `n` bytes at `a` through `c` of register `r`: the place and the bytes (R128). -/
def loadFrom (c : Reg) (r : RegIdx) (a n : Nat) : Act (Place × List Byte) := do
  let v := (← get).view
  let p ← checkAccess v c r.val .load a n
  let l ← loadBytes v p a n
  pure (p, l)

/-- How a load extends what it reads (Table 9.1). -/
def extendSigned (n : Nat) (v : Nat) : Q := wr64 (signed (8 * n) v)
def extendUnsigned (_ : Nat) (v : Nat) : Q := wr64 (v : Int)
def extendNone (_ : Nat) (v : Nat) : Q := q v

/-- A load with offset (R124, R128). -/
def load (n : Nat) (ext : Nat → Nat → Q) (d a : RegIdx) (imm : Int) : Act After := do
  let c ← readReg a
  let (p, l) ← loadFrom c a (operandAddr c.bits imm) n
  write128 d (ext n (ofBytes l))
  pure p.done

def execLdB (d a : RegIdx) (imm : BitVec 15) (s : State) := perform s (load 1 extendSigned d a imm.toInt)
def execLdH (d a : RegIdx) (imm : BitVec 15) (s : State) := perform s (load 2 extendSigned d a imm.toInt)
def execLdW (d a : RegIdx) (imm : BitVec 15) (s : State) := perform s (load 4 extendSigned d a imm.toInt)
def execLdD (d a : RegIdx) (imm : BitVec 15) (s : State) := perform s (load 8 extendSigned d a imm.toInt)
def execLdQ (d a : RegIdx) (imm : BitVec 15) (s : State) := perform s (load 16 extendNone d a imm.toInt)
def execLdzB (d a : RegIdx) (imm : BitVec 15) (s : State) := perform s (load 1 extendUnsigned d a imm.toInt)
def execLdzH (d a : RegIdx) (imm : BitVec 15) (s : State) := perform s (load 2 extendUnsigned d a imm.toInt)
def execLdzW (d a : RegIdx) (imm : BitVec 15) (s : State) := perform s (load 4 extendUnsigned d a imm.toInt)
def execLdD16 (d : RegIdx) (imm : BitVec 6) (s : State) := perform16 s (load 8 extendSigned d 2 (8 * imm.toNat : Nat))

/-- `ld.c` (R129): the tag comes with the bits where the capability carries LOADCAP. -/
def execLdC (d a : RegIdx) (imm : BitVec 15) (s : State) : Host.Outcome State Fault Refusal :=
  perform s do
    let c ← readReg a
    let (p, l) ← loadFrom c a (operandAddr c.bits imm.toInt) 16
    let s ← get
    writeReg d ⟨qOfBytes l, hasPerm c.bits .loadcap && !p.host && s.seenTag s.cur p.loc⟩
    pure p.done

/-! ### Stores -/

/-- The bytes of a store at a place: a register of system space changes at the commit, memory is held (R164, R298). -/
def storeBytes (v : View) (p : Place) (a : Nat) (data : List Byte) (tag : Bool) : Act After := do
  if p.system then storeSystem v p a (BitVec.ofNat 64 (ofBytes data))
  else
    writePlace p data tag
    pure p.done

/-- A store with offset: the low `n` bytes of b (R124, R128). -/
def storeTo (n : Nat) (a b : RegIdx) (imm : Int) : Act After := do
  let c ← readReg a
  let y ← readBits b
  let v := (← get).view
  let addr := operandAddr c.bits imm
  let p ← checkAccess v c a.val .store addr n
  storeBytes v p addr (leBytes n y.toNat) false

def execStB (a b : RegIdx) (off : BitVec 15) (s : State) := perform s (storeTo 1 a b off.toInt)
def execStH (a b : RegIdx) (off : BitVec 15) (s : State) := perform s (storeTo 2 a b off.toInt)
def execStW (a b : RegIdx) (off : BitVec 15) (s : State) := perform s (storeTo 4 a b off.toInt)
def execStD (a b : RegIdx) (off : BitVec 15) (s : State) := perform s (storeTo 8 a b off.toInt)
def execStQ (a b : RegIdx) (off : BitVec 15) (s : State) := perform s (storeTo 16 a b off.toInt)
def execStD16 (d : RegIdx) (imm : BitVec 6) (s : State) := perform16 s (storeTo 8 2 d (8 * imm.toNat : Nat))

/-- A place in host or peer memory, which keeps no tags (R126). -/
def Place.untagged (p : Place) : Bool := p.host || !keepsTags p.loc

/-- `st.c` (R129). -/
def execStC (a b : RegIdx) (off : BitVec 15) (s : State) : Host.Outcome State Fault Refusal :=
  perform s do
    let c ← readReg a
    let y ← readReg b
    let v := { (← get).view with tagged := y.tag }
    let addr := operandAddr c.bits off.toInt
    checkCap c a.val (.store :: if y.tag then [.storecap] else []) addr 16
    let p ← checkAccess v c a.val .store addr 16
    trapIf (y.tag && p.untagged) 0x186 (q addr) (capVal2 a.val false false 16)
    storeBytes v p addr (qBytes y.bits) y.tag

/-! ### Scopes (R139) -/

/-- Scopes that reach beyond the die. -/
def scopeWide : Scope → Bool
  | .dev | .sys => true
  | _ => false

/-- What a release at a scope does to this die's copies (R139). -/
def State.releaseAt (s : State) (sc : Scope) : State := if scopeWide sc then s.writeBackAll else s

/-- An acquire at a scope (R139). -/
def acquireAt (sc : Scope) : Act Unit := if scopeWide sc then acquireAct else pure ()

/-- An acquire at a scope waits before its instruction does anything (R178). -/
def awaitAcquire (sc : Scope) : Act Unit := do
  let s ← get
  if scopeWide sc && s.acquireWaits (some s.cur) then stall .solo

def awaitRelease (sc : Scope) : Act Unit :=
  match sc with
  | .sys => awaitStores
  | _ => pure ()

/-- An instruction that is a release or an acquire, or both, at a scope (R133, R138): at `.dev` and `.sys` it ends its
sheaf and acts on the copies after the commit. -/
def ordered (edge : Bool) (sc : Scope) (rel acq : Bool) : After :=
  if scopeWide sc then
    .lastThen do
      if rel then modify fun s => s.releaseAt sc
      if acq then acquireAt sc
      pure .seq
  else if edge then .last .seq
  else .go .seq

/-- The bytes of a width (Table 0.4). -/
def widthBytes : MemWidth → Nat
  | .b => 1
  | .h => 2
  | .w => 4
  | .d => 8
  | .q => 16

/-- The extension of `lda`: that of the `ld` of its width (R133). -/
def widthExtend : MemWidth → Nat → Nat → Q
  | .q => extendNone
  | _ => extendSigned

/-- `lda` (R133). -/
def execLda (d a : RegIdx) (sz : MemWidth) (sc : Scope) (s : State) : Host.Outcome State Fault Refusal :=
  perform s do
    awaitAcquire sc
    let c ← readReg a
    let (p, l) ← loadFrom c a (addrOf c.bits) (widthBytes sz)
    write128 d (widthExtend sz (widthBytes sz) (ofBytes l))
    pure (ordered p.edge sc false true)

/-- After a store that is also a release. -/
def After.thenRelease (r : After) (sc : Scope) : After :=
  match r with
  | .lastThen f => .lastThen fun s =>
    match f s with
    | .ok g s => .ok g (s.releaseAt sc)
    | e => e
  | .last g => .lastThen fun s => .ok g (s.releaseAt sc)
  | .go g => if scopeWide sc then .lastThen fun s => .ok g (s.releaseAt sc) else .go g
  | .hold w => .hold w

/-- `strl` (R133). -/
def execStrl (a b : RegIdx) (sz : MemWidth) (sc : Scope) (s : State) : Host.Outcome State Fault Refusal :=
  perform s do
    awaitRelease sc
    let c ← readReg a
    let y ← readBits b
    let v := (← get).view
    let addr := addrOf c.bits
    let p ← checkAccess v c a.val .store addr (widthBytes sz)
    let r ← storeBytes v p addr (leBytes (widthBytes sz) y.toNat) false
    pure (r.thenRelease sc)

/-! ### Atomics (R134 to R136) -/

/-- The operations of Table 9.3 and what they write: none where nothing is written. `w` is the width in bits. -/
inductive Amo where | add | swap | cas | casq | min | max | minn | maxn | and | or | xor
  deriving DecidableEq, Repr

def Amo.new (op : Amo) (w old arg expect : Nat) : Option Nat :=
  match op with
  | .add => some ((old + arg) % 2 ^ w)
  | .swap => some arg
  | .cas | .casq => if old = expect then some arg else none
  | .min => some (if signed w old < signed w arg then old else arg)
  | .max => some (if signed w old > signed w arg then old else arg)
  | .minn => some (Nat.min old arg)
  | .maxn => some (Nat.max old arg)
  | .and => some (old &&& arg)
  | .or => some (old ||| arg)
  | .xor => some (old ^^^ arg)

/-- Operations that the host performs by an AtomicOp (R356). -/
def Amo.hasRequest : Amo → Bool
  | .add | .swap | .cas | .casq => true
  | _ => false

/-- The old value as d receives it (R134). -/
def oldValue (n old : Nat) : Q := if n = 16 then q old else wr64 (signed (8 * n) old)

/-- The atomic at its home after the commit, on the location's own bytes (R135, R136): it squashes the other slots'
sheaves that hold some of them (R172). -/
def atomicAtHome (v : View) (p : Place) (va n : Nat) (op : Amo) (arg expect : Nat) : Act Nat := do
  askHost p.loc n true
  arriveAt p.loc n
  modify fun s => if s.remote p.loc then (s.flushSector (p.loc / 32)).unsnoop p.loc n true else s
  let s ← get
  trapIf (!s.opensAll p.key p.loc n) 0x130 (q va) (faultVal2 p.level .atomic v.level)
  let old := ofBytes (s.bytes p.loc n)
  match op.new (8 * n) old arg expect with
  | some new =>
    modify fun s =>
      match spaceOf p.loc with
      | .hbm => s.sealWrite p.key p.loc (leBytes n new) false
      | _ => s.poke p.loc (leBytes n new) false
  | none => pure ()
  pure old

/-- The value of `xval2` of cause 0x384 (R357). -/
def refusedVal2 (f w : Nat) (ca notSent : Bool) : Q := q (w + f * 16 + ca.toNat * 128 + notSent.toNat * 256)

/-- An atomic on host memory (R356): by an AtomicOp, through ownership of the line, or refused. -/
def atomicAtHost (v : View) (p : Place) (va n : Nat) (op : Amo) (arg expect : Nat) : Act Nat := do
  let s ← get
  let (f, w) := (s.hostWindowFor v.tenant p.hostAddr n .atomic).getD (0, 0)
  let lo := s.hostWindow f w false
  let coh := fld lo 1 1 == 1
  let apol := fld lo 2 1 == 1
  if op.hasRequest then
    let status := Config.atomicStatus s.fresh
    modify State.tick
    if status = 3 then trap 0x380 (q va) (faultVal2 p.level .atomic v.level)
    if status ≠ 0 ∧ ¬(coh && apol) then trap 0x384 (q va) (refusedVal2 f w (status == 2) false)
    if status = 0 then atomicAtHome v p va n op arg expect else owned
  else
    if coh = false then trap 0x384 (q va) (refusedVal2 f w false true)
    owned
where
  /-- The line is first owned under CXL.cache, which the host may fail (R354). DESIGN CHOICE (log entry 18). -/
  owned : Act Nat := do
    let fails := Config.hostFails (← get).fresh
    modify State.tick
    trapIf fails 0x380 (q va) (faultVal2 p.level .atomic v.level)
    atomicAtHome v p va n op arg expect

/-- An atomic as a member of its sheaf: its read and its held write (R136). -/
def atomicInSheaf (v : View) (p : Place) (va n : Nat) (op : Amo) (arg expect : Nat) : Act Nat := do
  checkData v p .atomic va n
  registerAccess p.loc n false
  registerStore p.loc n
  let s ← get
  let old := ofBytes (s.seenBytes s.cur p.loc n)
  match op.new (8 * n) old arg expect with
  | some new => holdBack (.write p.loc (leBytes n new) false p.key)
  | none => pure ()
  pure old

/-- The die of the core or cluster whose LM or CM holds a location. -/
def coreDie (loc : Nat) : Option Nat :=
  match spaceOf loc with
  | .lm => some (loc / 2 ^ 28 % 8)
  | .cm => some (loc / 2 ^ 28 % 8)
  | _ => none

/-- A location whose home is not on this die: an atomic on it is performed there (R136). -/
def State.homeElsewhere (s : State) (p : Place) : Bool :=
  p.host || spaceOf p.loc == .peer || s.remote p.loc ||
    (match coreDie p.loc with
      | some d => d != s.dieNo
      | none => false)

/-- An atomic (R134): performed in its sheaf, or at its home after the commit where that is on another die, or in host
or peer memory (R136). -/
def atomic (op : Amo) (sz : MemWidth) (sc : Scope) (d a b : RegIdx) : Act After := do
  awaitRelease sc
  awaitAcquire sc
  let c ← readReg a
  let y ← readBits b
  let n := (widthBytes sz)
  let arg := bits y 0 (8 * n)
  let expect ← match op with
    | .cas | .casq => do
      let x ← readBits d
      pure (bits x 0 (8 * n))
    | _ => pure 0
  let v := (← get).view
  let va := addrOf c.bits
  let p ← checkAccess v c a.val .atomic va n
  if (← get).homeElsewhere p then
    beginSheaf
    pure (.lastThen do
      roomFor d
      modify fun s => s.releaseAt sc
      let old ← if p.host then atomicAtHost v p va n op arg expect else atomicAtHome v p va n op arg expect
      writeReg d (Reg.data (oldValue n old))
      acquireAt sc
      pure .seq)
  else
    let old ← atomicInSheaf v p va n op arg expect
    writeReg d (Reg.data (oldValue n old))
    pure (ordered p.edge sc true true)

def execAmoadd (d a b : RegIdx) (sz : MemWidth) (sc : Scope) (s : State) := perform s (atomic .add sz sc d a b)
def execAmoswap (d a b : RegIdx) (sz : MemWidth) (sc : Scope) (s : State) := perform s (atomic .swap sz sc d a b)
def execAmocas (d a b : RegIdx) (sz : MemWidth) (sc : Scope) (s : State) := perform s (atomic .cas sz sc d a b)
def execAmocasq (d a b : RegIdx) (sc : Scope) (s : State) := perform s (atomic .casq .q sc d a b)
def execAmomin (d a b : RegIdx) (sz : MemWidth) (sc : Scope) (s : State) := perform s (atomic .min sz sc d a b)
def execAmomax (d a b : RegIdx) (sz : MemWidth) (sc : Scope) (s : State) := perform s (atomic .max sz sc d a b)
def execAmominn (d a b : RegIdx) (sz : MemWidth) (sc : Scope) (s : State) := perform s (atomic .minn sz sc d a b)
def execAmomaxn (d a b : RegIdx) (sz : MemWidth) (sc : Scope) (s : State) := perform s (atomic .maxn sz sc d a b)
def execAmoand (d a b : RegIdx) (sz : MemWidth) (sc : Scope) (s : State) := perform s (atomic .and sz sc d a b)
def execAmoor (d a b : RegIdx) (sz : MemWidth) (sc : Scope) (s : State) := perform s (atomic .or sz sc d a b)
def execAmoxor (d a b : RegIdx) (sz : MemWidth) (sc : Scope) (s : State) := perform s (atomic .xor sz sc d a b)

/-! ### Fences and sheaves (R138, R140) -/

def fenceReleases : FenceKind → Bool
  | .acq => false
  | _ => true

def fenceAcquires : FenceKind → Bool
  | .rel => false
  | _ => true

/-- A fence: what it waits for, and its release and acquire. -/
def fence (sc : Scope) (rel acq : Bool) : Act After := do
  if rel then awaitRelease sc
  if acq then awaitAcquire sc
  pure (ordered false sc rel acq)

def execFence (k : FenceKind) (sc : Scope) (s : State) := perform s (fence sc (fenceReleases k) (fenceAcquires k))
def execFsc (sc : Scope) (s : State) := perform s (fence sc true true)
def execSheaf (s : State) := perform s (pure (.last .seq))

/-! ### Cache maintenance (R141, R142) -/

/-- Try an act; where it stops, nothing comes of it but what walks leave. -/
def attempt {α : Type} (act : Act α) : Act (Option α) := fun s =>
  match act s with
  | .ok x t => .ok (some x) t
  | .error _ t => .ok none (s.keep t)

/-- The page that an address translates to in HBM, if any: its first byte and its size. -/
def pageOf (v : View) (va : Nat) : Act (Option (Nat × Nat)) := do
  match ← attempt (leafOf v va) with
  | none => pure none
  | some (e, level) =>
    let base := if level = 0 then leafFrame e va * 2 ^ 12 else ptePpn e * 2 ^ 12
    if pteHome e ≠ 1 ∧ base < hbmTop then pure (some (base, 2 ^ (12 + 9 * level))) else pure none

/-- Act on this die's copies of the 256-byte lines of the range from `va` to `top`, page by page. -/
def eachLine (v : View) (f : State → List Nat → State) (va top : Nat) : Nat → Act Unit
  | 0 => pure ()
  | fuel + 1 => do
    if va < top ∧ regionOf va < 0xC then
      let stop := Nat.min top ((va / 2 ^ 12 + 1) * 2 ^ 12)
      match ← pageOf v va with
      | none => pure ()
      | some (base, size) =>
        let lo := (base + va % size) / 256 * 256
        let hi := base + va % size + (stop - va)
        modify fun s => f s (s.copiedSectors.filter fun x => decide (lo / 32 ≤ x) && decide (32 * x < (hi + 255) / 256 * 256))
      eachLine v f stop top fuel

/-- `cinv` and `cwb` of a range (R141). -/
def maintain (a b : RegIdx) (perm : Perm) (f : State → List Nat → State) : Act After := do
  let c ← readReg a
  let y ← readBits b
  let len := n64 y
  let va := addrOf c.bits
  if len = 0 then pure (.last .seq)
  else
    match capFault c [perm] va len with
    | some cause => trap cause (q va) (capVal2 a.val false false len)
    | none =>
      let v := (← get).view
      pure (.lastThen do
        eachLine v f va (va + len) (len / 2 ^ 12 + 2)
        pure .seq)

/-- `cinv`: what it invalidates squashes the other slots' sheaves that have read it, once no solo sheaf defers that
(R177, R178). -/
def execCinv (a b : RegIdx) (s : State) : Host.Outcome State Fault Refusal :=
  perform s do
    awaitAcquire .dev
    maintain a b .load fun s l => s.invalidate (some s.cur) l

def execCwb (a b : RegIdx) (s : State) := perform s (maintain a b .store fun s l => l.foldl State.writeBack s)

def execCinvAll (s : State) : Host.Outcome State Fault Refusal :=
  perform s do
    awaitAcquire .dev
    pure (.lastThen do
      acquireAct
      pure .seq)

def execCwbAll (s : State) := perform s (pure (.lastThen fun s => .ok .seq s.writeBackAll))

/-- The line of `size` bytes that holds an address, brought into this die's caches where every check passes (R142):
those of a 1-byte load at the address, the spec giving no length. DESIGN CHOICE (log entry 66). -/
def prefetchLine (a : RegIdx) (size : Nat) : Act After := do
  let c ← readReg a
  let va := addrOf c.bits
  let v := (← get).view
  let r ← attempt do
    checkCap c a.val [.load] va 1
    if 0xC ≤ regionOf va then trap 0x120
    let (e, _) ← leafFor v va .load
    let p ← placeTranslated v c.bits .load va 1 0#128
    if 2 ≤ pteHome e ∨ spaceOf p.loc ≠ .hbm ∨ p.host = true then trap 0x120
    let line := { p with loc := p.loc / size * size }
    checkData v line .load va size
    if size = 32 then modify (line.cached size)
  let _ := r
  next

def execPfL1 (a : RegIdx) (s : State) := perform s (prefetchLine a 32)
def execPfL2 (a : RegIdx) (s : State) := perform s (prefetchLine a 256)

end Sys2Proof.Machine
end

