-- ==== Sys2Proof/Machine/Privileged.lean ====
section
/-! DEFINITION. The system instructions (R282 to R289, R302, R393, R394) and the events of the core that belong to them:
asynchronous causes (R281, R296), the watchdog (R233), the end of an `idle` (R285), grants of the headland (R394). -/

namespace Sys2Proof.Machine

/-- An instruction that user level may not issue (R282). -/
def aboveUser : Act Unit := do
  let c ← myCtx
  let at_ ← instrAddr
  trapIf (c.level == .user) 0x009 (q at_)

/-! ### Causes chosen by software (R283) -/

/-- The ranges of the cause codes of Table 18.9. -/
def causeRanges : List (Nat × Nat) :=
  [(0x001, 0x00E), (0x040, 0x080), (0x0A0, 0x0A1), (0x101, 0x101), (0x110, 0x113), (0x11C, 0x11C), (0x120, 0x122),
    (0x124, 0x124), (0x130, 0x133), (0x140, 0x142), (0x148, 0x14A), (0x180, 0x186)] ++
  [(0x201, 0x207), (0x209, 0x20C), (0x210, 0x215), (0x280, 0x286), (0x2A0, 0x2A0), (0x2E0, 0x2E0), (0x2E2, 0x2E4),
    (0x300, 0x308), (0x310, 0x311), (0x380, 0x380), (0x384, 0x385), (0x388, 0x38A)]

/-- A cause that Table 18.9 allocates. -/
def causeAllocated (c : Nat) : Bool := causeRanges.any fun r => r.1 ≤ c && c ≤ r.2

/-- `sys`. -/
def execSys (a b : RegIdx) (s : State) : Host.Outcome State Fault Refusal :=
  perform s do
    let n := n64 (← readBits a)
    let v ← readBits b
    trapIf (decide (1024 ≤ n) || !causeAllocated n) 0x003 (q n)
    trap n v

/-- `brk`. -/
def execBrk (s : State) : Host.Outcome State Fault Refusal := perform s (trap 0x00A)

/-! ### Waiting and halting (R285, R286) -/

/-- `idle`. -/
def execIdle (a : RegIdx) (s : State) : Host.Outcome State Fault Refusal :=
  perform s do
    match (← myCtx).wait with
    | some ⟨.idle left done, _⟩ =>
      if done = false then stall (.idle left false)
      let _ ← readBits a
      next
    | _ =>
      let n := n64 (← peek (readBits a))
      modMySlot fun x => { x with woken := false }
      pure (.hold (.idle (if n = 0 then none else some n) false))

/-- IDLE_END (R285): an arrival or the cycle count ends the wait. -/
def State.endIdle (s : State) (k : SlotId) : State :=
  match (s.ctx k).wait with
  | some ⟨.idle left done, pc⟩ =>
    let ended := done || (s.slot k).woken || left == some 0
    (s.modCtx k fun c => { c with wait := some ⟨.idle left ended, pc⟩ }).modSlot k fun x => { x with woken := false }
  | _ => s

def execIdleEnd (s : State) : Host.Outcome State Fault Refusal :=
  match s.event with
  | .slot k => happen (s.endIdle k)
  | _ => happen s

/-- The core halts once every open sheaf has committed (R286). -/
def State.beginHalt (s : State) : State :=
  let s := s.modCore fun c => { c with mode := .halting }
  (slotIds.foldl (fun s k =>
    if (s.slot k).sheaf.snapshot.isSome then s.scheduleOnce .sheafCommit (.slot k) else s) s).settleHalt

/-- `halt`. -/
def execHalt (s : State) : Host.Outcome State Fault Refusal :=
  perform s do
    aboveUser
    pure (.lastThen fun s => .ok .seq s.beginHalt)

/-! ### `vfence` (R302, R311) -/

/-- A translation whose page holds an address, whatever tenant and root it was made for. -/
def TlbEntry.holds (t : TlbEntry) (va : Nat) : Bool := t.covers { level := .monitor, tenant := t.tenant, root := t.root, enabled := true, windows := [] } va

/-- The translations that a `vfence` of a kind drops. -/
def vfenceDrops (s : State) (k : VfKind) (va : Nat) (t : TlbEntry) : Bool :=
  match k with
  | .page => t.holds va
  | .tenant => t.tenant == s.core.tenant
  | .all => true

/-- A command of an engine of this core has used an entry that a `vfence` drops, also one that refused its access, and is not
done. -/
def State.walksPending (s : State) (k : VfKind) (va : Nat) : Bool :=
  slotIds.any fun j => [Fifo.e0, Fifo.e2].any fun f => ((s.slot j).engine f).taken.any fun c =>
    c.progress.begun && c.progress.pages.any fun p =>
      match p.2.2 with
      | .inl (cause, level, e) => cause == 0x113 && vfenceDrops s k va ⟨0, s.core.tenant, p.1, level, BitVec.ofNat 64 e⟩
      | .inr (e, level) => vfenceDrops s k va ⟨0, s.core.tenant, p.1, level, BitVec.ofNat 64 e⟩

/-- The effect of a `vfence` after its sheaf: the release, the drop, and the wait for engine commands of the die; its operand
is popped as it completes. -/
def fenceWalks (a : RegIdx) (k : VfKind) (sc : VfScope) (va : Nat) : Act Go := do
  modify fun s => if sc = .dev then s.writeBackAll else s
  modify fun s => s.dropTranslations (vfenceDrops s k va)
  let s ← get
  if (sc = .die ∨ sc = .dev) ∧ s.walksPending k va = true then
    modMyCtx fun c => { c with wait := some ⟨.walks k va, c.pc⟩, guarded := none }
    pure .gone
  else
    let _ ← readBits a
    pure .seq

/-- `vfence`. -/
def execVfence (a : RegIdx) (sc : VfScope) (k : VfKind) (s : State) : Host.Outcome State Fault Refusal :=
  perform s do
    aboveUser
    match (← myCtx).wait with
    | some ⟨.walks j va, _⟩ =>
      if (← get).walksPending j va then stall (.walks j va)
      let _ ← readBits a
      next
    | _ =>
      let va := addrOf (← peek (readBits a))
      pure (.lastThen (fenceWalks a k sc va))

/-! ### Power leave (R287, R393, R394) -/

/-- A request of slot `k` at the back of the headland's queue; a grant that it holds is first returned. -/
def State.askFor (s : State) (k : SlotId) (cls : Nat) : State :=
  (((s.returnGrant k).withdrawAsk k).modDie fun d => { d with asks := d.asks ++ [⟨k, cls, none⟩] }).scheduleOnce .headlandGrant

/-- A request of slot `k` waits at the headland. -/
def State.asking (s : State) (k : SlotId) : Bool := s.die.asks.any fun a => a.isOf k

/-- `pwreq`. -/
def execPwreq (a : RegIdx) (s : State) : Host.Outcome State Fault Refusal :=
  perform s do
    let s ← get
    let x ← mySlot
    match x.ctx.wait, s.asking s.cur, x.grant with
    | some ⟨.leave _, _⟩, _, some _ =>
      let _ ← readBits a
      next
    | some ⟨.leave c, _⟩, true, none => stall (.leave c)
    | _, _, _ =>
      let n := n64 (← peek (readBits a))
      trapIf (classWeight n == 0) 0x00B (q n)
      modify fun s => s.askFor s.cur n
      pure (.hold (.leave n))

/-- `pwrel`. -/
def execPwrel (s : State) : Host.Outcome State Fault Refusal :=
  perform s do
    modify fun s => s.returnGrant s.cur
    next

/-- A request or a grant of a slot of another core. -/
def Ask.isAt (a : Ask) (c : CoreId) (k : SlotId) : Bool := a.other == some c && a.slot == k

/-- What the event brings from another core of the die: its grant returned, its request withdrawn, or a request of its own at
the back of the queue (R394). -/
def State.hearOther (s : State) : State :=
  match s.event with
  | .leave c k cls =>
    if dieOf c = s.dieNo ∧ c ≠ s.core.id then
      let w := ((s.die.granted.filter fun a => a.isAt c k).map fun a => classWeight a.cls).sum
      s.modDie fun d =>
        { d with
          asks := (d.asks.filter fun a => !a.isAt c k) ++
            ((cls.filter fun n => classWeight n != 0).map fun n => (⟨k, n, some c⟩ : Ask)).toList
          granted := d.granted.filter fun a => !a.isAt c k
          used := d.used - w }
    else s
  | _ => s

/-- The grant of a request. -/
def State.grantAsk (s : State) (h : Ask) : State :=
  match h.other with
  | none => s.modSlot h.slot fun x => { x with grant := some h.cls }
  | some _ => s.modDie fun d => { d with granted := d.granted ++ [h] }

/-- The oldest request is granted where it fits the budget. -/
def State.grantOldest (s : State) : State :=
  match s.die.asks with
  | [] => s
  | h :: rest =>
    let w := classWeight h.cls
    if 0 < s.budget ∧ (s.die.used + w ≤ s.budget ∨ s.die.used = 0) then
      ((s.grantAsk h).modDie fun d => { d with asks := rest, used := d.used + w }).scheduleOnce .headlandGrant
    else s

/-- HEADLAND_GRANT (R394): what other cores of the die ask and return, then one grant. -/
def State.headland (s : State) : State := s.hearOther.grantOldest

def execHeadlandGrant (s : State) : Host.Outcome State Fault Refusal := happen s.headland

/-! ### Control registers (R74 to R76, R288, R289, Table 5.10) -/

/-- The register numbers that user level may read, and those that it may write. -/
def userReads (n : Nat) : Bool := n ≤ 0x00C || (0x107 ≤ n && n ≤ 0x10A)
def userWrites (n : Nat) : Bool := n ≤ 0x00A && n != 0x002 && n != 0x003

/-- An access to a control register is allowed at a level. -/
def crAllowed (l : Level) (n : Nat) (write : Bool) : Bool :=
  match l with
  | .user => if write then userWrites n else userReads n
  | .supervisor => n < 0x200 && !(write && n == 0x00C)
  | .monitor => true

/-- The control registers of a slot that hold capabilities, and the others of a slot, as a register holds them. -/
def TrapRegs.value (r : TrapRegs) (i : Nat) : Reg :=
  match i with
  | 0 => r.pc
  | 1 => Reg.data (q r.cause.toNat)
  | 2 => Reg.data r.val
  | 3 => Reg.data r.val2
  | 4 => Reg.data (q r.stat.toNat)
  | _ => r.vec

/-- `wdg` (Table 5.17). -/
def Watchdog.word (w : Watchdog) : Nat := w.paused.toNat * 2 ^ 33 + w.en.toNat * 2 ^ 32 + w.limit.toNat

/-- The value of a control register as `crr` reads it. -/
def State.crValue (s : State) (k : SlotId) (n : Nat) : Reg :=
  let c := s.ctx k
  let x := s.core
  match n with
  | 0x000 => Reg.data (q c.frnd.toNat)
  | 0x001 => Reg.data (q c.fstat.toNat)
  | 0x002 => Reg.data (q x.ipol.toNat)
  | 0x003 => Reg.data (q x.cyc.toNat)
  | 0x004 => c.uxpc
  | 0x005 => Reg.data (q c.uxcause.toNat)
  | 0x006 => Reg.data c.uxval
  | 0x007 => c.uxvec
  | 0x008 => Reg.data (q c.hfmt.toNat)
  | 0x009 => c.hsca
  | 0x00A => c.hscb
  | 0x00B => Reg.data (q x.stg.toNat)
  | 0x00C => Reg.data (q x.tenant.toNat)
  | 0x106 => Reg.data (q x.pkey.toNat)
  | 0x107 => Reg.data (q (tableOffset x.tmbase))
  | 0x108 => Reg.data (q (tableOffset x.clsbase))
  | 0x109 => Reg.data (q (tableOffset x.rrbase))
  | 0x10A => Reg.data (q (tableOffset x.hlbase))
  | 0x10B => Reg.data (q x.wdg.word)
  | n =>
    if n < 0x106 then c.sx.value (n - 0x100)
    else if n < 0x206 then c.mx.value (n - 0x200)
    else Reg.data (x.pwin.get (Fin.ofNat 16 (n - 0x210)))

/-- A cause register written: SLOT ignores writes (Table 5.12). -/
def writeCause (old : BitVec 16) (v : Q) : BitVec 16 :=
  BitVec.ofNat 16 (old.toNat / 2 ^ 12 * 2 ^ 12 + v.toNat % 2 ^ 12)

def TrapRegs.write (r : TrapRegs) (i : Nat) (v : Reg) : TrapRegs :=
  match i with
  | 0 => { r with pc := v }
  | 1 => { r with cause := writeCause r.cause v.bits }
  | 2 => { r with val := v.bits }
  | 3 => { r with val2 := v.bits }
  | 4 => { r with stat := BitVec.ofNat 22 v.bits.toNat }
  | _ => { r with vec := v }

/-- A write to a register of a slot. -/
def Ctx.crWrite (c : Ctx) (n : Nat) (v : Reg) : Ctx :=
  match n with
  | 0x000 => { c with frnd := BitVec.ofNat 2 v.bits.toNat }
  | 0x001 => { c with fstat := BitVec.ofNat 6 v.bits.toNat }
  | 0x004 => { c with uxpc := v }
  | 0x005 => { c with uxcause := writeCause c.uxcause v.bits }
  | 0x006 => { c with uxval := v.bits }
  | 0x007 => { c with uxvec := v }
  | 0x008 => { c with hfmt := BitVec.ofNat 8 v.bits.toNat }
  | 0x009 => { c with hsca := v }
  | 0x00A => { c with hscb := v }
  | 0x105 => { c with sx := { c.sx with vec := v }, image := false }
  | n => if n < 0x200 then { c with sx := c.sx.write (n - 0x100) v } else { c with mx := c.mx.write (n - 0x200) v }

/-- A write to a register of the core. -/
def Core.crWrite (c : Core) (n : Nat) (v : Q) : Core :=
  let base : BitVec 13 := BitVec.ofNat 13 (bits v 5 13)
  match n with
  | 0x002 => { c with ipol := v.getLsbD 0 }
  | 0x003 => { c with cyc := BitVec.ofNat 64 v.toNat }
  | 0x00B => { c with stgNext := some (BitVec.ofNat 4 v.toNat) }
  | 0x00C => { c with tenant := BitVec.ofNat 12 v.toNat }
  | 0x106 => { c with pkey := BitVec.ofNat 32 v.toNat }
  | 0x107 => { c with tmbase := base }
  | 0x108 => { c with clsbase := base }
  | 0x109 => { c with rrbase := base }
  | 0x10A => { c with hlbase := base }
  | 0x10B => { c with wdg := { c.wdg with limit := BitVec.ofNat 32 v.toNat, en := v.getLsbD 32, count := 0 } }
  | n =>
    let i := Fin.ofNat 16 (n - 0x210)
    { c with pwin := c.pwin.set i.val (q (v.toNat &&& windowMask)) i.isLt }

/-- A control register that exists once per core (Table 5.10). -/
def crOfCore (n : Nat) : Bool :=
  n == 0x002 || n == 0x003 || n == 0x00B || n == 0x00C || (0x106 ≤ n && n ≤ 0x10B) || 0x210 ≤ n

/-- A vector register, whose write ends the sheaf (R289). -/
def crOfVector (n : Nat) : Bool := n == 0x007 || n == 0x105 || n == 0x205

/-- A write that clears DRILL of a status register releases a held buffer (R116, R289). -/
def State.writeSlotCr (s : State) (k : SlotId) (n : Nat) (v : Reg) : State :=
  let old := (s.crValue k n).bits.getLsbD 3
  let s := s.modCtx k fun c => c.crWrite n v
  if (n = 0x104 ∨ n = 0x204) ∧ old = true ∧ v.bits.getLsbD 3 = false then s.releaseDrill k else s

/-- A write to a register of the core; a stage change takes effect at the next task boundary (R12). -/
def State.writeCoreCr (s : State) (n : Nat) (v : Q) : State :=
  let s := s.modCore fun c => c.crWrite n v
  if n = 0x00B then s.settleStage.scheduleOnce .dispatch else s

/-- What the three writing forms leave in a register that holds `old`. -/
inductive CrForm where | write | set | clear
  deriving DecidableEq, Repr

def CrForm.value (f : CrForm) (old a : Reg) : Reg :=
  match f with
  | .write => a
  | .set => Reg.data (old.bits ||| a.bits)
  | .clear => Reg.data (old.bits &&& ~~~a.bits)

/-- `crw`, `crs` and `crc`. -/
def crModify (f : CrForm) (d a : RegIdx) (c : BitVec 12) : Act After := do
  let n := c.toNat
  let s ← get
  trapIf (!crAllowed s.view.level n true) 0x007 (q n)
  let x ← readReg a
  let old := (← get).crValue s.cur n
  writeReg d old
  let v := f.value old x
  if crOfCore n then pure (.lastThen fun s => .ok .seq (s.writeCoreCr n v.bits))
  else
    modify fun s => s.writeSlotCr s.cur n v
    pure (if crOfVector n then .last .seq else .go .seq)

/-- `crr`. -/
def execCrr (d : RegIdx) (c : BitVec 12) (s : State) : Host.Outcome State Fault Refusal :=
  perform s do
    let s ← get
    trapIf (!crAllowed s.view.level c.toNat false) 0x007 (q c.toNat)
    writeReg d (s.crValue s.cur c.toNat)
    next

def execCrw (d a : RegIdx) (c : BitVec 12) (s : State) := perform s (crModify .write d a c)
def execCrs (d a : RegIdx) (c : BitVec 12) (s : State) := perform s (crModify .set d a c)
def execCrc (d a : RegIdx) (c : BitVec 12) (s : State) := perform s (crModify .clear d a c)

/-! ### Asynchronous causes (R281, R233, R296) -/

/-- The lowest pending cause of a slot. -/
def Slot.pending (x : Slot) : Option Nat :=
  if x.preempt then some 0x00C else if x.resume then some 0x00D else if x.watchdog then some 0x210 else none

/-- The state in which a resumed slot begins (R296). -/
def Ctx.resumeEntry (c : Ctx) (k : SlotId) (frame : BitVec 16) : Ctx :=
  let sx : TrapRegs :=
    { c.sx with pc := Reg.null, cause := causeWord k ⟨0x00D, 0#128, 0#128, false, false⟩, val := q frame.toNat, val2 := 0#128, stat := 5#22 }
  { c with
    level := .supervisor, handler := true, sx := sx, code := vectorTo c.sx.vec 0x00D, entering := some ⟨0x00D, false⟩
    wait := none, run := none, again := none, guarded := none, parked := [] }

/-- A slot stands in `idle`, which a pending cause ends before it is delivered (R285). -/
def Ctx.idling (c : Ctx) : Bool :=
  match c.wait with
  | some ⟨.idle _ _, _⟩ => true
  | _ => false

/-- An asynchronous cause can be delivered to a slot now (R281): at an instruction boundary, while INTRAP of its supervisor is
clear; a resume request to a slot that holds nothing else (R296). -/
def State.deliverable (s : State) (k : SlotId) : Bool :=
  let x := s.slot k
  !x.ctx.sx.intrap &&
    (x.resume ||
      (!x.isFree && !x.starting && (x.preempt || x.watchdog) && !x.ctx.inWholeRun && !x.ctx.idling && x.ctx.entering.isNone &&
        x.ctx.guarded.isNone))

/-- The lowest pending cause of a slot delivered at its next instruction (R281). -/
def State.deliverCause (s : State) (k : SlotId) (c : Nat) : State :=
  let s := s.commit k
  if c = 0x00D then
    (s.modSlot k fun x => { x with resume := false, ctx := x.ctx.resumeEntry k x.frame }).setBubble k
  else
    let s := s.modSlot k fun x => if c = 0x00C then { x with preempt := false } else { x with watchdog := false }
    s.deliver k ⟨c, if c = 0x210 then q s.core.wdg.limit.toNat else 0#128, 0#128, false, false⟩

/-- ASYNC_CAUSE_DELIVERY (R281): a cause that cannot be delivered stays pending. -/
def State.deliverAsync (s : State) (k : SlotId) : State :=
  match (s.slot k).pending with
  | some c => if s.deliverable k then s.deliverCause k c else s
  | none => s

def execAsyncCauseDelivery (s : State) : Host.Outcome State Fault Refusal :=
  match s.event with
  | .slot k => happen (s.deliverAsync k)
  | _ => happen s

/-- WATCHDOG_EXPIRY (R233): cause 0x210 becomes pending on the lowest-numbered slot that holds a firing. -/
def State.expire (s : State) : State :=
  match slotIds.find? fun k => (s.ctx k).firing.isSome with
  | some k => (s.modSlot k fun x => { x with watchdog := true }).wake k
  | none => s

def execWatchdogExpiry (s : State) : Host.Outcome State Fault Refusal := happen s.expire

end Sys2Proof.Machine
end

