-- ==== Sys2Proof/Machine/Quern.lean ====
section
/-! DEFINITION. The quern (R314 to R321): table sets, ranked merging, the pushdown grammar, the detokeniser, and the
commands of e1. -/

namespace Sys2Proof.Machine

/-! ### Text states and sequences -/

/-- A text state bound to no table set. -/
def Text.unbound : Text := ⟨none, false, 0, [], [], false, 0, []⟩

/-- A closed sequence. -/
def Seq.closed : Seq := ⟨false, 0#12, 0, 0#128, false, 0, 0#64, [], [], Vector.replicate 4 none, Text.unbound⟩

/-- Sequence `n` of this die. -/
def State.seq (s : State) (n : Nat) : Seq := Table.get Seq.closed s.die.seqs n

def State.setSeq (s : State) (n : Nat) (x : Seq) : State :=
  s.modDie fun d => { d with seqs := Table.set Seq.closed d.seqs n x }

/-! ### Table sets (R315) -/

/-- Bytes of a capability from its ADDR to its top. -/
def roomOf (c : Q) : Nat := ((capBounds c).2 - (addrOf c : Int)).toNat

/-- `n` bytes at an offset of a table-set capability, or cause 0x311. No bytes need no read. -/
def tableRead (v : View) (c : Reg) (off n : Nat) : Act (List Byte) := do
  let a := (addrOf c.bits + off) % 2 ^ 72
  if n = 0 then pure []
  else
    match capFault c [.load] a n, (← get).engineRegion v a n with
    | none, none =>
      let (_, r) ← engineRead v c.bits a n []
      match r with
      | .inr l => pure l
      | .inl _ => trap 0x311
    | _, _ => trap 0x311

def tableNat (v : View) (c : Reg) (off n : Nat) : Act Nat := do return ofBytes (← tableRead v c off n)

/-- The fields of a table-set header (Table 20.1). -/
structure TableSet where
  cap   : Reg
  acc   : Nat
  go    : Nat
  start : Nat
  states : Nat
  mergeOff : Nat
  merges : Nat
  blob  : Nat
  offs  : Nat
  byteIds : Nat
  eos   : Nat
  v     : Nat

def tableSetOf (c : Reg) (h : Nat) : TableSet where
  cap := c
  acc := fld h 448 32
  go := fld h 416 32
  start := fld h 400 16
  states := fld h 384 16
  mergeOff := fld h 352 32
  merges := fld h 320 32
  blob := fld h 288 32
  offs := fld h 256 32
  byteIds := fld h 224 32
  eos := fld h 192 32
  v := fld h 160 32

/-- The header is well formed. -/
def tableSetValid (h : Nat) : Bool :=
  let t := tableSetOf Reg.null h
  fld h 480 32 == 0 && fld h 0 160 == 0 && decide (1 ≤ t.v) && decide (t.v ≤ 2 ^ 20) && decide (t.eos < t.v) &&
    (t.states == 0 || decide (t.start < t.states))

/-- The table set of a capability, its header read and checked. -/
def readTables (v : View) (c : Reg) : Act TableSet := do
  let h ← tableNat v c 0 64
  trapIf (!tableSetValid h) 0x311
  pure (tableSetOf c h)

/-- The bytes of token `t`. -/
def TableSet.tokenBytes (ts : TableSet) (v : View) (t : Nat) : Act (List Byte) := do
  trapIf (decide (ts.v ≤ t)) 0x311
  let lo ← tableNat v ts.cap (ts.offs + 4 * t) 4
  let hi ← tableNat v ts.cap (ts.offs + 4 * t + 4) 4
  trapIf (decide (hi < lo ∨ lo + 64 < hi)) 0x311
  tableRead v ts.cap (ts.blob + lo) (hi - lo)

/-! ### Ranked merging (R316) -/

/-- The search of R316 in the merge entries from `lo` to `hi`. -/
def TableSet.search (ts : TableSet) (v : View) (key : Nat) : Nat → Nat → Nat → Act Nat
  | 0, lo, _ => pure lo
  | fuel + 1, lo, hi =>
    if lo < hi then do
      let mid := (lo + hi) / 2
      let e ← tableNat v ts.cap (ts.mergeOff + 16 * mid) 16
      if fld e 0 32 * 2 ^ 32 + fld e 32 32 < key then ts.search v key fuel (mid + 1) hi else ts.search v key fuel lo mid
    else pure lo

/-- The rank and the result of a pair. -/
def TableSet.lookup (ts : TableSet) (v : View) (l r : Nat) : Act (Option (Nat × Nat)) := do
  trapIf (decide (2 ^ 24 < ts.merges)) 0x311
  let key := l * 2 ^ 32 + r
  let lo ← ts.search v key 26 0 ts.merges
  if ts.merges ≤ lo then pure none
  else
    let e ← tableNat v ts.cap (ts.mergeOff + 16 * lo) 16
    if fld e 0 32 * 2 ^ 32 + fld e 32 32 = key then pure (some (fld e 64 32, fld e 96 32)) else pure none

/-- The smallest rank among adjacent pairs. -/
def TableSet.best (ts : TableSet) (v : View) : List Nat → Act (Option Nat)
  | a :: b :: t => do
    let here ← ts.lookup v a b
    let later ← ts.best v (b :: t)
    match here, later with
    | some x, some y => pure (some (Nat.min x.1 y))
    | some x, none => pure (some x.1)
    | none, y => pure y
  | _ => pure none

/-- One pass from the left over the pairs of a rank. -/
def TableSet.pass (ts : TableSet) (v : View) (rank : Nat) : Nat → List Nat → Act (List Nat)
  | fuel + 1, a :: b :: t => do
    match ← ts.lookup v a b with
    | some x =>
      if x.1 = rank then
        let l ← ts.pass v rank fuel t
        pure (x.2 :: l)
      else
        let l ← ts.pass v rank fuel (b :: t)
        pure (a :: l)
    | none =>
      let l ← ts.pass v rank fuel (b :: t)
      pure (a :: l)
  | _, l => pure l

/-- encode: passes until no pair merges. -/
def TableSet.merge (ts : TableSet) (v : View) : Nat → List Nat → Act (List Nat)
  | 0, l => pure l
  | fuel + 1, l => do
    match ← ts.best v l with
    | none => pure l
    | some r =>
      let l ← ts.pass v r l.length l
      ts.merge v fuel l

/-- The identifiers of single bytes. -/
def TableSet.byteTokens (ts : TableSet) (v : View) : List Byte → Act (List Nat)
  | [] => pure []
  | b :: t => do
    let x ← tableNat v ts.cap (ts.byteIds + 4 * b.toNat) 4
    let l ← ts.byteTokens v t
    pure (x :: l)

/-! ### The grammar (R317) -/

/-- A configuration: the state and the stack, its top first. -/
structure Parse where
  q     : Nat
  stack : List Nat

/-- One byte fed; none rejects. -/
def TableSet.feed (ts : TableSet) (v : View) (c : Parse) (b : Byte) : Act (Option Parse) := do
  let e ← tableNat v ts.cap (ts.go + 8 * (256 * c.q + b.toNat)) 8
  let next := fld e 0 16
  trapIf (decide (ts.states ≤ next) || fld e 18 14 != 0 || fld e 48 16 != 0) 0x311
  let sym := fld e 32 16
  match fld e 16 2 with
  | 0 => pure (some ⟨next, c.stack⟩)
  | 1 => if c.stack.length = 64 then pure none else pure (some ⟨next, sym :: c.stack⟩)
  | 2 =>
    match c.stack with
    | x :: t => if x = sym then pure (some ⟨next, t⟩) else pure none
    | [] => pure none
  | _ => pure none

def TableSet.feedAll (ts : TableSet) (v : View) : Parse → List Byte → Act (Option Parse)
  | c, [] => pure (some c)
  | c, b :: t => do
    match ← ts.feed v c b with
    | none => pure none
    | some d => ts.feedAll v d t

/-- A configuration accepts. -/
def TableSet.accepts (ts : TableSet) (v : View) (c : Parse) : Act Bool := do
  let x ← tableNat v ts.cap (ts.acc + c.q / 8) 1
  pure (x / 2 ^ (c.q % 8) % 2 == 1 && c.stack.isEmpty)

/-- A token is allowed from a configuration. -/
def TableSet.allowed (ts : TableSet) (v : View) (c : Parse) (t : Nat) : Act Bool := do
  if t = ts.eos then ts.accepts v c
  else
    let l ← ts.tokenBytes v t
    if l = [] then pure false else pure (← ts.feedAll v c l).isSome

/-! ### The detokeniser (R319) -/

/-- The continuation bytes that a lead byte declares. -/
def utf8Rest (b : Byte) : Nat :=
  let n := b.toNat
  if n < 0xC0 then 0 else if n ≤ 0xDF then 1 else if n ≤ 0xEF then 2 else if n ≤ 0xF7 then 3 else 0

/-- The last `n` bytes are an incomplete UTF-8 sequence. -/
def incompleteTail (buf : List Byte) (n : Nat) : Bool :=
  match buf.drop (buf.length - n) with
  | [] => false
  | b :: t => decide (t.length < utf8Rest b) && t.all fun x => 0x80 ≤ x.toNat && x.toNat ≤ 0xBF

/-- The last `n` bytes are a proper beginning of a stop string. -/
def stopTail (buf : List Byte) (stops : List (List Byte)) (n : Nat) : Bool :=
  stops.any fun s => decide (n < s.length) && s.take n == buf.drop (buf.length - n)

/-- holdback(buf). -/
def holdback (buf : List Byte) (stops : List (List Byte)) : Nat :=
  ((upFrom 1 (Nat.min 32 buf.length)).filter fun n => incompleteTail buf n || stopTail buf stops n).foldl Nat.max 0

/-- Where stop `s` first occurs in `buf`. -/
def occurs (buf s : List Byte) : Option Nat :=
  if s = [] then none else (upFrom 0 buf.length).find? fun i => (buf.drop i).take s.length == s

/-- The stop string whose occurrence starts first, ties to the lower number: its start and its number. -/
def firstStop (buf : List Byte) (stops : List (List Byte)) : Option (Nat × Nat) :=
  let found := (upFrom 0 stops.length).filterMap fun k => (occurs buf (stops.getD k [])).map fun i => (i, k)
  found.foldl (fun b x =>
    match b with
    | none => some x
    | some y => if x.1 < y.1 then some x else some y) none

/-- What a token releases: the bytes, those held, and the stop that it reaches. -/
def detokenise (eos : Bool) (buf : List Byte) (stops : List (List Byte)) : List Byte × List Byte × Option Nat :=
  if eos then (buf, [], some 15)
  else
    match firstStop buf stops with
    | some (i, k) => (buf.take i, [], some k)
    | none =>
      let k := holdback buf stops
      (buf.take (buf.length - k), buf.drop (buf.length - k), none)

/-! ### The commands (R318, R320) -/

/-- The text state of a command's sequence: open for the tenant that issued it and, where it must be, bound; else cause
0x310. -/
def commandText (v : View) (n : Nat) (bound : Bool) : Act Text := do
  let x := (← get).seq n
  trapIf (!x.isOpen || x.tenant != v.tenant || (bound && x.text.tables.isNone)) 0x310
  pure x.text

/-- A capability element over a range, or its cause. -/
def needRange (v : View) (c : Reg) (p : Perm) (n : Nat) : Act Unit := do
  match (← get).checkRange v c p n with
  | some e => trap e
  | none => pure ()

/-- A capability element with a permission; where it lies is found as it is read. -/
def needPerm (c : Reg) (p : Perm) : Act Unit := do
  let a := addrOf c.bits
  match capFault c (p :: regionPerms a) a 0 with
  | none | some 0x185 => pure ()
  | some e => trap e

/-- The bytes of a source element. -/
def readSource (v : View) (c : Reg) (n : Nat) : Act (List Byte) := do
  needRange v c .load n
  let (_, r) ← engineRead v c.bits (addrOf c.bits) n []
  match r with
  | .inr l => pure l
  | .inl e => trap e

/-- Bytes written at an offset of a destination element, once the region holds them all (R17). -/
def writeDest (v : View) (c : Reg) (off : Nat) (data : List Byte) : Act Unit := do
  let a := (addrOf c.bits + off) % 2 ^ 72
  if data = [] then pure ()
  else
    match (← get).engineRegion v a data.length with
    | some e => trap e
    | none =>
      let (_, r) ← engineWrite v c.bits a data []
      match r with
      | some e => trap e
      | none => pure ()

def setText (n : Nat) (t : Text) : Act Unit := modify fun s => s.setSeq n { s.seq n with text := t }

/-- QOPEN: the four stop strings of a list of 160 bytes; one that breaks its limits is a table fault. DEDUCED (log
entry 26). -/
def stopList (l : List Byte) : Act (List (List Byte)) := do
  let len (i : Nat) : Nat := (l.getD i 0#8).toNat
  trapIf ((upFrom 0 4).any (fun i => decide (32 < len i)) || ((l.drop 4).take 28).any fun b => b != 0#8) 0x311
  pure ((upFrom 0 4).map fun i => (l.drop (32 + 32 * i)).take (len i))

/-- QOPEN: a table-set header that its capability does not reach is a table fault (R315). -/
def quernOpen (v : View) (c : Command) : Act Answer := do
  let n := fld (headerArg c.header) 0 8
  let gram := fld (headerArg c.header) 8 1 == 1
  let _ ← commandText v n false
  needPerm (c.elem 1) .load
  let ts ← readTables v (c.elem 1)
  let stops ← stopList (← readSource v (c.elem 2) 160)
  trapIf (gram && ts.states == 0) 0x310
  setText n ⟨some (c.elem 1), gram, ts.start, [], [], false, 0, stops⟩
  pure {}

/-- ENCODE. -/
def quernEncode (v : View) (c : Command) : Act Answer := do
  let t ← commandText v (fld (headerArg c.header) 0 8) true
  let n := bits (c.elem 3).bits 0 32
  trapIf (n == 0 || decide (65536 < n)) 0x310
  let text ← readSource v (c.elem 1) n
  needRange v (c.elem 2) .store 0
  let ts ← readTables v (t.tables.getD Reg.null)
  let l ← ts.byteTokens v text
  let l ← ts.merge v l.length l
  let fit := l.take (roomOf (c.elem 2).bits / 4)
  writeDest v (c.elem 2) 0 (fit.map fun x => leBytes 4 x).flatten
  if fit.length = l.length then pure { value := l.length } else pure { status := 1, value := fit.length, cause := 0x310 }

/-- How far a STEP has come. -/
structure Stepping where
  text    : Text
  written : Nat
  taken   : Nat
  stopAt  : Nat := 0xFFFFFFFF
  violation : Bool := false
  /-- the cause that ended it early -/
  cause   : Nat := 0

/-- One token taken whole: the state after it, or none where it does not fit. Where EOS has bytes that the grammar rejects,
the configuration stays as it was. DEDUCED (log entry 26). -/
def stepToken (v : View) (ts : TableSet) (dest : Reg) (i t : Nat) (p : Stepping) : Act (Option Stepping) := do
  let x := p.text
  let data ← ts.tokenBytes v t
  let eos := t == ts.eos
  let (out, held, stop) := detokenise eos (x.held ++ data) x.stops
  if roomOf dest.bits < p.written + out.length then pure none
  else
    let c ← if x.gram then ts.feedAll v ⟨x.state, x.stack⟩ data else pure none
    writeDest v dest p.written out
    let x := match c with
      | some c => { x with state := c.q, stack := c.stack }
      | none => x
    pure (some
      { p with
        text := { x with held := held, stopped := x.stopped || stop.isSome, stopnum := stop.getD x.stopnum }
        written := p.written + out.length, taken := p.taken + 1
        stopAt := if stop.isSome && !eos then i else p.stopAt })

/-- The tokens of a STEP in order. -/
def stepTokens (v : View) (ts : TableSet) (dest : Reg) (p : Stepping) : List Nat → Act Stepping
  | [] => pure p
  | t :: rest => do
    if p.text.stopped then pure { p with cause := 0x310 }
    else
      let ok ← if p.text.gram then tryAct (ts.allowed v ⟨p.text.state, p.text.stack⟩ t) else pure (.inr true)
      match ok with
      | .inl e => pure { p with cause := e }
      | .inr false => pure { p with cause := 0x310, violation := true }
      | .inr true =>
        match ← tryAct (stepToken v ts dest p.taken t p) with
        | .inl e => pure { p with cause := e }
        | .inr none => pure { p with cause := 0x310 }
        | .inr (some p) => stepTokens v ts dest p rest

/-- The data element of a STEP's result (Table 20.2). -/
def Stepping.data (p : Stepping) : Q :=
  q (p.taken + p.stopAt * 2 ^ 32 + p.text.stopnum % 16 * 2 ^ 64 + p.text.stopped.toNat * 2 ^ 68 + p.violation.toNat * 2 ^ 69 +
    p.text.held.length * 2 ^ 72)

/-- STEP. -/
def quernStep (v : View) (c : Command) : Act Answer := do
  let s := fld (headerArg c.header) 0 8
  let t ← commandText v s true
  let n := bits (c.elem 3).bits 0 16
  trapIf (n == 0 || decide (1024 < n)) 0x310
  let src ← readSource v (c.elem 1) (4 * n)
  needRange v (c.elem 2) .store 0
  let ts ← readTables v (t.tables.getD Reg.null)
  let p ← stepTokens v ts (c.elem 2) ⟨t, 0, 0, 0xFFFFFFFF, false, 0⟩ ((upFrom 0 n).map fun i => ofBytes ((src.drop (4 * i)).take 4))
  setText s p.text
  pure { status := if p.cause = 0 then 0 else if p.taken = 0 then 2 else 1, cause := p.cause, value := p.written, data := [p.data] }

/-- The allowed tokens of a vocabulary. -/
def maskBits (v : View) (ts : TableSet) (x : Text) : List Nat → Act (List Bool)
  | [] => pure []
  | t :: rest => do
    let b ← if x.gram then ts.allowed v ⟨x.state, x.stack⟩ t else pure true
    let l ← maskBits v ts x rest
    pure (b :: l)

/-- Bits packed into bytes. -/
def packBits (l : List Bool) : List Byte :=
  (upFrom 0 ((l.length + 7) / 8)).map fun i =>
    BitVec.ofNat 8 (((upFrom 0 8).map fun j => if l.getD (8 * i + j) false then 2 ^ j else 0).sum)

/-- MASK. A table set of no states has no configuration that accepts. DEDUCED (log entry 26). -/
def quernMask (v : View) (c : Command) : Act Answer := do
  let x ← commandText v (fld (headerArg c.header) 0 8) true
  needRange v (c.elem 1) .store 0
  let ts ← readTables v (x.tables.getD Reg.null)
  trapIf (bits (c.elem 2).bits 0 32 != ts.v) 0x310
  trapIf (decide (roomOf (c.elem 1).bits < (ts.v + 7) / 8)) 0x310
  let l ← maskBits v ts x (upFrom 0 ts.v)
  let acc ← if ts.states = 0 then pure false else ts.accepts v ⟨x.state, x.stack⟩
  writeDest v (c.elem 1) 0 (packBits l)
  let count := (l.filter id).length
  let eosOnly := count == 1 && l.getD ts.eos false
  pure { value := count, data := [q ((count == 0).toNat + acc.toNat * 2 + eosOnly.toNat * 4)] }

/-- Perform a quern command: a cause that refuses it leaves the text states as they stood, and one that waits for the
home agent or for a solo sheaf is tried again. DEDUCED (log entry 26). -/
def State.quernCommand (s : State) (k : SlotId) (c : Command) (act : View → Command → Act Answer) : State :=
  match act c.view c s with
  | .ok r t => t.answer k .e1 r
  | .error (.trap e _ _) t => (s.keep t).answer k .e1 (.refuse e)
  | .error _ t => (s.keep t).scheduleCommand k .e1 c

def execQuernOpen (s : State) := happen (s.commandStep .e1 .quernOpen fun s k c => s.quernCommand k c quernOpen)
def execQuernEncode (s : State) := happen (s.commandStep .e1 .quernEncode fun s k c => s.quernCommand k c quernEncode)
def execQuernStep (s : State) := happen (s.commandStep .e1 .quernStep fun s k c => s.quernCommand k c quernStep)
def execQuernMask (s : State) := happen (s.commandStep .e1 .quernMask fun s k c => s.quernCommand k c quernMask)

/-- QUERN_RESERVED_COMMAND (R320). -/
def execQuernReservedCommand (s : State) :=
  happen (s.commandStep .e1 .quernReservedCommand fun s k _ => s.answer k .e1 (.refuse 0x310))

end Sys2Proof.Machine
end

