-- ==== Sys2Proof/Machine/Scalar.lean ====
section
/-! DEFINITION. The scalar instructions: integer arithmetic (R95, R96), logic, shifts and bit fields (R97, R98), moves,
immediates, compares and predicates (R99 to R102). -/

namespace Sys2Proof.Machine

/-! ### The shared shapes -/

/-- Read a, then b; write d by wr64, with flags (R91). -/
def binary (d a b : RegIdx) (f : Q → Q → Int × Flags) : Act After := do
  let x ← readBits a
  let y ← readBits b
  let r := f x y
  setFlags r.2
  write64 d r.1
  next

/-- Read a; write d by wr64, with flags. -/
def unary (d a : RegIdx) (f : Q → Int × Flags) : Act After := do
  let x ← readBits a
  let r := f x
  setFlags r.2
  write64 d r.1
  next

/-- A result without flags. -/
def plain (v : Int) : Int × Flags := (v, 0#6)

/-- Read a; write d from it and an immediate y. -/
def immediate (d a : RegIdx) (imm : BitVec 15) (f : Q → Q → Int × Flags) : Act After :=
  unary d a fun x => f x (imm.signExtend 128)

/-- A 6-bit immediate of the 16-bit forms, read as signed (R67), as the 15-bit one of the 32-bit form. -/
def simm6 (imm : BitVec 6) : BitVec 15 := imm.signExtend 15

/-! ### Arithmetic (R95) -/

/-- The result under a saturation modifier: of the operands read as signed integers, or as unsigned for `.satn`. -/
def saturate (m : SatMode) (onSigned onUnsigned : Int) : Int × Flags :=
  match m with
  | .wrap => plain onSigned
  | .signed => let r := clampSigned 64 onSigned; (r.1, flagIf r.2 Flags.sat)
  | .unsigned => let r := clampUnsigned 64 onUnsigned; (r.1, flagIf r.2 Flags.sat)

def addOf (m : SatMode) (x y : Q) : Int × Flags := saturate m (s64 x + s64 y) ((n64 x : Int) + n64 y)
def subOf (m : SatMode) (x y : Q) : Int × Flags := saturate m (s64 x - s64 y) ((n64 x : Int) - n64 y)
def mulOf (m : SatMode) (x y : Q) : Int × Flags := saturate m (s64 x * s64 y) ((n64 x : Int) * n64 y)
def negOf (m : SatMode) (x : Q) : Int × Flags := saturate m (-s64 x) 0
def absOf (m : SatMode) (x : Q) : Int × Flags := saturate m (if s64 x < 0 then -s64 x else s64 x) 0
def mulhOf (x y : Q) : Int := s64 x * s64 y / 2 ^ 64
def mulhnOf (x y : Q) : Int := (n64 x * n64 y / 2 ^ 64 : Nat)
def minOf (x y : Q) : Int := if s64 x < s64 y then s64 x else s64 y
def maxOf (x y : Q) : Int := if s64 x > s64 y then s64 x else s64 y
def minnOf (x y : Q) : Int := if n64 x < n64 y then n64 x else n64 y
def maxnOf (x y : Q) : Int := if n64 x > n64 y then n64 x else n64 y

def execAdd (d a b : RegIdx) (m : SatMode) (s : State) := perform s (binary d a b (addOf m))
def execSub (d a b : RegIdx) (m : SatMode) (s : State) := perform s (binary d a b (subOf m))
def execNeg (d a : RegIdx) (m : SatMode) (s : State) := perform s (unary d a (negOf m))
def execMul (d a b : RegIdx) (m : SatMode) (s : State) := perform s (binary d a b (mulOf m))
def execMulh (d a b : RegIdx) (s : State) := perform s (binary d a b fun x y => plain (mulhOf x y))
def execMulhn (d a b : RegIdx) (s : State) := perform s (binary d a b fun x y => plain (mulhnOf x y))
def execMin (d a b : RegIdx) (s : State) := perform s (binary d a b fun x y => plain (minOf x y))
def execMax (d a b : RegIdx) (s : State) := perform s (binary d a b fun x y => plain (maxOf x y))
def execMinn (d a b : RegIdx) (s : State) := perform s (binary d a b fun x y => plain (minnOf x y))
def execMaxn (d a b : RegIdx) (s : State) := perform s (binary d a b fun x y => plain (maxnOf x y))
def execAbs (d a : RegIdx) (m : SatMode) (s : State) := perform s (unary d a (absOf m))
def execAdd16 (d b : RegIdx) (s : State) := perform16 s (binary d d b (addOf .wrap))
def execSub16 (d b : RegIdx) (s : State) := perform16 s (binary d d b (subOf .wrap))

/-! ### Divisions (R96) -/

/-- A division: cause 0x080 with the dividend and the op number where the divisor is 0. -/
def divide (d a b : RegIdx) (op : Nat) (f : Q → Q → Int) : Act After := do
  let x ← readBits a
  let y ← readBits b
  trapIf (n64 y == 0) 0x080 (wr64 (s64 x)) (q op)
  write64 d (f x y)
  next

def divOf (x y : Q) : Int := (s64 x).tdiv (s64 y)
def divnOf (x y : Q) : Int := (n64 x / n64 y : Nat)
def remOf (x y : Q) : Int := s64 x - s64 y * (s64 x).tdiv (s64 y)
def remnOf (x y : Q) : Int := (n64 x % n64 y : Nat)

def execDiv (d a b : RegIdx) (s : State) := perform s (divide d a b 6 divOf)
def execDivn (d a b : RegIdx) (s : State) := perform s (divide d a b 7 divnOf)
def execRem (d a b : RegIdx) (s : State) := perform s (divide d a b 8 remOf)
def execRemn (d a b : RegIdx) (s : State) := perform s (divide d a b 9 remnOf)

/-! ### Logic, shifts and bit fields (R97, R98) -/

/-- A result given as a doubleword. -/
def word (v : D) : Int × Flags := plain v.toInt

/-- A result given as a number. -/
def count (v : Nat) : Int × Flags := plain v

def andOf (x y : Q) : D := d64 x &&& d64 y
def orOf (x y : Q) : D := d64 x ||| d64 y
def xorOf (x y : Q) : D := d64 x ^^^ d64 y
def notOf (x : Q) : D := ~~~d64 x
def shlOf (x y : Q) : Nat := if n64 y < 64 then n64 x * 2 ^ n64 y else 0
def shrOf (x y : Q) : Nat := if n64 y < 64 then n64 x / 2 ^ n64 y else 0
def sarOf (x y : Q) : Int := s64 x / (2 ^ Nat.min (n64 y) 63 : Nat)
def rotlOf (x y : Q) : D := (d64 x).rotateLeft (n64 y % 64)

/-- The number of 0 bits above the highest 1 of [63:0]. -/
def clzOf (x : Q) : Nat := 64 - bitLength 64 (n64 x)

/-- The number of times that 2 divides `n`, within `fuel` tries; `fuel` for 0. -/
def trailing : Nat → Nat → Nat
  | 0, _ => 0
  | fuel + 1, n => if n % 2 = 1 then 0 else 1 + trailing fuel (n / 2)

def ctzOf (x : Q) : Nat := trailing 64 (n64 x)
def popcOf (x : Q) : Nat := ((upFrom 0 64).map fun i => n64 x / 2 ^ i % 2).sum
def brevOf (x : Q) : D := (d64 x).reverse

/-- POS and LEN of the field operand of `bext` and `bins`. -/
def fieldPos (y : Q) : Nat := bits y 0 7
def fieldLen (y : Q) : Nat := Nat.min (bits y 8 7) 64

def bextOf (x y : Q) : Nat := n64 x / 2 ^ fieldPos y % 2 ^ fieldLen y

/-- Bits of x put into the field of d, as far as the field lies below bit 64. -/
def binsOf (x y d : Q) : D :=
  let mask : D := BitVec.ofNat 64 (2 ^ fieldPos y * (2 ^ fieldLen y - 1))
  (d64 d &&& ~~~mask) ||| (BitVec.ofNat 64 (n64 x * 2 ^ fieldPos y) &&& mask)

/-- The bit that `bset`, `bclr` and `bflip` name; none set at or above 64. -/
def oneBit (y : Q) : D := if n64 y < 64 then BitVec.ofNat 64 (2 ^ n64 y) else 0#64

def bsetOf (x y : Q) : D := d64 x ||| oneBit y
def bclrOf (x y : Q) : D := d64 x &&& ~~~oneBit y
def bflipOf (x y : Q) : D := d64 x ^^^ oneBit y

/-- The width of `sext` and `zext` in bits. -/
def extBits : ExtWidth → Nat
  | .b => 8
  | .h => 16
  | .w => 32

def execAnd (d a b : RegIdx) (s : State) := perform s (binary d a b fun x y => word (andOf x y))
def execOr (d a b : RegIdx) (s : State) := perform s (binary d a b fun x y => word (orOf x y))
def execXor (d a b : RegIdx) (s : State) := perform s (binary d a b fun x y => word (xorOf x y))
def execNot (d a : RegIdx) (s : State) := perform s (unary d a fun x => word (notOf x))
def execShl (d a b : RegIdx) (s : State) := perform s (binary d a b fun x y => count (shlOf x y))
def execShr (d a b : RegIdx) (s : State) := perform s (binary d a b fun x y => count (shrOf x y))
def execSar (d a b : RegIdx) (s : State) := perform s (binary d a b fun x y => plain (sarOf x y))
def execRotl (d a b : RegIdx) (s : State) := perform s (binary d a b fun x y => word (rotlOf x y))
def execClz (d a : RegIdx) (s : State) := perform s (unary d a fun x => count (clzOf x))
def execCtz (d a : RegIdx) (s : State) := perform s (unary d a fun x => count (ctzOf x))
def execPopc (d a : RegIdx) (s : State) := perform s (unary d a fun x => count (popcOf x))
def execBrev (d a : RegIdx) (s : State) := perform s (unary d a fun x => word (brevOf x))
def execBext (d a b : RegIdx) (s : State) := perform s (binary d a b fun x y => count (bextOf x y))

/-- `bins` reads d last (R91). -/
def execBins (d a b : RegIdx) (s : State) : Host.Outcome State Fault Refusal :=
  perform s do
    let x ← readBits a
    let y ← readBits b
    let old ← readBits d
    write64 d (binsOf x y old).toInt
    next

def execBset (d a b : RegIdx) (s : State) := perform s (binary d a b fun x y => word (bsetOf x y))
def execBclr (d a b : RegIdx) (s : State) := perform s (binary d a b fun x y => word (bclrOf x y))
def execBflip (d a b : RegIdx) (s : State) := perform s (binary d a b fun x y => word (bflipOf x y))
def execSext (d a : RegIdx) (sz : ExtWidth) (s : State) :=
  perform s (unary d a fun x => plain (signed (extBits sz) (bits x 0 (extBits sz))))
def execZext (d a : RegIdx) (sz : ExtWidth) (s : State) := perform s (unary d a fun x => count (bits x 0 (extBits sz)))
def execAnd16 (d b : RegIdx) (s : State) := perform16 s (binary d d b fun x y => word (andOf x y))
def execOr16 (d b : RegIdx) (s : State) := perform16 s (binary d d b fun x y => word (orOf x y))
def execXor16 (d b : RegIdx) (s : State) := perform16 s (binary d d b fun x y => word (xorOf x y))
def execShl16 (d b : RegIdx) (s : State) := perform16 s (binary d d b fun x y => count (shlOf x y))
def execShr16 (d b : RegIdx) (s : State) := perform16 s (binary d d b fun x y => count (shrOf x y))

/-! ### Moves, immediates, compares and predicates (R99 to R102) -/

/-- `mov`: all 128 bits and the tag (R99). -/
def move (d a : RegIdx) : Act After := do
  let x ← readReg a
  writeReg d x
  next

def execMov (d a : RegIdx) (s : State) := perform s (move d a)
def execMov16 (d b : RegIdx) (s : State) := perform16 s (move d b)

/-- The relation bits of `cmp` (R101). -/
def cmpOf (x y : Q) : Nat := relations (s64 x) (s64 y) (n64 x) (n64 y)

def execCmp (d a b : RegIdx) (s : State) := perform s (binary d a b fun x y => count (cmpOf x y))

/-- All 128 bits combined, with tag 0 (R102). -/
def combine (d a b : RegIdx) (f : Q → Q → Q) : Act After := do
  let x ← readBits a
  let y ← readBits b
  write128 d (f x y)
  next

def execPand (d a b : RegIdx) (s : State) := perform s (combine d a b fun x y => x &&& y)
def execPor (d a b : RegIdx) (s : State) := perform s (combine d a b fun x y => x ||| y)
def execPxor (d a b : RegIdx) (s : State) := perform s (combine d a b fun x y => x ^^^ y)

def execAddi (d a : RegIdx) (imm : BitVec 15) (s : State) := perform s (immediate d a imm (addOf .wrap))
def execAndi (d a : RegIdx) (imm : BitVec 15) (s : State) := perform s (immediate d a imm fun x y => word (andOf x y))
def execOri (d a : RegIdx) (imm : BitVec 15) (s : State) := perform s (immediate d a imm fun x y => word (orOf x y))
def execXori (d a : RegIdx) (imm : BitVec 15) (s : State) := perform s (immediate d a imm fun x y => word (xorOf x y))
def execShli (d a : RegIdx) (imm : BitVec 15) (s : State) := perform s (immediate d a imm fun x y => count (shlOf x y))
def execShri (d a : RegIdx) (imm : BitVec 15) (s : State) := perform s (immediate d a imm fun x y => count (shrOf x y))
def execSari (d a : RegIdx) (imm : BitVec 15) (s : State) := perform s (immediate d a imm fun x y => plain (sarOf x y))
def execCmpi (d a : RegIdx) (imm : BitVec 15) (s : State) := perform s (immediate d a imm fun x y => count (cmpOf x y))
def execAddi16 (d : RegIdx) (imm : BitVec 6) (s : State) := perform16 s (immediate d d (simm6 imm) (addOf .wrap))

/-- wr64 of a constant. -/
def constant (d : RegIdx) (v : Int) : Act After := do
  write64 d v
  next

def execMovi (d : RegIdx) (imm : BitVec 20) (s : State) := perform s (constant d imm.toInt)
def execMovi16 (d : RegIdx) (imm : BitVec 6) (s : State) := perform16 s (constant d imm.toInt)

/-- `movhi` reads d as a source (R100). -/
def execMovhi (d : RegIdx) (imm : BitVec 20) (s : State) :=
  perform s (unary d d fun x => count (n64 x * 2 ^ 20 + imm.toNat))

end Sys2Proof.Machine
end

