-- ==== Sys2Proof/Machine/Vector.lean ====
section
/-! DEFINITION. Stream-run mode (R190, R191) and the vector instructions of major 0x28 (R198 to R203), with `vamax`
(R207). -/

namespace Sys2Proof.Machine

/-! ### Runs (R190) -/

/-- A port named by an instruction: the register, and whether it is written. -/
structure Named where
  reg   : RegIdx
  write : Bool

/-- Elements of the trip count not yet moved. -/
def Port.remain (x : Port) : Nat := x.trip - x.moved

def State.remain (s : State) (r : RegIdx) : Nat := (s.port (portOf r)).remain

/-- Check 1 of R190: the port is bound by the issuing slot in the direction of its role. -/
def checkRole (n : Named) : Act Unit := do
  let s ← get
  let x := s.port (portOf n.reg)
  trapIf (x.owner != some s.cur || x.write != n.write) 0x141 (q n.reg.val)

/-- Check 2 of R190: the port can supply or take `n` elements. -/
def checkCount (r : RegIdx) (n : Nat) : Act Unit := do
  let x := (← get).port (portOf r)
  trapIf (decide (x.remain < n)) 0x142 (q r.val) (q x.trip)

/-- The ports that an instruction names, in field order. -/
def State.named (s : State) (srcs : List RegIdx) (d : RegIdx) : List Named :=
  let all : List Named := (srcs.map fun r => ⟨r, false⟩) ++ [⟨d, true⟩]
  all.filter fun n => s.streamed n.reg

/-- How often an instruction names a port as a source. -/
def timesNamed (srcs : List RegIdx) (r : RegIdx) : Nat := (srcs.filter fun x => x == r).length

/-- The run length (R190): none outside stream-run mode. -/
def State.runLength (s : State) (srcs : List RegIdx) (d : RegIdx) : Option Nat :=
  match srcs.find? s.streamed with
  | some r => some (s.remain r / timesNamed srcs r)
  | none => if s.streamed d then some (s.remain d) else none

/-- The checks of a run of `n` iterations, in field order. -/
def checkRun (srcs : List RegIdx) (d : RegIdx) (n : Nat) : Act Unit := do
  let ports := (← get).named srcs d
  ports.forM checkRole
  ports.forM fun p => checkCount p.reg (if p.write then n else n * timesNamed srcs p.reg)

/-! ### The units that the slots share (R192) -/

/-- A slot waits for the vector datapath, or for the special-function unit. -/
def State.waitsUnit (s : State) (k : SlotId) (special : Bool) : Bool :=
  match (s.ctx k).wait with
  | some w => w.wait == .vectorUnit special
  | none => false

/-- A run goes on: one that stands in a wait for something else is held back, and gives the unit up (R192). -/
def Ctx.running (c : Ctx) : Bool := c.run.any fun r => r.whole || c.wait.isNone

/-- Who holds a unit: a slot whose run goes on, or to which another's run has given it up. -/
def State.unitHold (s : State) (special : Bool) : Option UnitHold :=
  (if special then s.core.specialHold else s.core.vectorHold).filter fun h =>
    (s.ctx h.slot).running || s.waitsUnit h.slot special

def State.setUnit (s : State) (special : Bool) (h : Option UnitHold) : State :=
  s.modCore fun c => if special then { c with specialHold := h } else { c with vectorHold := h }

/-- The slot that issues has the unit for an iteration, or stalls while another slot's run holds it. -/
def awaitUnit (special : Bool) : Act Unit := do
  let s ← get
  match s.unitHold special with
  | some h => if h.slot ≠ s.cur then stall (.vectorUnit special)
  | none => pure ()

/-- The unit held for a run of slot `k`, where no run holds it. -/
def State.holdUnit (s : State) (k : SlotId) (special : Bool) : State :=
  if (s.unitHold special).isSome then s else s.setUnit special (some ⟨k, 64⟩)

/-- The run of the slot that issues takes the unit. -/
def takeUnit (special : Bool) : Act Unit := do
  awaitUnit special
  modify fun s => s.holdUnit s.cur special

/-- After an iteration of its run: while another slot waits, a run goes on for 64 iterations and then gives the unit up to
the slot that the issue policy chooses. DESIGN CHOICE (log entry 58). -/
def passUnit (special : Bool) : Act Unit := modify fun s =>
  let waiting := slotIds.filter fun j => j != s.cur && s.waitsUnit j special
  match s.unitHold special with
  | some h =>
    if waiting = [] then s
    else if h.left ≤ 1 then s.setUnit special ((s.pick waiting).map fun k => ⟨k, 64⟩)
    else s.setUnit special (some { h with left := h.left - 1 })
  | none => s

/-- The ports that an instruction names, fixed as it issues: a register that is none then is a plain one for its whole run
(R190). -/
def State.portsNamed (s : State) (srcs : List RegIdx) (d : RegIdx) : List (Fin 8) :=
  ((srcs ++ [d]).filter s.streamed).map portOf

/-- A register is one of the ports of a run. -/
def among (ports : List (Fin 8)) (r : RegIdx) : Bool := isPort r && ports.contains (portOf r)

/-- Read a source of an iteration: the next element of a port of the run, or the register. -/
def readSourceOf (ports : List (Fin 8)) : Option RegIdx → Act Q
  | none => pure 0#128
  | some r => do if among ports r then popPort (portOf r) else return ((← myCtx).reg r).bits

/-- One iteration: a, b, then d where the instruction reads it; the result pushed or written. -/
def iterate (ports : List (Fin 8)) (srcs : List RegIdx) (d : RegIdx) (readsD : Bool) (m : Mode)
    (f : Mode → Q → Q → Q → Q × Flags) : Act Unit := do
  let x ← readSourceOf ports srcs[0]?
  let y ← readSourceOf ports srcs[1]?
  let z ← readSourceOf ports (if readsD then some d else none)
  let r := f m x y z
  setFlags r.2
  if among ports d then pushPort (portOf d) r.1 else modMyCtx fun c => c.setReg d (Reg.data r.1)

/-- A vector instruction: one iteration, or a run of as many as its ports give, one iteration a step. -/
def vector (srcs : List RegIdx) (d : RegIdx) (readsD : Bool) (f : Mode → Q → Q → Q → Q × Flags) (special : Bool := false) :
    Act After := do
  let c ← myCtx
  match c.run with
  | some r =>
    takeUnit special
    iterate r.ports srcs d readsD r.mode f
    passUnit special
    if r.left ≤ 1 then next
    else
      modMyCtx fun c => { c with run := some { r with left := r.left - 1 } }
      pure (.go .again)
  | none =>
    if readsD then readsDest d
    let s ← get
    let ports := s.portsNamed srcs d
    match s.runLength srcs d with
    | none =>
      awaitUnit special
      iterate ports srcs d readsD c.frnd f
      next
    | some n =>
      checkRun srcs d n
      if n = 0 then next
      else
        takeUnit special
        iterate ports srcs d readsD c.frnd f
        if n = 1 then next
        else
          modMyCtx fun x => { x with run := some ⟨c.pc, n - 1, c.frnd, false, ports, []⟩ }
          pure (.go .again)

/-! ### Lanes -/

/-- Lanes of a result, with the flags of all of them. -/
def fromLanes (w : Nat) (l : List (Nat × Flags)) : Q × Flags :=
  (q (ofLanes w (l.map Prod.fst)), l.foldl (fun a r => a ||| r.2) 0#6)

/-- The lanes of an element in a type. -/
def lanesIn (t : ElemType) (x : Q) : List Nat := (upFrom 0 (lanesOf t)).map fun i => lane x (elemBits t) i

/-- A result computed lane by lane. -/
def laneWise (t : ElemType) (f : Mode → Nat → Nat → Nat → Nat × Flags) (m : Mode) (x y z : Q) : Q × Flags :=
  fromLanes (elemBits t) ((upFrom 0 (lanesOf t)).map fun i =>
    f m (lane x (elemBits t) i) (lane y (elemBits t) i) (lane z (elemBits t) i))

/-- A lane of an integer type from an exact result, wrapped. -/
def wrapLane (t : ElemType) (v : Int) : Nat × Flags := (wrap (elemBits t) v, 0#6)

/-! ### R199 -/

def vaddLane (t : ElemType) (m : Mode) (x y _z : Nat) : Nat × Flags :=
  if isFloat t then faddOf t m x y else wrapLane t (laneInt t x + laneInt t y)

def vsubLane (t : ElemType) (m : Mode) (x y _z : Nat) : Nat × Flags :=
  if isFloat t then fsubOf t m x y else wrapLane t (laneInt t x - laneInt t y)

def vmulLane (t : ElemType) (m : Mode) (x y _z : Nat) : Nat × Flags :=
  if isFloat t then fmulOf t m x y else wrapLane t (laneInt t x * laneInt t y)

def vfmaLane (t : ElemType) (m : Mode) (x y z : Nat) : Nat × Flags :=
  if isFloat t then (fmtOf t).fma m (laneValue t x) (laneValue t y) (laneValue t z)
  else wrapLane t (laneInt t x * laneInt t y + laneInt t z)

def vminLane (t : ElemType) (m : Mode) (x y _z : Nat) : Nat × Flags :=
  if isFloat t then fminOf t m x y else (if laneInt t x < laneInt t y then x else y, 0#6)

def vmaxLane (t : ElemType) (m : Mode) (x y _z : Nat) : Nat × Flags :=
  if isFloat t then fmaxOf t m x y else (if laneInt t x > laneInt t y then x else y, 0#6)

/-- Every lane times 2^clamp(s64(y), −1024, 1024). -/
def vscaleOf (t : ElemType) (m : Mode) (x y _z : Q) : Q × Flags :=
  let e := (clamp (-1024) 1024 (s64 y)).1
  laneWise t (fun m x _ _ => (fmtOf t).mul m (laneValue t x) (scaled false 1 e)) m x 0#128 0#128

def execVadd (d a b : RegIdx) (t : ElemType) (s : State) := perform s (vector [a, b] d false (laneWise t (vaddLane t)))
def execVsub (d a b : RegIdx) (t : ElemType) (s : State) := perform s (vector [a, b] d false (laneWise t (vsubLane t)))
def execVmul (d a b : RegIdx) (t : ElemType) (s : State) := perform s (vector [a, b] d false (laneWise t (vmulLane t)))
def execVfma (d a b : RegIdx) (t : ElemType) (s : State) := perform s (vector [a, b] d true (laneWise t (vfmaLane t)))
def execVmin (d a b : RegIdx) (t : ElemType) (s : State) := perform s (vector [a, b] d false (laneWise t (vminLane t)))
def execVmax (d a b : RegIdx) (t : ElemType) (s : State) := perform s (vector [a, b] d false (laneWise t (vmaxLane t)))
def execVscale (d a b : RegIdx) (t : ElemType) (s : State) := perform s (vector [a, b] d false (vscaleOf t))

/-! ### Reductions (R200, R201, R207) -/

/-- The accumulator of a reduction as FP32, and as a signed integer. -/
def accValue (z : Q) : Value := Fmt.f32.decode (bits z 0 32)
def accInt (z : Q) : Int := signed 32 (bits z 0 32)

/-- A signed 32-bit accumulator, saturated (R200). -/
def satAcc (v : Int) : Q × Flags :=
  let r := clampSigned 32 v
  (q (wrap 32 r.1), flagIf r.2 Flags.sat)

def accCode (r : Nat × Flags) : Q × Flags := (q r.1, r.2)

/-- `vdot` (R200). -/
def vdotOf (t : ElemType) (m : Mode) (x y z : Q) : Q × Flags :=
  let pairs := (lanesIn t x).zip (lanesIn t y)
  if isFloat t then accCode (dotSum m (pairs.map fun p => (productValue t p.1, productValue t p.2)) (accValue z))
  else satAcc (pairs.foldl (fun a p => a + laneInt t p.1 * laneInt t p.2) (accInt z))

/-- `vsum` (R201). -/
def vsumOf (t : ElemType) (m : Mode) (x _y z : Q) : Q × Flags :=
  if isFloat t then accCode (dotSum m ((lanesIn t x).map fun l => (laneValue t l, .num false 1 1)) (accValue z))
  else satAcc ((lanesIn t x).foldl (fun a l => a + laneInt t l) (accInt z))

/-- The largest of values as FP32: a NaN among them gives the canonical NaN, a signalling one NV. -/
def largest (l : List Value) : Nat × Flags :=
  if l.any Value.isNan then Fmt.f32.quiet l
  else
    match l with
    | [] => (0, 0#6)
    | v :: t => Fmt.f32.convert 0#2 (t.foldl (fun a b => if a.orderSigned b == .lt then b else a) v)

/-- `vrmax` (R201). -/
def vrmaxOf (t : ElemType) (_m : Mode) (x _y z : Q) : Q × Flags :=
  if isFloat t then accCode (largest (accValue z :: (lanesIn t x).map (laneValue t)))
  else
    let v := (lanesIn t x).foldl (fun a l => if laneInt t a < laneInt t l then l else a) (bits z 0 32)
    (q v, 0#6)

def Value.abs : Value → Value
  | .num _ n d => .num false n d
  | .inf _ => .inf false
  | v => v

/-- `vamax` (R207). -/
def vamaxOf (t : ElemType) (_m : Mode) (x _y z : Q) : Q × Flags :=
  accCode (largest ((accValue z).abs :: (lanesIn t x).map fun l => (laneValue t l).abs))

def execVdot (d a b : RegIdx) (t : ElemType) (s : State) := perform s (vector [a, b] d true (vdotOf t))
def execVsum (d a : RegIdx) (t : ElemType) (s : State) := perform s (vector [a] d true (vsumOf t))
def execVrmax (d a : RegIdx) (t : ElemType) (s : State) := perform s (vector [a] d true (vrmaxOf t))
def execVamax (d a : RegIdx) (t : ElemType) (s : State) := perform s (vector [a] d true (vamaxOf t))

/-! ### Lane conversions (R202) -/

/-- A lane converted from S to D: by R40 into a format, by R41 into an integer type. -/
def convertLane (t u : ElemType) (m : Mode) (c : Nat) : Nat × Flags :=
  if isFloat t then (fmtOf t).convert m (laneValue u c)
  else
    let r := toInteger t m (laneValue u c)
    (wrap (elemBits t) r.1, r.2)

/-- A lane narrowed by `vpack`: integers saturate with SAT. -/
def packLane (t u : ElemType) (m : Mode) (c : Nat) : Nat × Flags :=
  if isFloat t then (fmtOf t).convert m (laneValue u c)
  else
    let r := clamp (intBounds t).1 (intBounds t).2 (laneInt u c)
    (wrap (elemBits t) r.1, flagIf r.2 Flags.sat)

/-- A lane widened by `vunpack`. -/
def unpackLane (t u : ElemType) (m : Mode) (c : Nat) : Nat × Flags :=
  if isFloat t then (fmtOf t).convert m (laneValue u c) else wrapLane t (laneInt u c)

/-- The source type of `vpack` (Table 12.9). -/
def packFrom : ElemType → ElemType
  | .i8 => .i16
  | .i16 => .i32
  | .i32 => .i64
  | .n8 => .n16
  | .n16 => .n32
  | .n32 => .n64
  | .bf16 => .f32
  | _ => .bf16

def vcvtOf (t u : ElemType) (m : Mode) (x _y _z : Q) : Q × Flags :=
  fromLanes (elemBits t) (((lanesIn u x).take (lanesOf t)).map (convertLane t u m))

def vpackOf (t : ElemType) (m : Mode) (x y _z : Q) : Q × Flags :=
  fromLanes (elemBits t) ((lanesIn (packFrom t) x ++ lanesIn (packFrom t) y).map (packLane t (packFrom t) m))

def vunpackOf (t u : ElemType) (high : Bool) (m : Mode) (x _y _z : Q) : Q × Flags :=
  let l := lanesIn u x
  fromLanes (elemBits t) (((if high then l.drop (lanesOf u / 2) else l.take (lanesOf u / 2))).map (unpackLane t u m))

def execVcvt (d a : RegIdx) (t u : ElemType) (s : State) := perform s (vector [a] d false (vcvtOf t u))
def execVpack (d a b : RegIdx) (t : ElemType) (s : State) := perform s (vector [a, b] d false (vpackOf t))
def execVunpack (d a : RegIdx) (t : ElemType) (h : Bool) (u : ElemType) (s : State) :=
  perform s (vector [a] d false (vunpackOf t u h))

/-! ### Comparison and movement (R203) -/

/-- The relation that `vcmp` writes: EQ, LT, GT, UN in bits 0 to 3. -/
def vcmpLane (t : ElemType) (_m : Mode) (x y _z : Nat) : Nat × Flags :=
  let v := laneValue t x
  let w := laneValue t y
  if v.isNan || w.isNan then (8, flagIf (v.signalling || w.signalling) Flags.nv)
  else
    match v.order w with
    | .eq => (1, 0#6)
    | .lt => (2, 0#6)
    | .gt => (4, 0#6)

def vselLane (_m : Mode) (x y z : Nat) : Nat × Flags := (if y = 0 then z else x, 0#6)

def vshufOf (t : ElemType) (_m : Mode) (x y _z : Q) : Q × Flags :=
  fromLanes (elemBits t) ((lanesIn t y).map fun j => (if j < lanesOf t then lane x (elemBits t) j else 0, 0#6))

def vbcastOf (t : ElemType) (_m : Mode) (x _y _z : Q) : Q × Flags :=
  fromLanes (elemBits t) ((lanesIn t x).map fun _ => (lane x (elemBits t) 0, 0#6))

def execVcmp (d a b : RegIdx) (t : ElemType) (s : State) := perform s (vector [a, b] d false (laneWise t (vcmpLane t)))
def execVsel (d a b : RegIdx) (t : ElemType) (s : State) := perform s (vector [a, b] d true (laneWise t vselLane))
def execVshuf (d a b : RegIdx) (t : ElemType) (s : State) := perform s (vector [a, b] d false (vshufOf t))
def execVbcast (d a : RegIdx) (t : ElemType) (s : State) := perform s (vector [a] d false (vbcastOf t))

end Sys2Proof.Machine
end

