-- ==== Sys2Proof/Machine/Selection.lean ====
section
/-! DEFINITION. Major 0x29: the special functions (R204, R205), and the whole-run instructions `vtopk`, `vquant` and
`vdeq` (R206, R208, R209). -/

namespace Sys2Proof.Machine

/-! ### Special functions: values to 2^-128

The function of an exact argument is computed in fixed point with 128 fraction bits, far below the bounds of Table
12.10; what the device gives within its bound is `Config.special`. -/

/-- One in fixed point. -/
def one128 : Int := 2 ^ 128

/-- The product of two fixed-point numbers. -/
def mul128 (a b : Int) : Int := a * b / one128

/-- ln 2 and 2π in fixed point. -/
def ln2Fixed : Int := 0xB17217F7D1CF79ABC9E3B39803F2F6AF
def twoPiFixed : Int := 0x6487ED5110B4611A62633145C06E0E689

/-- The sum of t^k/k! with signs and steps as a series asks: `term` is the term at index `k`, the next is
term × factor / ((k+1)…(k+step)). -/
def series (factor : Int) (step : Nat) : Nat → Nat → Int → Int
  | 0, _, _ => 0
  | n + 1, k, term =>
    let d : Nat := (upFrom (k + 1) step).foldl (fun a b => a * b) 1
    term + series factor step n (k + step) (mul128 term factor / (d : Int))

/-- e^t for t in [0, 1). -/
def expFixed (t : Int) : Int := series t 1 40 0 one128

/-- The sum of z^(2k+1)/(2k+1). -/
def atanhSeries (z2 : Int) : Nat → Nat → Int → Int
  | 0, _, _ => 0
  | n + 1, k, p => p / (k : Int) + atanhSeries z2 n (k + 2) (mul128 p z2)

/-- A fixed-point number as a value. -/
def fixedValue (v : Int) (e : Int) : Value := scaled (decide (v < 0)) v.natAbs (e - 128)

/-- 2^(n/d) with a sign, as a value. -/
def exp2Value (neg : Bool) (n d : Nat) : Value :=
  let x := signedNum neg n
  let i := x / (d : Int)
  let f := (x - i * d) * one128 / (d : Int)
  fixedValue (expFixed (mul128 f ln2Fixed)) i

/-- log2(n/d). -/
def log2Value (n d : Nat) : Value :=
  let e := floorLog2 n d
  let a : Int := (n * 2 ^ (-e).toNat : Nat)
  let b : Int := (d * 2 ^ e.toNat : Nat)
  let z := (a - b) * one128 / (a + b)
  let ln := 2 * atanhSeries (mul128 z z) 64 1 z
  fixedValue (e * one128 + ln * one128 / ln2Fixed) 0

/-- tanh of n/d, for magnitudes below 10. -/
def tanhValue (neg : Bool) (n d : Nat) : Value :=
  let x := (2 * n : Int) * one128 / (d : Int)
  let t := x * one128 / ln2Fixed
  let i := t / one128
  let e := expFixed (mul128 (t % one128) ln2Fixed) * 2 ^ i.toNat
  let v := (e - one128) * one128 / (e + one128)
  fixedValue (if neg then -v else v) 0

/-- sin(2π n/d): the turn is reduced to within a quarter on either side of 0. -/
def sinValue (neg : Bool) (n d : Nat) : Value :=
  let r := signedNum neg (n % d)
  let r := if 2 * r > (d : Int) then r - d else if 2 * r < -(d : Int) then r + d else r
  let r := if 4 * r > (d : Int) then (d : Int) - 2 * r else if 4 * r < -(d : Int) then -(d : Int) - 2 * r else 2 * r
  let t := r * twoPiFixed / (2 * (d : Int))
  fixedValue (series (-(mul128 t t)) 2 40 1 t) 0

/-- The bound on the error of a function at a result of exact value v: units of the last place, and an absolute bound
where Table 12.10 gives one. -/
inductive SpecialFn where | exp2 | log2 | rcp | rsqrt | tanh | sin
  deriving DecidableEq, Repr

def SpecialFn.index : SpecialFn → Fin 6
  | .exp2 => 0
  | .log2 => 1
  | .rcp => 2
  | .rsqrt => 3
  | .tanh => 4
  | .sin => 5

/-- |v − w| ≤ m × 2^e for exact numbers. -/
def within2 (v w : Value) (m : Nat) (e : Int) : Bool :=
  match v, w with
  | .num s n d, .num t k c =>
    let diff := (signedNum s n * (c : Int) - signedNum t k * (d : Int)).natAbs
    diff * 2 ^ (-e).toNat ≤ m * d * c * 2 ^ e.toNat
  | _, _ => false

/-- The exponent of one unit in the last place of FP32 at an exact number. -/
def ulpExp : Value → Int
  | .num _ n d => if n = 0 then -149 else max (floorLog2 n d) (-126) - 23
  | _ => -149

/-- A result w is within the bound of a function of argument x whose exact value is v (Table 12.10). -/
def SpecialFn.bounded (f : SpecialFn) (x v w : Value) : Bool :=
  match f with
  | .exp2 => within2 v w 2 (ulpExp v)
  | .log2 => within2 v w 2 (ulpExp v) || (within2 x (.num false 5 4) 3 (-2) && within2 v w 1 (-22))
  | .rcp => within2 v w 1 (ulpExp v)
  | .rsqrt => within2 v w 1 (ulpExp v)
  | .tanh => within2 v w 2 (ulpExp v) || within2 v w 1 (-24)
  | .sin => within2 v w 1 (-22)

/-- A power of two, and the exponent. -/
def isPow2 (n d : Nat) : Bool :=
  let e := floorLog2 n d
  n * 2 ^ (-e).toNat == d * 2 ^ e.toNat

/-- The arguments at which Table 12.10 makes a function exact. -/
def SpecialFn.exactAt (f : SpecialFn) (n d : Nat) (v : Value) : Bool :=
  match f with
  | .exp2 => n % d == 0
  | .log2 => isPow2 n d
  | .rcp => isPow2 n d && (match v with | .num _ m e => (-126 : Int) ≤ floorLog2 m e | _ => false)
  | .rsqrt => isPow2 n d && floorLog2 n d % 2 == 0
  | .tanh => false
  | .sin => 4 * n % d == 0

/-- The FP32 result of a function at an ordinary argument: the nearest where it is exact; otherwise what the device
gives, which lies within the bound. DESIGN CHOICE (log entry 20). -/
def SpecialFn.ordinary (f : SpecialFn) (x : Value) (code n d : Nat) (v : Value) : Nat :=
  let near := (Fmt.f32.convert 0#2 v).1
  let given := (Config.special f.index (BitVec.ofNat 32 code)).toNat
  if f.exactAt n d v then near
  else if f.bounded x v (Fmt.f32.decode given) then given
  else near

/-- ±∞, ±0 and ±1 as FP32 codes. -/
def codeInf (neg : Bool) : Nat := 0x7F800000 + neg.toNat * 2 ^ 31
def codeZero (neg : Bool) : Nat := neg.toNat * 2 ^ 31
def codeOne (neg : Bool) : Nat := 0x3F800000 + neg.toNat * 2 ^ 31

/-- The FP32 result of a function and its flags (Tables 12.10, 12.11). -/
def SpecialFn.apply (f : SpecialFn) (code : Nat) : Nat × Flags :=
  let x := Fmt.f32.decode code
  match x with
  | .nan _ => Fmt.f32.quiet [x]
  | .inf s =>
    match f with
    | .exp2 => (if s then codeZero false else codeInf false, 0#6)
    | .log2 => if s then Fmt.f32.round 0#2 none else (codeInf false, 0#6)
    | .rcp => (codeZero s, 0#6)
    | .rsqrt => if s then Fmt.f32.round 0#2 none else (codeZero false, 0#6)
    | .tanh => (codeOne s, 0#6)
    | .sin => Fmt.f32.round 0#2 none
  | .num s n d =>
    match f with
    | .exp2 =>
      if n = 0 then (codeOne false, 0#6)
      else if s = false ∧ 128 * d ≤ n then (codeInf false, Flags.of)
      else if s = true ∧ 150 * d < n then (codeZero false, 0#6)
      else (f.ordinary x code n d (exp2Value s n d), 0#6)
    | .log2 =>
      if n = 0 then (codeInf true, Flags.dz)
      else if s then Fmt.f32.round 0#2 none
      else if n = d then (codeZero false, 0#6)
      else (f.ordinary x code n d (log2Value n d), 0#6)
    | .rcp => if n = 0 then (codeInf s, Flags.dz) else (f.ordinary x code n d (.num s d n), 0#6)
    | .rsqrt =>
      if n = 0 then (codeInf s, Flags.dz)
      else if s then Fmt.f32.round 0#2 none
      else (f.ordinary x code n d (sqrtValue d n), 0#6)
    | .tanh =>
      if n = 0 then (code, 0#6)
      else if 901 * d ≤ 100 * n then (codeOne s, 0#6)
      else (f.ordinary x code n d (tanhValue s n d), 0#6)
    | .sin =>
      if n = 0 then (code, 0#6)
      else if 2 * n % d = 0 then (codeZero false, 0#6)
      else if 4 * n % d = 0 then (codeOne ((4 * n / d % 4 == 3) != s), 0#6)
      else (f.ordinary x code n d (sinValue s n d), 0#6)

/-- One lane: a BF16 lane is its FP32 result rounded once under rne (R205). -/
def SpecialFn.lane (f : SpecialFn) (t : ElemType) (_m : Mode) (x _y _z : Nat) : Nat × Flags :=
  match t with
  | .bf16 =>
    let r := f.apply (x * 2 ^ 16)
    ((Fmt.bf16.convert 0#2 (Fmt.f32.decode r.1)).1, r.2)
  | _ => f.apply x

def execVexp2 (d a : RegIdx) (t : ElemType) (s : State) :=
  perform s (vector [a] d false (laneWise t (SpecialFn.lane .exp2 t)) true)
def execVlog2 (d a : RegIdx) (t : ElemType) (s : State) :=
  perform s (vector [a] d false (laneWise t (SpecialFn.lane .log2 t)) true)
def execVrcp (d a : RegIdx) (t : ElemType) (s : State) :=
  perform s (vector [a] d false (laneWise t (SpecialFn.lane .rcp t)) true)
def execVrsqrt (d a : RegIdx) (t : ElemType) (s : State) :=
  perform s (vector [a] d false (laneWise t (SpecialFn.lane .rsqrt t)) true)
def execVtanh (d a : RegIdx) (t : ElemType) (s : State) :=
  perform s (vector [a] d false (laneWise t (SpecialFn.lane .tanh t)) true)
def execVsin (d a : RegIdx) (t : ElemType) (s : State) :=
  perform s (vector [a] d false (laneWise t (SpecialFn.lane .sin t)) true)

/-! ### Whole-run instructions (R190, R191) -/

/-- The port conditions of a whole-run instruction for one field: cause 0x0A1 where no port is bound, or a write port
is not over LM; then check 1. -/
def checkWhole (f10 : Nat) (n : Named) : Act Unit := do
  let s ← get
  trapIf (!s.streamed n.reg) 0x0A1 (q n.reg.val) (q f10)
  checkRole n
  match (s.port (portOf n.reg)).bound with
  | some (.pattern p) => trapIf (n.write && !p.inside 0xD (2 ^ 18)) 0x0A1 (q n.reg.val) (q f10)
  | _ => trapIf n.write 0x0A1 (q n.reg.val) (q f10)

/-- Begin a whole run: the sheaf before it has ended; its checks pass, and it pops `n` elements of a. -/
def beginWhole (check : Act Nat) : Act After :=
  pure (.lastThen do
    let n ← check
    let c ← myCtx
    modMyCtx fun x => { x with run := some ⟨c.pc, n, c.frnd, true, [], []⟩ }
    pure .again)

/-- An act as one whole: where it stops, it has done nothing. -/
def wholly {α : Type} (act : Act α) : Act α := fun s =>
  match act s with
  | .ok x t => .ok x t
  | .error e _ => .error e s

/-- The items of an element stored in LM, by no sheaf; a solo sheaf of another slot that holds some of them defers them
(R191, R178). -/
def storeWhole (pat : Pattern) (v : Q) : Nat → List Nat → Act Unit
  | _, [] => pure ()
  | j, m :: rest => do
    let s ← get
    let loc := s.nearLoc (pat.itemAddr m)
    let n := pat.itemBytes
    match s.arriveBeside (some s.cur) loc n with
    | none => stall .solo
    | some s => set (s.store 0#10 loc (leBytes n (bits v (8 * n * j) (8 * n))) false)
    storeWhole pat v (j + 1) rest

/-- Elements stored in LM as they are pushed. -/
def pushWhole (p : Fin 8) : List Q → Act Unit
  | [] => pure ()
  | v :: rest => do
    let x := (← get).port p
    match x.bound with
    | some (.pattern pat) =>
      storeWhole pat v 0 (pat.elementItems x.moved)
      modify fun s => s.setPort p { x with moved := x.moved + 1 }
    | _ => pure ()
    pushWhole p rest

/-- A whole-run instruction, one sheaf (R191): its checks, then one element of a popped a step, then its results pushed at
once, when no store of the core's own is on its way through its remote window (R171). DEDUCED (log entry 71). -/
def wholeRun (a : RegIdx) (check : Act Nat) (results : Mode → List Q → Act Unit) : Act After := do
  let s ← get
  takeUnit false
  match (s.ctx s.cur).run with
  | none => beginWhole check
  | some r =>
    if r.popped.length < r.left then
      let v ← popPort (portOf a)
      modMyCtx fun c => { c with run := some { r with popped := r.popped ++ [v] } }
      pure (.go .again)
    else
      if s.windowFlies 0 (2 ^ 100) then stall (.landing 0 (2 ^ 100))
      wholly (results r.mode r.popped)
      pure (.last .seq)

/-! ### `vtopk` (R206) -/

/-- f10 of the three instructions. -/
def f10Of (op : Nat) (t : ElemType) : Nat := op * 16 + t.code

/-- Whether value x of index i comes before value y of index j in the ranking. -/
def ranksBefore (x y : Value × Nat) : Bool :=
  match x.1.isNan, y.1.isNan with
  | false, true => true
  | true, false => false
  | true, true => x.2 < y.2
  | false, false =>
    match x.1.order y.1 with
    | .gt => true
    | .lt => false
    | .eq => x.2 < y.2

/-- The value and its code inserted in the ranking. -/
def insertRank (x : Value × Nat × Nat) : List (Value × Nat × Nat) → List (Value × Nat × Nat)
  | [] => [x]
  | y :: t => if ranksBefore (x.1, x.2.1) (y.1, y.2.1) then x :: y :: t else y :: insertRank x t

/-- The values of a run with their indexes, from `base` on mod 2^32, and their codes. -/
def topkValues (base : Nat) (l : List Q) : List (Value × Nat × Nat) :=
  let codes := (l.map (lanesIn .f32)).flatten
  (codes.zip (upFrom base codes.length)).map fun c => (Fmt.f32.decode c.1, c.2 % 2 ^ 32, c.1)

/-- The elements that `vtopk` pushes. -/
def topkElements (k : Nat) : List (Value × Nat × Nat) → List Q
  | [] => []
  | [x] => if k = 0 then [] else [topkPair x none]
  | x :: y :: t => if k = 0 then [] else if k = 1 then [topkPair x none] else topkPair x (some y) :: topkElements (k - 2) t
where
  /-- Two ranked values in one element. -/
  topkPair (x : Value × Nat × Nat) (y : Option (Value × Nat × Nat)) : Q :=
    let out (v : Value × Nat × Nat) : Nat := if v.1.isNan then 0x7FC00000 else v.2.2
    let high := match y with
      | some y => out y + y.2.1 * 2 ^ 32
      | none => 0x7FC00000 + 0xFFFFFFFF * 2 ^ 32
    q (out x + x.2.1 * 2 ^ 32 + high * 2 ^ 64)

/-- `vtopk` (R206). -/
def execVtopk (d a b : RegIdx) (s : State) : Host.Outcome State Fault Refusal :=
  perform s do
    let y := ((← get).ctx (← issuer)).reg b
    let k := bits y.bits 0 9
    wholeRun a
      (do
        let f10 := f10Of 6 .f32
        checkWhole f10 ⟨a, false⟩
        trapIf ((← get).streamed b) 0x141 (q b.val)
        checkWhole f10 ⟨d, true⟩
        let n := (← get).remain a
        trapIf (k == 0 || decide (256 < k) || bits y.bits 9 23 != 0 || n == 0 || decide (1024 < n)) 0x0A0
          (q (n64 y.bits)) (q f10)
        checkCount d ((Nat.min k (4 * n) + 1) / 2)
        pure n)
      (fun _ l => do
        let vs := topkValues (bits y.bits 32 32) l
        setFlags (flagIf (vs.any fun v => v.1.signalling) Flags.nv)
        let ranked := vs.foldr insertRank []
        pushWhole (portOf d) (topkElements (Nat.min k vs.length) ranked))

/-! ### `vquant` (R208) -/

/-- The largest magnitude of a block. -/
def blockMax (l : List Value) : Value :=
  l.foldl (fun a b => if a.order b.abs == .lt then b.abs else a) (.num false 0 1)

/-- floor(log10(n/d)) within −19 to 19. -/
def floorLog10 (n d : Nat) : Int :=
  (upFrom 0 39).foldl (fun (b : Int) (i : Nat) =>
    let e : Int := (i : Int) - 19
    if 10 ^ e.toNat * d ≤ n * 10 ^ (-e).toNat then e else b) (-19)

/-- The scale byte of a block without a NaN. -/
def blockScale (t : ElemType) (l : List Value) : Nat :=
  match t, blockMax l with
  | .mxf4, .num _ n d => if n = 0 then 127 else (clamp 0 254 (floorLog2 n d - 2 + 127)).1.toNat
  | .mxf4, _ => 254
  | _, .num _ n d => if n = 0 then 0 else wrap 8 (floorLog10 n d)
  | _, _ => 19

/-- A value divided by a block's scale. -/
def unscale (t : ElemType) (sc : Nat) : Value → Value
  | .num s n d =>
    match t with
    | .mxf4 =>
      let e : Int := (sc : Int) - 127
      .num s (n * 2 ^ (-e).toNat) (d * 2 ^ e.toNat)
    | _ =>
      let e := signed 8 sc
      .num s (n * 10 ^ (-e).toNat) (d * 10 ^ e.toNat)
  | v => v

/-- The codes of a block, its scale byte and its flags. -/
def quantBlock (t : ElemType) (m : Mode) (l : List Value) : List Nat × Nat × Flags :=
  if l.any Value.isNan then (l.map fun _ => 0, if t = .mxf4 then 0xFF else 0x80, Flags.nv)
  else
    let sc := blockScale t l
    let rs := l.map fun v => (fmtOf t).convert m (unscale t sc v)
    (rs.map Prod.fst, sc, rs.foldl (fun a r => a ||| r.2) 0#6)

/-- Split a list into groups of `n`. -/
def groups {α : Type} (n : Nat) : Nat → List α → List (List α)
  | 0, _ => []
  | fuel + 1, l => if l.isEmpty then [] else l.take n :: groups n fuel (l.drop n)

/-- The blocks of a run of FP32 elements. -/
def blocksOf (l : List Q) : List (List Value) :=
  (groups 8 l.length l).map fun es => ((es.map (lanesIn .f32)).flatten).map Fmt.f32.decode

/-- `vquant` (R208). -/
def execVquant (d a b : RegIdx) (t : ElemType) (s : State) : Host.Outcome State Fault Refusal :=
  perform s do
    let per := if t = .mxf4 then 1 else 2
    wholeRun a
      (do
        let f10 := f10Of 8 t
        checkWhole f10 ⟨a, false⟩
        checkWhole f10 ⟨b, true⟩
        checkWhole f10 ⟨d, true⟩
        let n := (← get).remain a
        let blocks := n / 8
        trapIf (n % 8 != 0 || blocks == 0 || decide (128 < blocks)) 0x0A0 (q n) (q f10)
        checkCount b ((blocks + 15) / 16 + if b = d then blocks * per else 0)
        checkCount d (blocks * per)
        pure n)
      (fun m l => do
        let rs := (blocksOf l).map (quantBlock t m)
        setFlags (rs.foldl (fun a r => a ||| r.2.2) 0#6)
        (groups 16 rs.length rs).forM fun g => do
          pushWhole (portOf d)
            ((g.map fun r => (groups (32 / per) 2 r.1).map fun c => q (ofLanes (elemBits t) c)).flatten)
          pushWhole (portOf b) [q (ofLanes 8 (g.map fun r => r.2.1))])

/-! ### `vdeq` (R209) -/

/-- The value of a code under a block's scale. -/
def scaleUp (t : ElemType) (sc : Nat) : Value → Value
  | .num s n d =>
    match t with
    | .mxf4 =>
      let e : Int := (sc : Int) - 127
      .num s (n * 2 ^ e.toNat) (d * 2 ^ (-e).toNat)
    | _ =>
      let e := signed 8 sc
      .num s (n * 10 ^ e.toNat) (d * 10 ^ (-e).toNat)
  | v => v

/-- A DM8 scale byte that is out of range (R36). -/
def scaleOutside (sc : Nat) : Bool := sc != 0x80 && (signed 8 sc < -19 || 19 < signed 8 sc)

/-- The scale bytes that elements hold. -/
def scaleBytes (n : Nat) (l : List Q) : List Nat := ((l.map fun e => (upFrom 0 16).map (lane e 8)).flatten).take n

/-- The 32 FP32 results of a block. -/
def deqBlock (t : ElemType) (m : Mode) (sc : Nat) (codes : List Nat) : List (Nat × Flags) :=
  if sc = (if t = .mxf4 then 0xFF else 0x80) then codes.map fun _ => (0x7FC00000, 0#6)
  else codes.map fun c => Fmt.f32.convert m (scaleUp t sc (laneValue t c))

/-- Pop scale elements that have arrived. -/
def popMany (p : Fin 8) : Nat → Act (List Q)
  | 0 => pure []
  | n + 1 => do
    let v ← popPort p
    return v :: (← popMany p n)

/-- `vdeq` (R209). -/
def execVdeq (d a b : RegIdx) (t : ElemType) (s : State) : Host.Outcome State Fault Refusal :=
  perform s do
    let per := if t = .mxf4 then 1 else 2
    wholeRun a
      (do
        let f10 := f10Of 9 t
        checkWhole f10 ⟨a, false⟩
        checkWhole f10 ⟨b, false⟩
        checkWhole f10 ⟨d, true⟩
        let n := (← get).remain a
        let blocks := n / per
        trapIf (n % per != 0 || blocks == 0 || decide (128 < blocks)) 0x0A0 (q n) (q f10)
        let need := (blocks + 15) / 16
        checkCount b (need + if a = b then n else 0)
        checkCount d (8 * blocks)
        let x := (← get).port (portOf b)
        if x.fetched.length < need then stall (.element (portOf b))
        let scales := scaleBytes blocks ((x.fetched.take need).map Element.bits)
        match (scales.zip (upFrom 0 blocks)).find? fun sc => t == .dm8 && scaleOutside sc.1 with
        | some sc => trap 0x2A0 (q sc.2) (q sc.1)
        | none => pure ()
        pure n)
      (fun m l => do
        let blocks := l.length / per
        let scales := scaleBytes blocks (← popMany (portOf b) ((blocks + 15) / 16))
        let codes := groups per blocks l
        let rs := (codes.zip scales).map fun c => deqBlock t m c.2 ((c.1.map (lanesIn t)).flatten)
        setFlags ((rs.flatten).foldl (fun a r => a ||| r.2) 0#6)
        pushWhole (portOf d) ((rs.map fun r => (groups 4 8 r).map fun g => q (ofLanes 32 (g.map Prod.fst))).flatten))

end Sys2Proof.Machine
end

