-- ==== Sys2Proof/Machine/Windrow.lean ====
section
/-! DEFINITION. The windrow (R322 to R337): sequences, predictions, held requests and retirement, with the paged
key-value caches that it keeps (R338 to R345). -/

namespace Sys2Proof.Machine

/-! ### Key-value descriptors (R339) -/

/-- The address of descriptor `i` of this die. -/
def State.descAddr (s : State) (i : Nat) : Nat := sysAddr s.dieNo 0 0 5 (64 * i)

/-- A descriptor (Table 22.1). -/
structure KvDesc where
  v       : Bool
  bound   : Bool
  tenant  : BitVec 12
  floor   : Nat
  shift   : Nat
  pages   : Nat
  gstride : Nat
  groups  : Nat
  posmap  : Nat
  score   : Nat
  base    : Nat

/-- The fields of a descriptor's 512 bits; `groups` is G. -/
def KvDesc.ofNat (r : Nat) : KvDesc where
  v := fld r 365 1 == 1
  bound := fld r 364 1 == 1
  tenant := BitVec.ofNat 12 (fld r 352 12)
  floor := fld r 320 32
  shift := fld r 288 32
  pages := fld r 256 32
  gstride := fld r 224 32
  groups := fld r 216 8 + 1
  posmap := fld r 144 72
  score := fld r 72 72
  base := fld r 0 72

def State.kvDesc (s : State) (i : Nat) : KvDesc := KvDesc.ofNat (s.readWords (s.descAddr i) 8)

/-- A descriptor is valid. -/
def KvDesc.valid (d : KvDesc) : Bool :=
  d.v && decide (1 ≤ d.pages) && decide (d.pages ≤ 2 ^ 26) && decide (d.pages ≤ d.gstride) && decide (d.shift ≤ d.floor) &&
    d.posmap % 4 == 0 && d.score % 4 == 0 && d.base % 65536 == 0 &&
    decide (d.base + 65536 * (d.gstride * (d.groups - 1) + d.pages) ≤ 0xC * 2 ^ 68)

/-- BOUND of descriptor `i` set or cleared. -/
def State.setBound (s : State) (i : Nat) (v : Bool) : State :=
  let a := s.descAddr i + 40
  let m := BitVec.ofNat 64 (2 ^ 44)
  s.setSysReg a (if v then s.sysReg a ||| m else s.sysReg a &&& ~~~m)

/-- The binding that a `wopen` names can be made at a starting KVLEN (R340). -/
def State.bindable (s : State) (i kvlen : Nat) : Bool :=
  let d := s.kvDesc i
  decide (0 < i ∧ i < 1024) && d.valid && d.tenant == s.core.tenant && !d.bound && decide (d.floor ≤ kvlen) &&
    decide (kvlen - d.shift ≤ 16 * d.pages)

/-- The view of a sequence's walks and accesses: user level, its tenant and recorded ROOT (R340). -/
def State.kvView (s : State) (x : Seq) : View where
  level := .user
  tenant := x.tenant
  root := x.root.toNat / 2 ^ 12 % 2 ^ 44
  enabled := x.root.getLsbD 0
  windows := s.core.pwin.toList
  engine := true

/-- The pages of each group that hold slots from the first `n` pages up to page `e`, in ascending group and page: their
first addresses. -/
def KvDesc.pageList (d : KvDesc) (n e : Nat) : List Nat :=
  ((upFrom 0 d.groups).map fun g => (upFrom n (e - n)).map fun i => d.base + 65536 * (d.gstride * g + i)).flatten

/-- The pages of the first `n` slots. -/
def pagesFor (n : Nat) : Nat := (n + 15) / 16

/-! ### Page release (R344, R345) -/

/-- The walk of a page's first 4 KiB under R300, as a load at user level: the address of the group's first entry and the
entry, or the cause that skips the page. DEDUCED (log entry 33). -/
def kvLeaf (v : View) (va : Nat) : Act (Nat ⊕ (Nat × Nat)) := do
  match ← walk v va with
  | .inl (cause, _, _) => pure (.inl cause)
  | .inr (pa, e, level) =>
    if ptePermits e .load v.level = false then return .inl 0x113
    let e' := accessed e .load
    if e' ≠ e then setAccessed v pa e'
    pure (if level = 0 ∧ pteContig e' = true ∧ (pteHome e' = 0 ∨ pteHome e' = 2) then .inr (pa / 128 * 128, e') else .inl 0x110)

/-- The 16 entries of a group, and their writing. -/
def groupEntries (v : View) (pa : Nat) : List Nat → Act (List Nat)
  | [] => pure []
  | i :: t => do
    let e ← readEntry v (pa + 8 * i)
    let l ← groupEntries v pa t
    pure (e.getD 0 :: l)

def writeGroup (v : View) (pa : Nat) : List Nat → Act Unit
  | [] => pure ()
  | e :: t => do
    writeEntry v pa e
    writeGroup v (pa + 8) t

/-- An entry with V cleared. -/
def invalidEntry (e : Nat) : Nat := e / 2 * 2

/-- The first page of the 64 KiB frame of a group. -/
def groupFrame (e : Nat) : Nat := ptePpn e / 16 * 16

/-- The cached translations, under any root, whose page holds an address of the 64 KiB at a virtual address, as
`vfence.page` drops them (R302). -/
def TlbEntry.inGroup (t : TlbEntry) (va : Nat) : Bool :=
  t.page / 16 == va / 2 ^ 16 || t.page / 2 ^ (9 * t.level) == va / 2 ^ 12 / 2 ^ (9 * t.level)

/-- Every cached copy of the 64 KiB of HBM from a page discarded, clean or dirty. -/
def State.discardCopies (s : State) (ppn : Nat) : State := s.uncache (ppn * 2 ^ 12) (2 ^ 16)

/-- A frame appended to this die's release ring (R345). -/
def State.releaseFrame (s : State) (ppn binding : Nat) : State :=
  let d := s.dieNo
  let lost := sysAddr d 0 0 6 0x8010
  if s.ringFull d releaseRing then
    s.setSysReg lost (BitVec.ofNat 64 (Nat.min (2 ^ 32 - 1) ((s.sysReg lost).toNat + 1)))
  else
    (s.setSysReg (sysAddr d 0 0 6 (8 * s.ringTail d releaseRing))
      (BitVec.ofNat 64 (2 ^ 63 + binding % 2 ^ 10 * 2 ^ 44 + ppn % 2 ^ 44))).ringAdvance d releaseRing

/-- The identifier of sequence `n` of this die. -/
def State.seqId (s : State) (n : Nat) : Nat := 256 * s.dieNo + n

/-- The release of one page of sequence `n`. -/
def releasePage (v : View) (n binding va : Nat) : Act Unit := do
  match ← kvLeaf v va with
  | .inl c =>
    modify fun s => s.record
      { handle := binding, tag := s.seqId n, origin := s.core.id, slot := s.cur.val, source := 6, cause := c, va := va }
  | .inr (pa, e) =>
    let l ← groupEntries v pa (upFrom 0 16)
    writeGroup v pa (l.map invalidEntry)
    let f := groupFrame e
    modify fun s =>
      let s := s.dropTranslations fun t => t.inGroup va
      let s := (s.arrive (f * 2 ^ 12) (2 ^ 16)).getD s
      (s.discardCopies f).releaseFrame f binding

def releasePages (v : View) (n binding : Nat) : List Nat → Act Unit
  | [] => pure ()
  | va :: t => do
    releasePage v n binding va
    releasePages v n binding t

/-! ### Sequences -/

def Seq.used (x : Seq) : List Prediction := x.slots.toList.filterMap id

/-- DEPTH. -/
def Seq.depth (x : Seq) : Nat := x.used.length

/-- A position or a tag that is speculative (R330). -/
def Seq.speculative (x : Seq) (p : Nat) : Bool := x.used.any fun y => decide (y.c ≤ p)

def Seq.tokens (x : Seq) : List Token := x.made.filterMap fun m =>
  match m with
  | .token t => some t
  | .request _ => none

def Seq.requests (x : Seq) : List Request := x.made.filterMap fun m =>
  match m with
  | .token _ => none
  | .request r => some r

/-- Request places in use. -/
def Seq.places (x : Seq) : Nat := x.requests.length + (x.sending.filter Outward.placed).length

/-- Retirement, in the order in which entries and requests were made (R330): what stays, and what is released. -/
def Seq.retireFrom (x : Seq) : List Made → List Made × List Request
  | [] => ([], [])
  | .token t :: rest =>
    if t.retired || !x.speculative t.pos then
      let r := x.retireFrom rest
      (.token { t with retired := true } :: r.1, r.2)
    else (.token t :: rest, [])
  | .request y :: rest =>
    if x.speculative y.tag then (.request y :: rest, [])
    else
      let r := x.retireFrom rest
      (r.1, y :: r.2)

def Seq.retire (x : Seq) : Seq :=
  let r := x.retireFrom x.made
  { x with made := r.1, sending := x.sending ++ r.2.map fun y => ⟨y.payload, y.mailbox, x.tenant, true⟩ }

/-- The speculation tag after an instruction on sequence `n` (R336). -/
def Seq.tag (x : Seq) (n : Nat) : BitVec 12 := BitVec.ofNat 12 (if x.depth = 0 then 0 else 2 ^ 11 + x.depth * 2 ^ 8 + n % 256)

/-- The released requests of a sequence are sent on. -/
def State.sendReleased (s : State) (n : Nat) : State :=
  if (s.seq n).sending = [] then s else s.scheduleOnce .windrowRequestSend (.sequence (Fin.ofNat 256 n))

/-- What follows every windrow instruction of slot `k` on sequence `n` (R330, R336). -/
def State.afterWindrow (s : State) (k : SlotId) (n : Nat) : State :=
  let s := (s.setSeq n (s.seq n).retire).sendReleased n
  s.modCtx k fun c => { c with spec := (s.seq n).tag n }

/-! ### The checks -/

/-- Steps 1 and 2 of R323, and Table 18.9, which give a missing WINDROW cause 0x300 where R55 gives 0x182 for a missing
permission bit. DEDUCED (log entry 55). -/
def windrowPerm (c : Reg) (r : RegIdx) : Act Unit := do
  let a := q (addrOf c.bits)
  trapIf (!c.tag) 0x180 a (capVal2 r.val false false 1)
  trapIf (otypeOf c.bits != 0) 0x181 a (capVal2 r.val false false 1)
  trapIf (!hasPerm c.bits .windrow) 0x300 a

/-- R323: the sequence of this die that a register names. -/
def sequenceOf (r : RegIdx) : Act Nat := do
  let c ← readReg r
  windrowPerm c r
  let a := addrOf c.bits
  let b := capBounds c.bits
  trapIf (!(decide (b.1 ≤ (a : Int)) && decide ((a : Int) < b.2))) 0x185 (q a) (capVal2 r.val false false 1)
  let s ← get
  let x := s.seq (a % 256)
  trapIf (decide (2048 ≤ a) || a / 256 != s.dieNo || !x.isOpen || x.tenant != s.core.tenant) 0x300 (q a)
  pure (a % 256)

/-- A cause of the windrow, with the sequence and a value (R323). -/
def refuseIf (n : Nat) (b : Bool) (cause v : Nat) : Act Unit := do
  let s ← get
  trapIf b cause (q (s.seqId n)) (q v)

/-- The bytes of LM that a capability names from its ADDR. -/
def windrowBytes (c : Reg) (n : Nat) : Act (List Byte) := do
  let v := (← get).view
  let a := addrOf c.bits
  let p ← place v c.bits .load a n 0#128
  readPlace v p a n

/-- The bytes of a capability. -/
def capLength (c : Q) : Nat := ((capBounds c).2 - (capBounds c).1).toNat

/-- A reply read from the LM (R327). -/
def replyTokens (n : Nat) (r : RegIdx) : Act (List (BitVec 32)) := do
  let c ← readReg r
  let a := addrOf c.bits
  let len := capLength c.bits
  checkCap c r.val [.load] a len
  refuseIf n (regionOf a != 0xD || decide (2 ^ 18 < a % 2 ^ 68 + len) || len % 4 != 0 || decide (len < 4) || decide (1024 < len)) 0x305 len
  let l ← windrowBytes c len
  pure ((upFrom 0 (len / 4)).map fun i => BitVec.ofNat 32 (ofBytes ((l.drop (4 * i)).take 4)))

/-- The wait of R334: a command for sequence `n` that the quern has taken is still to be performed, whoever gave it. -/
def State.quernPending (s : State) (n : Nat) : Bool :=
  slotIds.any fun k => ((s.slot k).engine .e1).taken.any fun c => c.elems.length != 0 && c.quernSeq == n

def awaitQuern (n : Nat) : Act Unit := do if (← get).quernPending n then stall (.quern (Fin.ofNat 256 n))

/-- A prediction slot in use, or cause 0x301 with value 1. -/
def usedSlot (n : Nat) (k : Fin 4) : Act Prediction := do
  match ((← get).seq n).slots.get k with
  | some p => pure p
  | none =>
    refuseIf n true 0x301 1
    pure ⟨0, [], 0#128, Text.unbound⟩

/-- A windrow instruction: it ends the sheaf before it and forms one of its own (R325). -/
def windrowStep (s : State) (act : Act Unit) : Host.Outcome State Fault Refusal :=
  perform s (pure (.lastThen do
    act
    pure .seq))

def afterSeq (n : Nat) : Act Unit := modify fun s => s.afterWindrow s.cur n

/-! ### The rewind (R332) -/

/-- A sequence rewound from slot `k`, that holds `p`, to position `x`. -/
def Seq.rewound (y : Seq) (k : Fin 4) (p : Prediction) (x : Nat) : Seq :=
  { y with
    made := y.made.filter fun m =>
      match m with
      | .token t => decide (t.pos < x)
      | .request r => decide (r.tag ≤ x)
    slots := (y.slots.set k.val none k.isLt).map fun o => o.filter fun z => decide (z.c < x)
    sampler := p.sampler, text := p.text, kvlen := x, stalled := false }

/-- What the windrow writes waits for the end of another slot's solo sheaf (R178). -/
def awaitSolo : Act Unit := do
  let s ← get
  if slotIds.any fun k => k != s.cur && (s.slot k).sheaf.solo then stall .solo

/-- The first page that an engine command in progress still uses is waited for (R344). -/
def awaitPages : List Nat → Act Unit
  | [] => pure ()
  | va :: t => do
    if (← get).walksPending .page va then stall (.walks .page va)
    awaitPages t

/-- The rewind of slot `k` of sequence `n` to position `x`. -/
def rewindTo (n : Nat) (k : Fin 4) (p : Prediction) (x : Nat) : Act Unit := do
  awaitQuern n
  let s ← get
  let y := s.seq n
  if y.binding ≠ 0 then
    let d := s.kvDesc y.binding
    let l := d.pageList (pagesFor (x - d.shift)) (pagesFor (y.kvlen - d.shift))
    awaitSolo
    awaitPages l
    releasePages (s.kvView y) n y.binding l
  modify fun s => s.setSeq n (y.rewound k p x)

/-! ### The instructions -/

/-- The lowest closed sequence whose identifier lies in bounds. -/
def State.closedIn (s : State) (b : Int × Int) : Option Nat :=
  (upFrom 0 256).find? fun n => !(s.seq n).isOpen && decide (b.1 ≤ (s.seqId n : Int)) && decide ((s.seqId n : Int) < b.2)

/-- `wopen` (R326, R340). DEDUCED (log entry 28). -/
def execWopen (d a b : RegIdx) (s : State) : Host.Outcome State Fault Refusal :=
  windrowStep s do
    let c ← readReg a
    windrowPerm c a
    let x := n64 (← readBits b)
    let s ← get
    let binding := x / 2 ^ 32
    trapIf (decide (2 ^ 48 ≤ x)) 0x305 (q (addrOf c.bits)) (q x)
    match s.closedIn (capBounds c.bits) with
    | none => trap 0x306 0#128 256#128
    | some n =>
      trapIf (binding != 0 && !s.bindable binding (x % 2 ^ 32)) 0x305 (q (addrOf c.bits)) (q x)
      roomFor d
      let y := { Seq.closed with
        isOpen := true, tenant := s.core.tenant, kvlen := x % 2 ^ 32, binding := binding
        root := s.sysReg (s.controlBlock 0x20), sending := (s.seq n).sending }
      modify fun s => (if binding = 0 then s else s.setBound binding true).setSeq n y
      writeReg d ⟨withAddr c.bits (s.seqId n), true⟩
      afterSeq n

/-- `wclose` (R326). -/
def execWclose (a : RegIdx) (s : State) : Host.Outcome State Fault Refusal :=
  windrowStep s do
    let n ← sequenceOf a
    let s ← get
    let y := s.seq n
    modify fun s => (if y.binding = 0 then s else s.setBound y.binding false).setSeq n
      { Seq.closed with tenant := y.tenant, sending := y.sending.map fun o => { o with placed := false } }
    afterSeq n

/-- The lowest free prediction slot. -/
def Seq.freeSlot (x : Seq) : Option (Fin 4) := slotIds.find? fun k => (x.slots.get k).isNone

/-- `wcall` (R327). -/
def execWcall (d a b : RegIdx) (s : State) : Host.Outcome State Fault Refusal :=
  windrowStep s do
    let n ← sequenceOf a
    let tokens ← replyTokens n b
    let y := (← get).seq n
    match y.freeSlot with
    | none => refuseIf n true 0x303 4
    | some k =>
      awaitQuern n
      modify fun s => s.setSeq n { y with slots := y.slots.set k.val (some ⟨y.kvlen, tokens, y.sampler, y.text⟩) k.isLt }
      writeNat d k.val
      afterSeq n

/-- A token against the predicted replies that cover its position (R328). -/
def Seq.contradicts (x : Seq) (token : BitVec 32) : Bool :=
  x.used.any fun p => decide (p.c ≤ x.kvlen) && decide (x.kvlen < p.c + p.tokens.length) && p.tokens.getD (x.kvlen - p.c) 0#32 != token

/-- The place of a word that the windrow writes, or the cause that keeps it from it (R343). DEDUCED (log entry 33). -/
def kvPlace (v : View) (va : Nat) : Act (Nat ⊕ Place) := do
  match (← get).engineRegion v va 4 with
  | some c => pure (.inl c)
  | none =>
    if 0xC ≤ regionOf va then pure (.inl 0x120)
    else
      match ← tryAct (placeTranslated v 0#128 .store va 4 0#128) with
      | .inl c => pure (.inl c)
      | .inr p =>
        let s ← get
        pure (if !s.remote p.loc && !s.opens p.key p.loc then .inl 0x130 else .inr p)

/-- Entry `slot` of the position map and of the score table written (R343). -/
def writeEntries (n slot : Nat) : Act Unit := do
  let s ← get
  let y := s.seq n
  let d := s.kvDesc y.binding
  let v := s.kvView y
  match ← kvPlace v ((d.posmap + 4 * slot) % 2 ^ 72), ← kvPlace v ((d.score + 4 * slot) % 2 ^ 72) with
  | .inr p, .inr t =>
    writePlaces v (leBytes 4 y.kvlen) [(p, 4)]
    writePlaces v (leBytes 4 0) [(t, 4)]
  | .inl c, _ => refuseIf n true 0x308 c
  | _, .inl c => refuseIf n true 0x308 c

/-- `wtok` (R328, R343). -/
def execWtok (r a b : RegIdx) (s : State) : Host.Outcome State Fault Refusal :=
  windrowStep s do
    let n ← sequenceOf a
    let x := n64 (← readBits b)
    let sampler ← readBits r
    refuseIf n (decide (2 ^ 33 ≤ x)) 0x305 x
    let s ← get
    let y := s.seq n
    if 2 ^ 32 ≤ x then modify fun s => s.setSeq n { y with stalled := true }
    else
      let token := BitVec.ofNat 32 x
      refuseIf n (y.contradicts token) 0x301 2
      refuseIf n (decide (1024 ≤ y.tokens.length)) 0x302 1024
      if y.binding ≠ 0 then
        let d := s.kvDesc y.binding
        let slot := y.kvlen - d.shift
        refuseIf n (decide (16 * d.pages ≤ slot)) 0x307 slot
        awaitSolo
        writeEntries n slot
      modify fun s => s.setSeq n
        { y with
          made := y.made ++ [.token ⟨token, y.kvlen, false⟩], kvlen := (y.kvlen + 1) % 2 ^ 32, sampler := sampler, stalled := false }
    afterSeq n

/-- `wreq` (R329). -/
def execWreq (r a b : RegIdx) (early : Bool) (s : State) : Host.Outcome State Fault Refusal :=
  windrowStep s do
    let n ← sequenceOf a
    let box := n64 (← readBits r)
    let c ← readReg b
    let s ← get
    let f := s.boundFunction s.core.tenant
    refuseIf n (decide (64 ≤ box) || f.isNone) 0x305 box
    let at_ := addrOf c.bits
    checkCap c b.val [.load] at_ 64
    trapIf (at_ % 16 != 0) 0x101 (q at_) (capVal2 b.val false false 64)
    trapIf (regionOf at_ != 0xD || decide (2 ^ 18 < at_ % 2 ^ 68 + 64)) 0x120 (q at_)
    let data ← windrowBytes c 64
    let y := (← get).seq n
    if early && (s.outboxOf (f.getD 0) box).early then
      modify fun s => s.setSeq n { y with sending := y.sending ++ [⟨data, box, y.tenant, false⟩] }
    else
      refuseIf n (decide (64 ≤ y.places)) 0x304 64
      modify fun s => s.setSeq n { y with made := y.made ++ [.request ⟨data, box, y.kvlen⟩] }
    afterSeq n

/-- The number of leading tokens in which two replies agree. -/
def agreeing : List (BitVec 32) → List (BitVec 32) → Nat
  | a :: s, b :: t => if a = b then 1 + agreeing s t else 0
  | _, _ => 0

/-- `wcheck` (R331). -/
def execWcheck (d a b : RegIdx) (k : Fin 4) (s : State) : Host.Outcome State Fault Refusal :=
  windrowStep s do
    let n ← sequenceOf a
    let reply ← replyTokens n b
    let p ← usedSlot n k
    roomFor d
    let y := (← get).seq n
    if reply = p.tokens then
      modify fun s => s.setSeq n { y with slots := y.slots.set k.val none k.isLt }
      writeNat d (p.tokens.length + 2 ^ 16)
    else
      let x := Nat.min (p.c + agreeing p.tokens reply) y.kvlen
      rewindTo n k p x
      writeNat d (x - p.c + 2 ^ 17)
    afterSeq n

/-- The first three retired tokens taken from what was made. -/
def takeRetired : Nat → List Made → List Made
  | _, [] => []
  | 0, l => l
  | m + 1, .token t :: rest => if t.retired then takeRetired m rest else .token t :: takeRetired (m + 1) rest
  | m + 1, .request r :: rest => .request r :: takeRetired (m + 1) rest

/-- `wretire` (R333). -/
def execWretire (d a : RegIdx) (s : State) : Host.Outcome State Fault Refusal :=
  windrowStep s do
    let n ← sequenceOf a
    let y := (← get).seq n
    let l := y.tokens.filter Token.retired
    let three := (l.take 3).map fun t => t.token.toNat
    modify fun s => s.setSeq n { y with made := takeRetired 3 y.made }
    write128 d (q (ofLanes 32 three + three.length * 2 ^ 96 + (decide (3 < l.length)).toNat * 2 ^ 98))
    afterSeq n

/-- `wrewind` (R332). -/
def execWrewind (a b : RegIdx) (k : Fin 4) (s : State) : Host.Outcome State Fault Refusal :=
  windrowStep s do
    let n ← sequenceOf a
    let j := n64 (← readBits b)
    let p ← usedSlot n k
    let y := (← get).seq n
    refuseIf n (decide (Nat.min p.tokens.length (y.kvlen - p.c) < j)) 0x305 j
    rewindTo n k p (p.c + j)
    afterSeq n

/-- SLOTS. -/
def Seq.slotMask (x : Seq) : Nat := (slotIds.map fun k => if (x.slots.get k).isSome then 2 ^ k.val else 0).sum

/-- Sequence status (Table 20.5). -/
def Seq.status (x : Seq) : Nat :=
  x.tenant.toNat * 2 ^ 96 + x.kvlen * 2 ^ 64 + (x.tokens.filter Token.retired).length * 2 ^ 48 + x.tokens.length * 2 ^ 32 +
    x.places * 2 ^ 16 + x.depth * 2 ^ 8 + x.slotMask * 2 ^ 4 + x.text.stopped.toNat * 2 ^ 2 + x.stalled.toNat * 2 + x.isOpen.toNat

/-- The three words of `wstat` (R335). -/
def windrowRead (d a : RegIdx) (f : Seq → Q) (s : State) : Host.Outcome State Fault Refusal :=
  windrowStep s do
    let n ← sequenceOf a
    let y := (← get).seq n
    write128 d (f y)
    afterSeq n

def execWstat (d a : RegIdx) (s : State) : Host.Outcome State Fault Refusal := windrowRead d a (fun x => q x.status) s

def execWstatSmp (d a : RegIdx) (s : State) : Host.Outcome State Fault Refusal := windrowRead d a Seq.sampler s

/-- C, R and IN USE of a slot. -/
def Seq.slotWord (x : Seq) (k : Fin 4) : Nat :=
  match x.slots.get k with
  | some p => p.c + p.tokens.length * 2 ^ 32 + 2 ^ 48
  | none => 0

def execWstatP (d a : RegIdx) (m : Fin 4) (s : State) : Host.Outcome State Fault Refusal :=
  windrowRead d a (fun x => q (x.slotWord m)) s

/-! ### Released requests -/

/-- WINDROW_REQUEST_SEND (R330): the oldest released request of a sequence goes to its mailbox, or waits for it.
DEDUCED (log entry 33). -/
def execWindrowRequestSend (s : State) : Host.Outcome State Fault Refusal :=
  happen (match s.event with
    | .sequence n =>
      match (s.seq n.val).sending with
      | [] => s
      | r :: rest =>
        let (t, answer) := s.sendEntry r.tenant r.mailbox r.payload
        if answer.cause = 0x385 then s.sendReleased n.val
        else (t.setSeq n.val { t.seq n.val with sending := rest }).sendReleased n.val
    | _ => s)

end Sys2Proof.Machine
end

