-- ==== Sys2Proof/Machine/Dispatch.lean ====
section
/-! DEFINITION. One arm for each instruction: the meaning it calls. -/

namespace Sys2Proof.Machine

/-- What an instruction, or an event, does to the state. -/
def exec (i : Instr) (s : State) : Host.Outcome State Fault Refusal :=
  match i with
  | .add d a b m => Sys2Proof.Machine.execAdd d a b m s
  | .sub d a b m => Sys2Proof.Machine.execSub d a b m s
  | .neg d a m => Sys2Proof.Machine.execNeg d a m s
  | .mul d a b m => Sys2Proof.Machine.execMul d a b m s
  | .mulh d a b => Sys2Proof.Machine.execMulh d a b s
  | .mulhn d a b => Sys2Proof.Machine.execMulhn d a b s
  | .div d a b => Sys2Proof.Machine.execDiv d a b s
  | .divn d a b => Sys2Proof.Machine.execDivn d a b s
  | .rem d a b => Sys2Proof.Machine.execRem d a b s
  | .remn d a b => Sys2Proof.Machine.execRemn d a b s
  | .min d a b => Sys2Proof.Machine.execMin d a b s
  | .max d a b => Sys2Proof.Machine.execMax d a b s
  | .minn d a b => Sys2Proof.Machine.execMinn d a b s
  | .maxn d a b => Sys2Proof.Machine.execMaxn d a b s
  | .abs d a m => Sys2Proof.Machine.execAbs d a m s
  | .and d a b => Sys2Proof.Machine.execAnd d a b s
  | .or d a b => Sys2Proof.Machine.execOr d a b s
  | .xor d a b => Sys2Proof.Machine.execXor d a b s
  | .not d a => Sys2Proof.Machine.execNot d a s
  | .shl d a b => Sys2Proof.Machine.execShl d a b s
  | .shr d a b => Sys2Proof.Machine.execShr d a b s
  | .sar d a b => Sys2Proof.Machine.execSar d a b s
  | .rotl d a b => Sys2Proof.Machine.execRotl d a b s
  | .clz d a => Sys2Proof.Machine.execClz d a s
  | .ctz d a => Sys2Proof.Machine.execCtz d a s
  | .popc d a => Sys2Proof.Machine.execPopc d a s
  | .brev d a => Sys2Proof.Machine.execBrev d a s
  | .bext d a b => Sys2Proof.Machine.execBext d a b s
  | .bins d a b => Sys2Proof.Machine.execBins d a b s
  | .bset d a b => Sys2Proof.Machine.execBset d a b s
  | .bclr d a b => Sys2Proof.Machine.execBclr d a b s
  | .bflip d a b => Sys2Proof.Machine.execBflip d a b s
  | .sext d a sz => Sys2Proof.Machine.execSext d a sz s
  | .zext d a sz => Sys2Proof.Machine.execZext d a sz s
  | .mov d a => Sys2Proof.Machine.execMov d a s
  | .cmp d a b => Sys2Proof.Machine.execCmp d a b s
  | .pand d a b => Sys2Proof.Machine.execPand d a b s
  | .por d a b => Sys2Proof.Machine.execPor d a b s
  | .pxor d a b => Sys2Proof.Machine.execPxor d a b s
  | .addi d a imm => Sys2Proof.Machine.execAddi d a imm s
  | .andi d a imm => Sys2Proof.Machine.execAndi d a imm s
  | .ori d a imm => Sys2Proof.Machine.execOri d a imm s
  | .xori d a imm => Sys2Proof.Machine.execXori d a imm s
  | .shli d a imm => Sys2Proof.Machine.execShli d a imm s
  | .shri d a imm => Sys2Proof.Machine.execShri d a imm s
  | .sari d a imm => Sys2Proof.Machine.execSari d a imm s
  | .cmpi d a imm => Sys2Proof.Machine.execCmpi d a imm s
  | .movi d imm => Sys2Proof.Machine.execMovi d imm s
  | .movhi d imm => Sys2Proof.Machine.execMovhi d imm s
  | .bt r off n => Sys2Proof.Machine.execBt r off n s
  | .bf r off n => Sys2Proof.Machine.execBf r off n s
  | .jmp off => Sys2Proof.Machine.execJmp off s
  | .jal off => Sys2Proof.Machine.execJal off s
  | .jr a => Sys2Proof.Machine.execJr a s
  | .jalr d a => Sys2Proof.Machine.execJalr d a s
  | .drill k v n => Sys2Proof.Machine.execDrill k v n s
  | .cgetaddr d a => Sys2Proof.Machine.execCgetaddr d a s
  | .cgetbase d a => Sys2Proof.Machine.execCgetbase d a s
  | .cgetlen d a => Sys2Proof.Machine.execCgetlen d a s
  | .cgetperm d a => Sys2Proof.Machine.execCgetperm d a s
  | .cgettype d a => Sys2Proof.Machine.execCgettype d a s
  | .cgettag d a => Sys2Proof.Machine.execCgettag d a s
  | .csetaddr d a b => Sys2Proof.Machine.execCsetaddr d a b s
  | .cincaddr d a b => Sys2Proof.Machine.execCincaddr d a b s
  | .csetbounds d a b => Sys2Proof.Machine.execCsetbounds d a b s
  | .csetboundsx d a b => Sys2Proof.Machine.execCsetboundsx d a b s
  | .candperm d a b => Sys2Proof.Machine.execCandperm d a b s
  | .cseal d a b => Sys2Proof.Machine.execCseal d a b s
  | .cunseal d a b => Sys2Proof.Machine.execCunseal d a b s
  | .cclrtag d a => Sys2Proof.Machine.execCclrtag d a s
  | .ctestsub d a b => Sys2Proof.Machine.execCtestsub d a b s
  | .cbuild d a b => Sys2Proof.Machine.execCbuild d a b s
  | .cincaddri d a imm => Sys2Proof.Machine.execCincaddri d a imm s
  | .ldB d a imm => Sys2Proof.Machine.execLdB d a imm s
  | .ldH d a imm => Sys2Proof.Machine.execLdH d a imm s
  | .ldW d a imm => Sys2Proof.Machine.execLdW d a imm s
  | .ldD d a imm => Sys2Proof.Machine.execLdD d a imm s
  | .ldQ d a imm => Sys2Proof.Machine.execLdQ d a imm s
  | .ldzB d a imm => Sys2Proof.Machine.execLdzB d a imm s
  | .ldzH d a imm => Sys2Proof.Machine.execLdzH d a imm s
  | .ldzW d a imm => Sys2Proof.Machine.execLdzW d a imm s
  | .ldC d a imm => Sys2Proof.Machine.execLdC d a imm s
  | .stB a b off => Sys2Proof.Machine.execStB a b off s
  | .stH a b off => Sys2Proof.Machine.execStH a b off s
  | .stW a b off => Sys2Proof.Machine.execStW a b off s
  | .stD a b off => Sys2Proof.Machine.execStD a b off s
  | .stQ a b off => Sys2Proof.Machine.execStQ a b off s
  | .stC a b off => Sys2Proof.Machine.execStC a b off s
  | .lda d a sz v => Sys2Proof.Machine.execLda d a sz v s
  | .strl a b sz v => Sys2Proof.Machine.execStrl a b sz v s
  | .amoadd d a b sz v => Sys2Proof.Machine.execAmoadd d a b sz v s
  | .amoswap d a b sz v => Sys2Proof.Machine.execAmoswap d a b sz v s
  | .amocas d a b sz v => Sys2Proof.Machine.execAmocas d a b sz v s
  | .amocasq d a b v => Sys2Proof.Machine.execAmocasq d a b v s
  | .amomin d a b sz v => Sys2Proof.Machine.execAmomin d a b sz v s
  | .amomax d a b sz v => Sys2Proof.Machine.execAmomax d a b sz v s
  | .amominn d a b sz v => Sys2Proof.Machine.execAmominn d a b sz v s
  | .amomaxn d a b sz v => Sys2Proof.Machine.execAmomaxn d a b sz v s
  | .amoand d a b sz v => Sys2Proof.Machine.execAmoand d a b sz v s
  | .amoor d a b sz v => Sys2Proof.Machine.execAmoor d a b sz v s
  | .amoxor d a b sz v => Sys2Proof.Machine.execAmoxor d a b sz v s
  | .fence k v => Sys2Proof.Machine.execFence k v s
  | .fsc v => Sys2Proof.Machine.execFsc v s
  | .cinv a b => Sys2Proof.Machine.execCinv a b s
  | .cwb a b => Sys2Proof.Machine.execCwb a b s
  | .pfL1 a => Sys2Proof.Machine.execPfL1 a s
  | .pfL2 a => Sys2Proof.Machine.execPfL2 a s
  | .sbind d a p tm => Sys2Proof.Machine.execSbind d a p tm s
  | .sbindch d a p h => Sys2Proof.Machine.execSbindch d a p h s
  | .sfree a => Sys2Proof.Machine.execSfree a s
  | .sstat d a => Sys2Proof.Machine.execSstat d a s
  | .sstatCh d h => Sys2Proof.Machine.execSstatCh d h s
  | .sskip a n => Sys2Proof.Machine.execSskip a n s
  | .cbinit d a h => Sys2Proof.Machine.execCbinit d a h s
  | .cbwait d a h => Sys2Proof.Machine.execCbwait d a h s
  | .cbfree d a h => Sys2Proof.Machine.execCbfree d a h s
  | .cbadv a h => Sys2Proof.Machine.execCbadv a h s
  | .cbcomm a h => Sys2Proof.Machine.execCbcomm a h s
  | .epush a f => Sys2Proof.Machine.execEpush a f s
  | .epop d f => Sys2Proof.Machine.execEpop d f s
  | .epeek d f => Sys2Proof.Machine.execEpeek d f s
  | .estat d f => Sys2Proof.Machine.execEstat d f s
  | .fadd d a b t => Sys2Proof.Machine.execFadd d a b t s
  | .fsub d a b t => Sys2Proof.Machine.execFsub d a b t s
  | .fmul d a b t => Sys2Proof.Machine.execFmul d a b t s
  | .fma d a b t => Sys2Proof.Machine.execFma d a b t s
  | .fms d a b t => Sys2Proof.Machine.execFms d a b t s
  | .fnma d a b t => Sys2Proof.Machine.execFnma d a b t s
  | .fmin d a b t => Sys2Proof.Machine.execFmin d a b t s
  | .fmax d a b t => Sys2Proof.Machine.execFmax d a b t s
  | .fabs d a t => Sys2Proof.Machine.execFabs d a t s
  | .fneg d a t => Sys2Proof.Machine.execFneg d a t s
  | .fdiv d a b t => Sys2Proof.Machine.execFdiv d a b t s
  | .fsqrt d a t => Sys2Proof.Machine.execFsqrt d a t s
  | .fcmp d a b t => Sys2Proof.Machine.execFcmp d a b t s
  | .fclass d a t => Sys2Proof.Machine.execFclass d a t s
  | .fcvt d a t v => Sys2Proof.Machine.execFcvt d a t v s
  | .fcvti d a t z v => Sys2Proof.Machine.execFcvti d a t z v s
  | .icvtf d a t v => Sys2Proof.Machine.execIcvtf d a t v s
  | .vadd d a b t => Sys2Proof.Machine.execVadd d a b t s
  | .vsub d a b t => Sys2Proof.Machine.execVsub d a b t s
  | .vmul d a b t => Sys2Proof.Machine.execVmul d a b t s
  | .vfma d a b t => Sys2Proof.Machine.execVfma d a b t s
  | .vmin d a b t => Sys2Proof.Machine.execVmin d a b t s
  | .vmax d a b t => Sys2Proof.Machine.execVmax d a b t s
  | .vscale d a b t => Sys2Proof.Machine.execVscale d a b t s
  | .vdot d a b t => Sys2Proof.Machine.execVdot d a b t s
  | .vsum d a t => Sys2Proof.Machine.execVsum d a t s
  | .vrmax d a t => Sys2Proof.Machine.execVrmax d a t s
  | .vcvt d a t v => Sys2Proof.Machine.execVcvt d a t v s
  | .vpack d a b t => Sys2Proof.Machine.execVpack d a b t s
  | .vunpack d a t h v => Sys2Proof.Machine.execVunpack d a t h v s
  | .vsel d a b t => Sys2Proof.Machine.execVsel d a b t s
  | .vcmp d a b t => Sys2Proof.Machine.execVcmp d a b t s
  | .vshuf d a b t => Sys2Proof.Machine.execVshuf d a b t s
  | .vbcast d a t => Sys2Proof.Machine.execVbcast d a t s
  | .vexp2 d a t => Sys2Proof.Machine.execVexp2 d a t s
  | .vlog2 d a t => Sys2Proof.Machine.execVlog2 d a t s
  | .vrcp d a t => Sys2Proof.Machine.execVrcp d a t s
  | .vrsqrt d a t => Sys2Proof.Machine.execVrsqrt d a t s
  | .vtanh d a t => Sys2Proof.Machine.execVtanh d a t s
  | .vsin d a t => Sys2Proof.Machine.execVsin d a t s
  | .vtopk d a b => Sys2Proof.Machine.execVtopk d a b s
  | .vamax d a t => Sys2Proof.Machine.execVamax d a t s
  | .vquant d a b t => Sys2Proof.Machine.execVquant d a b t s
  | .vdeq d a b t => Sys2Proof.Machine.execVdeq d a b t s
  | .send r a b => Sys2Proof.Machine.execSend r a b s
  | .sendv r a b => Sys2Proof.Machine.execSendv r a b s
  | .spawn d a b => Sys2Proof.Machine.execSpawn d a b s
  | .tdec a b => Sys2Proof.Machine.execTdec a b s
  | .tarm a b => Sys2Proof.Machine.execTarm a b s
  | .tarmSp a => Sys2Proof.Machine.execTarmSp a s
  | .tself d => Sys2Proof.Machine.execTself d s
  | .stageTask d a b => Sys2Proof.Machine.execStageTask d a b s
  | .succ a b => Sys2Proof.Machine.execSucc a b s
  | .bar n => Sys2Proof.Machine.execBar n s
  | .hpack d a n => Sys2Proof.Machine.execHpack d a n s
  | .hparse d a n => Sys2Proof.Machine.execHparse d a n s
  | .hload a tm => Sys2Proof.Machine.execHload a tm s
  | .hgo d a imm tm => Sys2Proof.Machine.execHgo d a imm tm s
  | .hzero a => Sys2Proof.Machine.execHzero a s
  | .hdrain d a f => Sys2Proof.Machine.execHdrain d a f s
  | .hwait a done => Sys2Proof.Machine.execHwait a done s
  | .hstat d => Sys2Proof.Machine.execHstat d s
  | .haccRd d a => Sys2Proof.Machine.execHaccRd d a s
  | .haccWr d a => Sys2Proof.Machine.execHaccWr d a s
  | .hsetClr a => Sys2Proof.Machine.execHsetClr a s
  | .sys a b => Sys2Proof.Machine.execSys a b s
  | .idle a => Sys2Proof.Machine.execIdle a s
  | .vfence a v k => Sys2Proof.Machine.execVfence a v k s
  | .ctxload a => Sys2Proof.Machine.execCtxload a s
  | .migr d a => Sys2Proof.Machine.execMigr d a s
  | .pwreq a => Sys2Proof.Machine.execPwreq a s
  | .crr d c => Sys2Proof.Machine.execCrr d c s
  | .crw d a c => Sys2Proof.Machine.execCrw d a c s
  | .crs d a c => Sys2Proof.Machine.execCrs d a c s
  | .crc d a c => Sys2Proof.Machine.execCrc d a c s
  | .wopen d a b => Sys2Proof.Machine.execWopen d a b s
  | .wclose a => Sys2Proof.Machine.execWclose a s
  | .wcall d a b => Sys2Proof.Machine.execWcall d a b s
  | .wtok v a b => Sys2Proof.Machine.execWtok v a b s
  | .wreq v a b e => Sys2Proof.Machine.execWreq v a b e s
  | .wcheck d a b k => Sys2Proof.Machine.execWcheck d a b k s
  | .wretire d a => Sys2Proof.Machine.execWretire d a s
  | .wrewind a b k => Sys2Proof.Machine.execWrewind a b k s
  | .wstat d a => Sys2Proof.Machine.execWstat d a s
  | .wstatSmp d a => Sys2Proof.Machine.execWstatSmp d a s
  | .wstatP d a m => Sys2Proof.Machine.execWstatP d a m s
  | .mov16 d b => Sys2Proof.Machine.execMov16 d b s
  | .add16 d b => Sys2Proof.Machine.execAdd16 d b s
  | .sub16 d b => Sys2Proof.Machine.execSub16 d b s
  | .and16 d b => Sys2Proof.Machine.execAnd16 d b s
  | .or16 d b => Sys2Proof.Machine.execOr16 d b s
  | .xor16 d b => Sys2Proof.Machine.execXor16 d b s
  | .shl16 d b => Sys2Proof.Machine.execShl16 d b s
  | .shr16 d b => Sys2Proof.Machine.execShr16 d b s
  | .addi16 d imm => Sys2Proof.Machine.execAddi16 d imm s
  | .movi16 d imm => Sys2Proof.Machine.execMovi16 d imm s
  | .ldD16 d imm => Sys2Proof.Machine.execLdD16 d imm s
  | .stD16 d imm => Sys2Proof.Machine.execStD16 d imm s
  | .jmp16 off => Sys2Proof.Machine.execJmp16 off s
  | .jr16 a => Sys2Proof.Machine.execJr16 a s
  | .jalr16 a => Sys2Proof.Machine.execJalr16 a s
  | .whenSet r n => Sys2Proof.Machine.execWhenSet r n s
  | .unlessSet r n => Sys2Proof.Machine.execUnlessSet r n s
  | .illegalInstruction word short => Sys2Proof.Machine.execIllegalInstruction word short s
  | .ret => Sys2Proof.Machine.execRet s
  | .yield => Sys2Proof.Machine.execYield s
  | .nop => Sys2Proof.Machine.execNop s
  | .sheaf => Sys2Proof.Machine.execSheaf s
  | .cinvAll => Sys2Proof.Machine.execCinvAll s
  | .cwbAll => Sys2Proof.Machine.execCwbAll s
  | .tend => Sys2Proof.Machine.execTend s
  | .wdog => Sys2Proof.Machine.execWdog s
  | .hlay => Sys2Proof.Machine.execHlay s
  | .hswap => Sys2Proof.Machine.execHswap s
  | .hsetDiscard => Sys2Proof.Machine.execHsetDiscard s
  | .brk => Sys2Proof.Machine.execBrk s
  | .xret => Sys2Proof.Machine.execXret s
  | .halt => Sys2Proof.Machine.execHalt s
  | .ctxsave => Sys2Proof.Machine.execCtxsave s
  | .pwrel => Sys2Proof.Machine.execPwrel s
  | .nop16 => Sys2Proof.Machine.execNop16 s
  | .yield16 => Sys2Proof.Machine.execYield16 s
  | .ret16 => Sys2Proof.Machine.execRet16 s
  | .asyncCauseDelivery => Sys2Proof.Machine.execAsyncCauseDelivery s
  | .watchdogExpiry => Sys2Proof.Machine.execWatchdogExpiry s
  | .idleEnd => Sys2Proof.Machine.execIdleEnd s
  | .dispatch => Sys2Proof.Machine.execDispatch s
  | .firingStart => Sys2Proof.Machine.execFiringStart s
  | .yokeMove => Sys2Proof.Machine.execYokeMove s
  | .messageRouterCheck => Sys2Proof.Machine.execMessageRouterCheck s
  | .messageTask => Sys2Proof.Machine.execMessageTask s
  | .messageSpawn => Sys2Proof.Machine.execMessageSpawn s
  | .messageSpawnAnswer => Sys2Proof.Machine.execMessageSpawnAnswer s
  | .messageTdec => Sys2Proof.Machine.execMessageTdec s
  | .messageCredit => Sys2Proof.Machine.execMessageCredit s
  | .messageRemoteWindow => Sys2Proof.Machine.execMessageRemoteWindow s
  | .messageLaunch => Sys2Proof.Machine.execMessageLaunch s
  | .messageUnusedKind => Sys2Proof.Machine.execMessageUnusedKind s
  | .messageHoldRelease => Sys2Proof.Machine.execMessageHoldRelease s
  | .scrubComplete => Sys2Proof.Machine.execScrubComplete s
  | .successorHandoff => Sys2Proof.Machine.execSuccessorHandoff s
  | .barrierPhaseComplete => Sys2Proof.Machine.execBarrierPhaseComplete s
  | .sheafCommit => Sys2Proof.Machine.execSheafCommit s
  | .soloGrant => Sys2Proof.Machine.execSoloGrant s
  | .lineEviction => Sys2Proof.Machine.execLineEviction s
  | .streamElementFetch => Sys2Proof.Machine.execStreamElementFetch s
  | .streamElementDrain => Sys2Proof.Machine.execStreamElementDrain s
  | .copy => Sys2Proof.Machine.execCopy s
  | .fill => Sys2Proof.Machine.execFill s
  | .xcopy => Sys2Proof.Machine.execXcopy s
  | .gather => Sys2Proof.Machine.execGather s
  | .scatter => Sys2Proof.Machine.execScatter s
  | .quernOpen => Sys2Proof.Machine.execQuernOpen s
  | .quernEncode => Sys2Proof.Machine.execQuernEncode s
  | .quernStep => Sys2Proof.Machine.execQuernStep s
  | .quernMask => Sys2Proof.Machine.execQuernMask s
  | .quernReservedCommand => Sys2Proof.Machine.execQuernReservedCommand s
  | .allreduce => Sys2Proof.Machine.execAllreduce s
  | .allgather => Sys2Proof.Machine.execAllgather s
  | .reducescatter => Sys2Proof.Machine.execReducescatter s
  | .broadcast => Sys2Proof.Machine.execBroadcast s
  | .collBarrier => Sys2Proof.Machine.execCollBarrier s
  | .mailboxSend => Sys2Proof.Machine.execMailboxSend s
  | .mailboxRecv => Sys2Proof.Machine.execMailboxRecv s
  | .engineResultReturn => Sys2Proof.Machine.execEngineResultReturn s
  | .windrowRequestSend => Sys2Proof.Machine.execWindrowRequestSend s
  | .hloadComplete => Sys2Proof.Machine.execHloadComplete s
  | .harrowOperationBegin => Sys2Proof.Machine.execHarrowOperationBegin s
  | .operandsConsumed => Sys2Proof.Machine.execOperandsConsumed s
  | .accumulatorRowFinal => Sys2Proof.Machine.execAccumulatorRowFinal s
  | .operationDone => Sys2Proof.Machine.execOperationDone s
  | .drainRowWrite => Sys2Proof.Machine.execDrainRowWrite s
  | .drainWakeup => Sys2Proof.Machine.execDrainWakeup s
  | .headlandGrant => Sys2Proof.Machine.execHeadlandGrant s
  | .thermalThrottle => Sys2Proof.Machine.execThermalThrottle s
  | .thermalRecover => Sys2Proof.Machine.execThermalRecover s
  | .thermalTrip => Sys2Proof.Machine.execThermalTrip s
  | .moduleReset => Sys2Proof.Machine.execModuleReset s
  | .rotRelease => Sys2Proof.Machine.execRotRelease s
  | .measurementRegister4Write => Sys2Proof.Machine.execMeasurementRegister4Write s
  | .stileStart => Sys2Proof.Machine.execStileStart s
  | .svcWrite => Sys2Proof.Machine.execSvcWrite s
  | .pcapWrite => Sys2Proof.Machine.execPcapWrite s
  | .haltend => Sys2Proof.Machine.execHaltend s
  | .releaseHeld => Sys2Proof.Machine.execReleaseHeld s
  | .preemptWrite => Sys2Proof.Machine.execPreemptWrite s
  | .resumeWrite => Sys2Proof.Machine.execResumeWrite s
  | .fqheadWrite => Sys2Proof.Machine.execFqheadWrite s
  | .sqheadWrite => Sys2Proof.Machine.execSqheadWrite s
  | .krheadWrite => Sys2Proof.Machine.execKrheadWrite s
  | .submeshWrite => Sys2Proof.Machine.execSubmeshWrite s
  | .kvDescriptorWrite => Sys2Proof.Machine.execKvDescriptorWrite s
  | .tbindWrite => Sys2Proof.Machine.execTbindWrite s
  | .ownreqToHost => Sys2Proof.Machine.execOwnreqToHost s
  | .ownreqToDevice => Sys2Proof.Machine.execOwnreqToDevice s
  | .ownershipFlipComplete => Sys2Proof.Machine.execOwnershipFlipComplete s
  | .rekey => Sys2Proof.Machine.execRekey s
  | .dissolve => Sys2Proof.Machine.execDissolve s
  | .systemRegisterWrite => Sys2Proof.Machine.execSystemRegisterWrite s
  | .inPush => Sys2Proof.Machine.execInPush s
  | .inStatRead => Sys2Proof.Machine.execInStatRead s
  | .outAck => Sys2Proof.Machine.execOutAck s
  | .extfenceRead => Sys2Proof.Machine.execExtfenceRead s
  | .hostMemRead => Sys2Proof.Machine.execHostMemRead s
  | .hostMemWrite => Sys2Proof.Machine.execHostMemWrite s
  | .hostSnoop => Sys2Proof.Machine.execHostSnoop s
  | .fabricPacketReceive => Sys2Proof.Machine.execFabricPacketReceive s
  | .markReceive => Sys2Proof.Machine.execMarkReceive s
  | .rekeySwitch => Sys2Proof.Machine.execRekeySwitch s
  | .removeReceive => Sys2Proof.Machine.execRemoveReceive s
  | .enclaveCreate => Sys2Proof.Machine.execEnclaveCreate s
  | .enclaveEnd => Sys2Proof.Machine.execEnclaveEnd s
  | .clusterSwitch => Sys2Proof.Machine.execClusterSwitch s
  | .handoverSeal => Sys2Proof.Machine.execHandoverSeal s
  | .handoverSent => Sys2Proof.Machine.execHandoverSent s
  | .handoverConfirm => Sys2Proof.Machine.execHandoverConfirm s
  | .handoverFail => Sys2Proof.Machine.execHandoverFail s
  | .handoverAuthorise => Sys2Proof.Machine.execHandoverAuthorise s
  | .handoverRefuse => Sys2Proof.Machine.execHandoverRefuse s
  | .spdmGetVersion => Sys2Proof.Machine.execSpdmGetVersion s
  | .spdmGetCapabilities => Sys2Proof.Machine.execSpdmGetCapabilities s
  | .spdmNegotiateAlgorithms => Sys2Proof.Machine.execSpdmNegotiateAlgorithms s
  | .spdmGetDigests => Sys2Proof.Machine.execSpdmGetDigests s
  | .spdmGetCertificate => Sys2Proof.Machine.execSpdmGetCertificate s
  | .spdmChallenge => Sys2Proof.Machine.execSpdmChallenge s
  | .spdmGetMeasurements => Sys2Proof.Machine.execSpdmGetMeasurements s
  | .spdmKeyExchange => Sys2Proof.Machine.execSpdmKeyExchange s
  | .spdmFinish => Sys2Proof.Machine.execSpdmFinish s
  | .spdmKeyUpdate => Sys2Proof.Machine.execSpdmKeyUpdate s
  | .spdmHeartbeat => Sys2Proof.Machine.execSpdmHeartbeat s
  | .spdmEndSession => Sys2Proof.Machine.execSpdmEndSession s
  | .spdmUnsupportedRequest => Sys2Proof.Machine.execSpdmUnsupportedRequest s
  | .harrowEndCycle => Sys2Proof.Machine.execHarrowEndCycle s
  | .uncorrectableMemoryError => Sys2Proof.Machine.execUncorrectableMemoryError s
  | .hostLinkDown => Sys2Proof.Machine.execHostLinkDown s
  | .hostLinkUp => Sys2Proof.Machine.execHostLinkUp s
  | .hdmDecoderWrite => Sys2Proof.Machine.execHdmDecoderWrite s
  | .hostBarRegisterWrite => Sys2Proof.Machine.execHostBarRegisterWrite s

end Sys2Proof.Machine
end

