-- ==== Sys2Proof/Machine/Services.lean ====
section
/-! DEFINITION. The services of the Ovodex system image, each performed as one act of the slot in place of the first
fetch of its handler (log entry 10): the fault service (R313), the compaction service (R346, R347), the refused
atomic (R368), the resume request (R296), and the end of a firing (R403). -/

namespace Sys2Proof.Machine

/-- A cause that enters the handlers of the system image: one raised at user level, or a resume request (R403). -/
def State.served (s : State) (k : SlotId) (e : Entering) : Bool :=
  let c := s.ctx k
  c.image && !e.localHandler && c.level == .supervisor && (c.sx.ppl == 0 || e.cause == 0x00D)

/-! ### Resuming after a unit (R404) -/

/-- The trap registers with which a return resumes after the trapping unit. DPOS keeps its 4 bits. -/
def TrapRegs.after (r : TrapRegs) : TrapRegs :=
  if r.drill then { r with stat := BitVec.ofNat 22 (r.stat.toNat / 2 ^ 8 * 2 ^ 8 + (r.dpos + 1) % 2 ^ 4 * 2 ^ 4 + r.stat.toNat % 2 ^ 4) }
  else
    let n := (if r.cause.getLsbD 11 then 2 else 4) + (if r.cause.getLsbD 10 then 2 else 0)
    { r with pc := { r.pc with bits := withAddr r.pc.bits (addrOf r.pc.bits + n) } }

/-- The slot resumes after the unit that trapped, as by `xret` (R248): in a replay with the next unit, the next pass or after the block, also
where the block has 16 units. -/
def State.resumeAfter (s : State) (k : SlotId) : State :=
  ((s.modCtx k fun c => { c with sx := c.sx.after }.returnedTo .supervisor (c.sx.dpos + 1)).refreshDrill k).setBubble k

/-! ### LM as a service reaches it -/

/-- Bytes stored in this core's LM by the image: sheaves that hold them are squashed, or a solo one is waited for (R177,
R178). -/
def imageStore (off : Nat) (data : List Byte) : Act Unit := do
  let s ← get
  arriveAt (s.lm off) data.length
  modify fun s => s.poke (s.lm off) data false

/-- What the image reads and writes in memory: as the kernel's tenant, through its page tables. -/
def State.imageView (s : State) : View where
  level := .supervisor
  tenant := s.core.tenant
  root := s.root
  enabled := s.rootEnabled
  windows := s.core.pwin.toList
  engine := true

/-- The end of the allocation below its top 12 KiB. -/
def State.imageLimit (s : State) : Nat := s.allocation - 12288

/-! ### The fault service (R313) -/

/-- Pages of HBM, and of host memory. -/
def hbmPages : Nat := hbmTop / 2 ^ 12
def hostPages : Nat := 2 ^ 42

/-- A page frame among those that the host may name. -/
def grantedPpn (n : Nat) : Nat :=
  let m := n % (hbmPages + hostPages)
  if m < hbmPages then m else hostBase / 2 ^ 12 + (m - hbmPages)

/-- The level-0 entry that maps a frame for reads or for writes. -/
def grantedEntry (frame perms : Nat) (write : Bool) : Nat :=
  let p := perms % 8
  let p := if write then (if p / 2 % 2 = 1 then p else p + 2) else (if p % 2 = 1 then p else p + 1)
  grantedPpn frame * 2 ^ 12 + 2 ^ 5 + p * 2 ^ 2 + 3

/-- A page of zeros at a frame of HBM. -/
def State.clearFrame (s : State) (ppn : Nat) : State :=
  let s := s.modDie fun d => { d with copies := Table.clear d.copies (ppn * 128) (ppn * 128 + 128) }
  s.homeWrite 0#10 (ppn * 2 ^ 12) (List.replicate 4096 0#8) false 17

/-- A leaf entry above level 0 given the permissions that the image grants: it maps the page it mapped. -/
def widenedEntry (e perms : Nat) (write : Bool) : Nat := e / 2 ^ 6 * 2 ^ 6 + grantedEntry 0 perms write % 2 ^ 6

/-- The path from a table to the leaf entry of an address made whole, and that entry written: a new one at level 0, or one
at a higher level that lacked the permission. DEDUCED (log entry 10). -/
def mapPage (v : View) (va : Nat) (write : Bool) (base : Nat) : List Nat → Act Unit
  | [] => pure ()
  | level :: rest => do
    let pa := base * 2 ^ 12 + 8 * walkIndex va level
    let e := (← readEntry v pa).getD 0
    let s ← get
    let good := e % 2 = 1 && !s.pteMalformed v.tenant e level
    if good && pteLeaf e && ptePermits e (if write then .store else .load) .user then pure ()
    else if level = 0 then
      writeEntry v pa (grantedEntry (Config.grantedFrame s.fresh) (Config.grantedPerms s.fresh) write)
      modify State.tick
    else if good && pteLeaf e then
      writeEntry v pa (widenedEntry e (Config.grantedPerms s.fresh) write)
      modify State.tick
    else if good then mapPage v va write (ptePpn e) rest
    else
      let f := Config.tableFrame s.fresh % hbmPages
      arriveAt (f * 2 ^ 12) (2 ^ 12)
      v.askHost (f * 2 ^ 12) (2 ^ 12) true
      modify fun s => s.tick.clearFrame f
      writeEntry v pa (f * 2 ^ 12 + 1)
      mapPage v va write f rest

/-- A page made translatable where the host grants it: whether it did. -/
def grantPage (write : Bool) (va : Nat) : Act Bool := do
  let s ← get
  let grants := Config.hostGrants s.fresh
  modify State.tick
  if !grants || !s.rootEnabled || !inHbm s.root then pure false
  else
    mapPage s.imageView va write s.root [6, 5, 4, 3, 2, 1, 0]
    modify fun s => s.dropTranslations fun t => t.holds va
    pure true

def grantPages (write : Bool) : List Nat → Act Bool
  | [] => pure true
  | va :: t => do
    let a ← grantPage write va
    let b ← grantPages write t
    pure (a && b)

/-- The oldest record of this die for a slot of this core and a TAG: its place and its bits. -/
def State.findRecord (s : State) (k : SlotId) (tag : Nat) : Option (Nat × Nat) :=
  let d := s.dieNo
  let places := (upFrom 0 (s.ringCount d faultRing)).map fun i => (s.ringHead d faultRing + i) % 4096
  (places.map fun p => (p, s.readWords (sysAddr d 0 0 2 (64 * p)) 8)).find? fun r =>
    fld r.2 511 1 == 1 && fld r.2 82 4 == 1 && fld r.2 88 13 == s.core.id.toNat && fld r.2 86 2 == k.val && fld r.2 112 16 == tag

/-- V of a record cleared in its place. -/
def State.consumeRecord (s : State) (p : Nat) : State :=
  let a := sysAddr s.dieNo 0 0 2 (64 * p) + 56
  s.setSysReg a (BitVec.ofNat 64 ((s.sysReg a).toNat % 2 ^ 63))

/-- The pages of the missing sectors of a record, each once, in ascending order of the sectors. -/
def missingPages (r : Nat) : List Nat :=
  let pages := ((upFrom 0 64).filter fun i => fld r 384 64 / 2 ^ i % 2 = 1).map fun i =>
    (fld r 0 72 + 256 * i) % 2 ^ 72 / 2 ^ 12 * 2 ^ 12
  (pages.foldl (fun l p => if l.contains p then l else p :: l) []).reverse

/-- The fault service for slot `k`. -/
def faultService (k : SlotId) : Act Unit := do
  let s ← get
  let x := (s.ctx k).sx.val
  let o := bits x 0 18
  let limit := s.imageLimit
  let good := o % 64 = 0 && decide (o + 72 ≤ limit) && bits x 18 14 == 0 && bits x 48 80 == 0
  if !good then
    if o % 8 = 0 ∧ o + 72 ≤ limit then imageStore (o + 64) (leBytes 8 3)
  else
    awaitSolo
    match s.findRecord k (bits x 32 16) with
    | none => imageStore o (List.replicate 64 0#8 ++ leBytes 8 2)
    | some (p, r) =>
      modify fun s => s.consumeRecord p
      let all ← grantPages (fld r 448 2 == 1) (missingPages r)
      imageStore o (leBytes 64 r ++ leBytes 8 (if all then 0 else 1))

/-! ### The compaction service (R346, R347) -/

/-- The walks of the first `e` pages of a group: the address of each page's entries and the entry; none where one
fails. -/
def groupLeaves (v : View) : List Nat → Act (Option (List (Nat × Nat)))
  | [] => pure (some [])
  | va :: t => do
    match ← kvLeaf v va, ← groupLeaves v t with
    | .inr x, some l => pure (some (x :: l))
    | _, _ => pure none

def allLeaves (v : View) : List (List Nat) → Act (Option (List (List (Nat × Nat))))
  | [] => pure (some [])
  | g :: t => do
    match ← groupLeaves v g, ← allLeaves v t with
    | some x, some l => pure (some (x :: l))
    | _, _ => pure none

/-- The entries of every page of a group. -/
def readGroups (v : View) : List (Nat × Nat) → Act (List (List Nat))
  | [] => pure []
  | x :: t => do
    let e ← groupEntries v x.1 (upFrom 0 16)
    let l ← readGroups v t
    pure (e :: l)

/-- Pages of a group given new entries, page by page. -/
def writeGroups (v : View) : List (Nat × Nat) → List (List Nat) → Act Unit
  | x :: t, e :: l => do
    writeGroup v x.1 e
    writeGroups v t l
  | _, _ => pure ()

/-- One group compacted: page i takes the entries of page `src[i]`; the pages above are cleared. -/
def compactGroup (v : View) (src : List Nat) (pages : List (Nat × Nat)) : Act Unit := do
  let old ← readGroups v pages
  let new := (upFrom 0 pages.length).map fun i =>
    if i < src.length then old.getD (src.getD i 0) [] else (old.getD i []).map fun _ => 0
  writeGroups v pages new

def compactGroups (v : View) (src : List Nat) : List (List (Nat × Nat)) → Act Unit
  | [] => pure ()
  | g :: t => do
    compactGroup v src g
    compactGroups v src t

/-- The frames of a group's old pages that a property of their numbers picks. -/
def framesOf (p : Nat → Bool) (g : List (Nat × Nat)) : List Nat :=
  ((upFrom 0 g.length).filter p).map fun j => groupFrame (g.getD j (0, 0)).2

/-- Sheaves that have reached a frame through a translation that the compaction has changed are squashed: they issue again
through the new one. -/
def State.squashFrame (s : State) (f : Nat) : State := (s.arrive (f * 2 ^ 12) (2 ^ 16)).getD s

/-- Two of a list are equal. -/
def hasRepeat : List Nat → Bool
  | [] => false
  | a :: t => t.contains a || hasRepeat t

/-- SHIFT and FLOOR of a descriptor written. -/
def State.setShift (s : State) (i shift floor : Nat) : State :=
  let a := s.descAddr i
  let w4 := (s.sysReg (a + 32)).toNat
  let w5 := (s.sysReg (a + 40)).toNat
  (s.setSysReg (a + 32) (BitVec.ofNat 64 (shift % 2 ^ 32 * 2 ^ 32 + w4 % 2 ^ 32))).setSysReg (a + 40)
    (BitVec.ofNat 64 (w5 / 2 ^ 32 * 2 ^ 32 + floor % 2 ^ 32))

/-- What the compaction does for a sequence, kept slots and sources: its STATUS. -/
def compact (seq n count : Nat) (src : List Nat) : Act Nat := do
  let s ← get
  let y := s.seq (seq % 256)
  let d := s.kvDesc y.binding
  let e := y.kvlen - d.shift
  let pages := pagesFor e
  if 2048 ≤ seq ∨ seq / 256 ≠ s.dieNo ∨ !y.isOpen ∨ y.tenant ≠ s.core.tenant ∨ y.binding = 0 then pure 1
  else if count ≠ pagesFor n ∨ e < n ∨ (src.any fun x => pages ≤ x) ∨ hasRepeat src then pure 3
  else if 0 < y.depth then pure 2
  else
    let v := s.kvView y
    let vas := (upFrom 0 d.groups).map fun g => (upFrom 0 pages).map fun i => d.base + 65536 * (d.gstride * g + i)
    match ← allLeaves v vas with
    | none => pure 4
    | some l =>
      awaitSolo
      awaitPages vas.flatten
      compactGroups v src l
      modify fun s => s.dropTranslations fun t => vas.flatten.any fun va => t.inGroup va
      let moved := (l.map (framesOf fun j => src.getD j pages != j)).flatten
      let gone := (l.map (framesOf fun j => !src.contains j)).flatten
      modify fun s => moved.foldl State.squashFrame s
      modify fun s => gone.foldl (fun s f => ((s.squashFrame f).discardCopies f).releaseFrame f y.binding) s
      modify fun s => s.setShift y.binding (y.kvlen - n) y.kvlen
      pure 0

/-- The compaction service for slot `k`. -/
def compactionService (k : SlotId) : Act Unit := do
  let s ← get
  let x := (s.ctx k).sx.val
  let o := bits x 0 18
  let count := s.lmNat (o + 8) 4
  if bits x 18 110 ≠ 0 ∨ o % 16 ≠ 0 ∨ s.imageLimit < o + 16 ∨ s.imageLimit < o + 16 + 4 * count then pure ()
  else
    let src := (upFrom 0 count).map fun i => s.lmNat (o + 16 + 4 * i) 4
    arriveAt (s.lm (o + 12)) 4
    let status ← compact (s.lmNat o 4) (s.lmNat (o + 4) 4) count src
    imageStore (o + 12) (leBytes 4 status)

/-! ### The others -/

/-- Cause 0x384 (R368). -/
def State.refusedAtomic (s : State) (k : SlotId) : State :=
  (s.modCtx k fun c => { c with uxcause := c.sx.cause, uxval := c.sx.val2 }).resumeAfter k

/-- The handler of slot `k` waits. -/
def State.handlerWait (s : State) (k : SlotId) (w : Wait) : State := s.modCtx k fun c => { c with wait := some ⟨w, c.pc⟩ }

/-- The resume request (R296): the frame loaded, or the slot free again where it is refused. -/
def State.resumeService (s : State) (k : SlotId) : State :=
  let n := (s.ctx k).sx.val.toNat
  match s.frameRefused n, s.frame (n % 2 ^ 16) with
  | none, some f =>
    match s.loadWaits k f with
    | some w => s.handlerWait k w
    | none => s.loadFrame k n f (s.ctx k).pc
  | _, _ => s.freeSlot k

/-- A save that finds no frame: the image takes cause 0x00E at its own level, which the monitor answers by a return to the
image, and it tries again once a frame is free (R403). DEDUCED (log entry 10). -/
def State.saveRefused (s : State) (k : SlotId) (cause : Nat) : State :=
  let c := s.ctx k
  let t : TrapInfo := ⟨0x00E, 0#128, 1#128, false, false⟩
  if c.mx.intrap then s.enterHeld k 0x00E
  else (s.modCtx k fun c => { c with mx := (c.entered k t c.mx).leave }).handlerWait k (.frame cause)

/-- Every other cause ends the firing (R403): its context is saved, once it can leave. -/
def State.endService (s : State) (k : SlotId) (cause : Nat) : State :=
  if (s.ctx k).firing.isNone then s.freeSlot k
  else
    match s.undrainedPort k with
    | some p => s.handlerWait k (.drained p)
    | none =>
      if s.lacksEntry k then s.handlerWait k .forwarding
      else
        let c := s.contextOf k
        match s.saveContext k { c with ctx := { c.ctx with entering := none } } with
        | some (t, n) => t.record (savedRecord t.core.id k cause n)
        | none => s.saveRefused k cause

/-- An act of the image for slot `k`, which waits in the handler where the act has to. -/
def State.serveBy (s : State) (k : SlotId) (act : Act Unit) : State :=
  match act s with
  | .ok _ t => t.resumeAfter k
  | .error (.wait w) t => (s.keep t).handlerWait k w
  | .error _ t => (s.keep t).resumeAfter k

/-- The system image serves the cause that slot `k` enters its handler with. DEDUCED (log entry 10). -/
def State.serve (s : State) (k : SlotId) (e : Entering) : State :=
  let s := s.modCtx k fun c => { c with wait := none }
  match e.cause with
  | 0x040 => s.serveBy k (faultService k)
  | 0x041 => s.serveBy k (compactionService k)
  | 0x384 => s.refusedAtomic k
  | 0x00D => s.resumeService k
  | c => s.endService k c

end Sys2Proof.Machine
end

