-- ==== Sys2Proof/Machine/Waits.lean ====
section
/-! DEFINITION. When a slot's wait is over (R222). -/

namespace Sys2Proof.Machine

/-- The condition that slot `k` waits for holds. A slot whose wait is over issues its instruction again, which
completes, or stalls anew on what else it needs. -/
def State.waitOver (s : State) (k : SlotId) : Wait → Bool
  | .drillBuffer => s.core.drillOwner.isNone || s.core.drillOwner == some k
  | .ringEntry => s.ringFree
  | .netPlace => !s.netFull
  | .landing loc n => !s.windowFlies loc n
  | .element p => (s.port p).bound.isNone || (s.port p).fetched != []
  | .place p =>
    match (s.port p).bound with
    | some (.pattern _) => decide ((s.port p).undrained < 8)
    | some (.channel h) => decide (0 < (s.handle h).avail ∧ (s.port p).undrained < 8)
    | none => true
  | .freed p => !s.freedElsewhere k p
  | .drained p => decide ((s.port p).undrained = 0)
  | .filled h n | .vacant h n => decide (n ≤ (s.handle h).avail)
  | .result f => ((s.slot k).engine f).output != []
  | .input f => decide (((s.slot k).engine f).input.length < 8)
  | .barrier n phase => decide (phase < (s.core.barriers.get n).phase)
  | .spawn answer => answer.isSome
  | .leave _ => (s.slot k).grant.isSome || !s.asking k
  | .planeLoad => s.loadTurn k
  | .discard => !s.swapStands k
  | .planeSwap => s.swapTurn
  | .operation n => s.goTurn k n
  | .consumed n => (s.opSlot n).oc
  | .done n => (s.opSlot n).done
  | .drainPlace => s.drainRoom
  | .row r => s.rowTurn r.val
  | .quern n => !s.quernPending n.val
  | .idle _ done => done
  | .forwarding => !s.lacksEntry k
  | .handoff => s.core.handoff.isNone
  | .flip => s.module.flip.isNone
  | .rekey => !s.module.barrier
  | .walks f va => !s.walksPending f va
  | .frame _ => s.makeRoom.isSome
  | .solo => !(slotIds.any fun j => j != k && (s.slot j).sheaf.solo)
  | .vectorUnit special =>
    match s.unitHold special with
    | some h => h.slot == k
    | none => true
  | .placing => !(s.core.unplaced.any fun u => u.slot == some k)
  | .peerStores => !(s.module.inFlight.any fun x => x.slot == k)

end Sys2Proof.Machine
end

