-- ==== Sys2Proof/Machine/Issue.lean ====
section
/-! DEFINITION. Issue: the clock, the choice of a slot (R222), the fetch of a unit (R61, R64, R113) and its performance;
and the events that are due. -/

namespace Sys2Proof.Machine

/-! ### The clock -/

/-- The core holds a firing of a gang kernel (R233). -/
def State.gangFiring (s : State) : Bool :=
  s.core.kernel.isSome && !s.isServer s.core.id && slotIds.any fun k => (s.slot k).ctx.firing.isSome

/-- One cycle of the watchdog (R233). -/
def State.clockWatchdog (s : State) : State :=
  let w := s.core.wdg
  if w.en && !w.paused && s.gangFiring then
    if w.limit ≠ 0#32 ∧ w.count + 1 ≥ w.limit.toNat then
      (s.modCore fun c => { c with wdg := { w with count := 0 } }).schedule .watchdogExpiry
    else s.modCore fun c => { c with wdg := { w with count := w.count + 1 } }
  else s

/-- One cycle of an `idle` (R285). -/
def State.clockIdle (s : State) (k : SlotId) : State :=
  match (s.ctx k).wait with
  | some ⟨.idle (some (n + 1)) done, pc⟩ =>
    let s := s.modCtx k fun c => { c with wait := some ⟨.idle (some n) done, pc⟩ }
    if n = 0 then s.scheduleOnce .idleEnd (.slot k) else s
  | _ => s

/-- The clocks of the module run (R369, R388). DEDUCED (log entry 37). -/
def State.powered (s : State) : Bool := s.module.phase == .started || s.module.phase == .released

/-- The core's clock runs (R26). DEDUCED (log entry 37). -/
def State.clocked (s : State) : Bool := s.core.mode != .held && s.powered

/-- One cycle of the die: the cluster's yoke makes a move every 4,096 cycles while it is enabled (R231). DESIGN CHOICE (log
entry 61). -/
def State.clockDie (s : State) : State :=
  let s := s.modDie fun d => { d with clock := d.clock + 1 }
  if s.die.clock % 4096 = 0 ∧ s.yokeReg 0 % 2 = 1 then s.scheduleOnce .yokeMove else s

/-- One cycle of the die, while its clock runs, and of the core (R26). -/
def State.clock (s : State) : State :=
  let s := if s.powered then s.clockDie else s
  if s.clocked then slotIds.foldl State.clockIdle (s.modCore fun c => { c with cyc := c.cyc + 1#64 }).clockWatchdog else s

/-! ### The choice of a slot (R222) -/

/-- Slot `k` may issue as the core stands: it is running; while a `halt` waits for the open sheaves to commit, a slot issues
only in a whole-run instruction, so that none opens another (R286, R191). DEDUCED (log entry 36). -/
def State.mayIssue (s : State) (k : SlotId) : Bool := s.core.mode == .running || (s.core.mode == .halting && (s.ctx k).midRun)

/-- The slots of the core may issue: not before the module is started (R388), not halted and not held. -/
def State.issues (s : State) : Bool :=
  (s.core.mode == .running || slotIds.any s.mayIssue) &&
  (s.module.phase == .started || (s.module.phase == .released && s.core.id == 0#13))

/-- The drill buffer that the slot's replay needs is its own or free (R113). -/
def State.drillFree (s : State) (k : SlotId) : Bool :=
  !(s.ctx k).replaying || s.core.drillOwner == none || s.core.drillOwner == some k

/-- A slot is ready (R222), as far as its wait and its bubble say; one whose next instruction would stall is found out when
it is tried. -/
def State.ready (s : State) (k : SlotId) : Bool :=
  let x := s.slot k
  s.mayIssue k && !x.isFree && !x.starting && !x.bubble && (x.ctx.again.isNone || x.grant.isSome || !s.asking k) && (x.sheaf.squashes < 2 || x.sheaf.solo) && s.drillFree k &&
  (match x.ctx.wait with
    | some w => s.waitOver k w.wait
    | none => true)

/-- The slots that are ready. -/
def State.readySlots (s : State) : List SlotId := slotIds.filter s.ready

/-- The bubbles of this cycle are over (R248). -/
def State.endBubbles (s : State) : State := slotIds.foldl (fun s k => s.modSlot k fun x => { x with bubble := false }) s

/-- Ready slots other than `k` wait one cycle more. -/
def State.accrue (s : State) (r : List SlotId) (k : SlotId) : State :=
  r.foldl (fun s j => if j = k then s else s.modSlot j fun x => { x with waited := x.waited + 1 }) s

/-- A slot becomes the one that issues. -/
def State.turnTo (s : State) (k : SlotId) : State :=
  (s.modSlot k fun x => { x with waited := 0 }).modCore fun c => { c with cur := k, last := k, yielded := false, stalled := false }

/-- A slot tried from `s` has stalled in `t`: nothing has issued (R222). -/
def State.unissued (s t : State) (k : SlotId) : State :=
  (t.modSlot k fun x => { x with waited := (s.slot k).waited }).modCore fun c =>
    { c with cur := s.core.cur, last := s.core.last, yielded := s.core.yielded }

/-! ### The unit (R64, R113) -/

/-- A guard among the instructions. -/
def isGuard : Instr → Bool
  | .whenSet _ _ | .unlessSet _ _ => true
  | _ => false

def isDrill : Instr → Bool
  | .drill _ _ _ => true
  | _ => false

/-- The word of an instruction. -/
def wordOf (i : Instr) : BitVec 32 := BitVec.ofNat 32 ((encode i).getD 0)

/-- What follows a guard: another guard, or a `drill`, is no instruction there (R65). -/
def guarded (i : Instr) : Instr :=
  if isGuard i then .illegalInstruction (wordOf i) true
  else if isDrill i then .illegalInstruction (wordOf i) false
  else i

/-- Fetch the unit at the program counter. An odd address that a return or a restored context brings is found here. DESIGN
CHOICE (log entry 48). A guard and its instruction are fetched before the guard is evaluated, so that a fault of either fetch
comes before the guard's own 0x004 or 0x005. DESIGN CHOICE (log entry 65). -/
def fetchUnit (v : View) (code : Reg) : Act DrillUnit := do
  let pc := addrOf code.bits
  trapIf (pc % 2 == 1) 0x001 (q pc)
  let (i, n) ← fetchAt v code pc
  if isGuard i then
    modMyCtx fun c => { c with guarded := some ⟨0#16, true, 4⟩ }
    let (j, m) ← fetchAt v code ((pc + 2) % 2 ^ 72)
    pure ⟨some i, guarded j, m⟩
  else pure ⟨none, i, n⟩

/-- Keep the unit in the drill buffer during pass 0 (R113). -/
def State.capture (s : State) (k : SlotId) (u : DrillUnit) : State :=
  s.modCtx k fun c =>
    match c.drill with
    | some d => if d.live && d.units.length == d.pos then { c with drill := some { d with units := d.units ++ [u] } } else c
    | none => c

/-- The unit that the slot issues next from its drill buffer, staggered for its pass; none where it is to be fetched. -/
def Ctx.buffered (c : Ctx) : Option DrillUnit :=
  match c.drill with
  | some d => if d.live then d.units[d.pos]? else none
  | none => none

/-- A unit with its register fields staggered for the pass (R112, R65). -/
def Ctx.staggered (c : Ctx) (u : DrillUnit) : DrillUnit :=
  match c.drill with
  | some d =>
    if d.live then
      let f := stagger (d.pass * d.stride % 16)
      { u with guarded := u.guarded.map (Instr.mapRegs f), instr := Instr.mapRegs f u.instr }
    else u
  | none => u

/-- A fault of a fetch: at the first fetch of a handler it goes where R280 sends it. DEDUCED (log entry 17). -/
def State.fetchStopped (s t : State) (k : SlotId) : Stop → State
  | .trap cause val val2 =>
    match (s.ctx k).entering with
    | some e => (s.keep t).handlerFetchFault k e
    | none => ((s.keep t).modCtx k fun c => { c with guarded := (t.ctx k).guarded }).raise k 4 cause val val2
  | e => s.stopped t k 4 e

/-- A suppressed unit: the slot goes on past it with no other effect, and it counts toward a sheaf (R64, R174). -/
def State.skip (s : State) (k : SlotId) (len : Nat) : State := ((s.endFull k).openSheaf k).advance k len .seq

/-- Perform a unit on the slot that issues. -/
def State.issueUnit (s : State) (k : SlotId) (u : DrillUnit) : Host.Outcome State Fault Refusal :=
  match u.guarded with
  | none => exec u.instr s
  | some g =>
    let running := (s.ctx k).run.isSome
    match exec g (s.modCtx k fun c => { c with guarded := some ⟨0#16, false, u.bytes⟩ }) with
    | .next t =>
      match (t.ctx k).guarded with
      | none => .next t
      | some w =>
        let illegal := match u.instr with
          | .illegalInstruction _ _ => true
          | _ => false
        if w.holds || running || illegal then exec u.instr t else .next (t.skip k u.bytes)
    | o => o

/-- Issue the unit at the program counter of slot `k`: from its drill buffer, or fetched. -/
def State.issueNext (s : State) (k : SlotId) : Host.Outcome State Fault Refusal :=
  let c := s.ctx k
  match c.buffered with
  | some u => s.issueUnit k (c.staggered u)
  | none =>
    match fetchUnit s.view c.code s with
    | .ok u t =>
      let t := (t.modCtx k fun c => { c with entering := none, guarded := none }).capture k u
      t.issueUnit k ((t.ctx k).staggered u)
    | .error e t => .next (s.fetchStopped t k e)

/-- The cause that slot `k` enters a handler of the system image with. -/
def State.serving (s : State) (k : SlotId) : Option Entering := (s.ctx k).entering.filter (s.served k)

/-- Issue one unit from slot `k`, or let the system image serve the cause that it has taken. -/
def State.issueFrom (s : State) (k : SlotId) : Host.Outcome State Fault Refusal :=
  match s.serving k with
  | some e => .next (s.serve k e)
  | none => (s.takeDrill k).issueNext k

/-- Slot `k` tried: it issues, or it stalls and nothing has issued. -/
def State.attempt (s : State) (k : SlotId) : Host.Outcome State Fault Refusal :=
  match (s.turnTo k).issueFrom k with
  | .next t => .next (if t.core.stalled then s.unissued t k else t)
  | o => o

/-- The state in which slot `k` stands in its wait, where its next instruction stalls. -/
def State.stallOf (s : State) (k : SlotId) : Option State :=
  match (s.turnTo k).issueFrom k with
  | .next t => if t.core.stalled then some (s.unissued t k) else none
  | _ => none

/-- The slots of a list whose next instruction does not stall; the others wait from now on (R222). -/
def State.settleStalls (s : State) : List SlotId → State × List SlotId
  | [] => (s, [])
  | k :: rest =>
    match s.stallOf k with
    | some t => t.settleStalls rest
    | none =>
      let (t, l) := s.settleStalls rest
      (t, k :: l)

/-- The ready slots of a cycle, with the bubbles over: where several may issue, those that would stall are none of them. -/
def State.candidates (s : State) : State × List SlotId :=
  let r := s.readySlots
  if r.length ≤ 1 then (s.endBubbles, r) else s.endBubbles.settleStalls r

/-- A slot to which an asynchronous cause can be delivered now (R281). -/
def State.interrupted (s : State) : Option SlotId := slotIds.find? s.deliverable

/-- One turn of the core: a cycle passes, and a slot takes an asynchronous cause or issues a unit, if one can. DESIGN
CHOICE (log entry 8). -/
def State.turn (s : State) : Host.Outcome State Fault Refusal :=
  let s := s.clock
  if s.issues = false then .next s
  else
    let (s, r) := s.candidates
    match s.interrupted with
    | some k => exec .asyncCauseDelivery { s.accrue r k with event := .slot k }
    | none =>
      match s.pick r with
      | some k => (s.accrue r k).attempt k
      | none => .next s

/-! ### An instruction placed to be run next (log entry 11) -/

/-- The capability to the whole of the core's own LM, EXECUTE and LOAD, at an offset. -/
def lmCode (off : Nat) : Reg :=
  let base := 0xD * 2 ^ 68
  let c := makeCap (Perm.mask [.execute, .load]) base (base + 2 ^ 18)
  { c with bits := withAddr c.bits (base + off) }

/-- The offset at which an instruction is placed. -/
def placedAt : Nat := 0x100

/-- A slot that stands at the placed instruction, with a firing, and nothing else that would keep it from issuing. -/
def Slot.placed (x : Slot) (waited : Nat) : Slot :=
  { x with
    ctx :=
      { x.ctx with
        code := lmCode placedAt, firing := some ⟨0#128, false, none, 0, false⟩, drill := none, run := none, guarded := none
        wait := none, again := none, entering := none }
    sheaf := Sheaf.empty, starting := false, bubble := false, waited := waited }

/-- The largest count of waiting cycles among the slots. -/
def State.mostWaited (s : State) : Nat := slotIds.foldl (fun n k => Nat.max n (s.slot k).waited) 0

/-- The state with the bytes of an instruction where slot 0 fetches next: a running core of a started module, no
asynchronous cause pending, the core's turn. DESIGN CHOICE (log entry 11). -/
def State.placeInstr (s : State) (data : List Byte) : State :=
  let s := slotIds.foldl (fun s k => s.modSlot k fun x => { x with preempt := false, resume := false, watchdog := false }) s
  let s := s.modSlot 0 fun x => x.placed (s.mostWaited + 61)
  let s := s.poke (s.lm placedAt) data false
  { s with
    core := { s.core with mode := .running }, module := { s.module with phase := .started }, eventTurn := false
    bad := Table.set false s.bad (s.lm placedAt / 256) false }

/-- Perform the oldest event that is due. -/
def State.happenNext (s : State) (d : Due) (rest : List Due) : Host.Outcome State Fault Refusal :=
  exec d.what { s with agenda := rest, event := d.detail, eventTurn := false }

/-- Events that are due and turns of the core alternate. DESIGN CHOICE (log entry 1). -/
def State.proceed (s : State) : Host.Outcome State Fault Refusal :=
  match s.eventTurn, s.agenda with
  | true, d :: rest => s.happenNext d rest
  | _, _ => { s with eventTurn := true }.turn

end Sys2Proof.Machine
end

