-- ==== Sys2Proof/Machine/Step.lean ====
section
/-! DEFINITION. One step of the machine: an event that is due, or a turn of the core. -/

namespace Sys2Proof.Machine

/-- One step. -/
def step (s : State) : Host.Outcome State Fault Refusal := s.proceed

/-- The state with an instruction word stored where the next step fetches. -/
def State.withFetchWord (s : State) (nbits w : Nat) : State := s.placeInstr (leBytes 8 (w % 2 ^ nbits))

end Sys2Proof.Machine
end

