-- ==== Sys2Proof/Safety.lean ====
section
/-! DEFINITION. What counts as a safe run: one in which no step ends in a fault or a refusal. -/

namespace Sys2Proof.Machine

/-- A step that answers a next state. -/
def Steps (s t : State) : Prop := step s = .next t

/-- The states that a run from `s` reaches. -/
inductive Reaches : State → State → Prop where
  | here (s : State) : Reaches s s
  | there (s t u : State) : Steps s t → Reaches t u → Reaches s u

/-- Every step of a run from `s` answers a next state. -/
def SafeFrom (s : State) : Prop := ∀ t, Reaches s t → ∃ u, Steps t u

end Sys2Proof.Machine
end

