-- ==== Sys2Proof/Certificates/Slice0/Obligations.lean ====
section
/-! DEFINITION. The statements for the provers: first, in the namespace Says, what the rules of the spec say of each
instruction, event and operation, in the names of this model; then the obligations, each a rule or a few of them. -/

namespace Sys2Proof.Says

open Sys2Proof.Machine

/-! ### What statements are made of -/

/-- The issuing slot's sheaf has room for one more instruction (R174: a sheaf of 256 ends first). -/
abbrev Room (s : State) : Prop := (s.slot s.cur).sheaf.count < 256

/-- None of the registers is bound to a stream port (R53). -/
abbrev Unbound (s : State) (rs : List RegIdx) : Prop := ∀ r ∈ rs, s.streamed r = false

/-- The state after an instruction of `len` bytes whose one effect is `f` on the registers of the issuing slot, and which
goes on to the next unit: everything else of the machine is as before but that the slot's sheaf is open and counts it. -/
def ran (s : State) (len : Nat) (f : Ctx → Ctx) : State :=
  ((s.openSheaf s.cur).modCtx s.cur f).advance s.cur len .seq

/-- The registers of the issuing slot. -/
def here (s : State) : Ctx := s.ctx s.cur

/-- What an instruction that writes one register does (R91): its length, the registers it uses, the value that it writes to
d, and the flags that it sets. -/
structure Result where
  len   : Nat
  uses  : List RegIdx
  d     : RegIdx
  value : Reg
  flags : Flags := 0#6

/-- The registers with a result in them. -/
def Result.put (r : Result) (c : Ctx) : Ctx := (c.raiseFlags r.flags).setReg r.d r.value

/-- The instruction completes with a result where it gives one. -/
def Completes (table : Ctx → Instr → Option Result) : Prop :=
  ∀ (s : State) (i : Instr) (r : Result), Room s → table (here s) i = some r → Unbound s r.uses →
    exec i s = .next (ran s r.len r.put)

/-- The state after an instruction that changes the machine by `f` and then goes on at `g`. -/
def did (s : State) (len : Nat) (f : State → State) (g : Go := .seq) : State := (f (s.openSheaf s.cur)).advance s.cur len g

/-- The state after an instruction that traps: cause, `xval`, `xval2` (R279 says what is saved and where the slot goes). -/
def trapped (s : State) (len cause : Nat) (val val2 : Q) : State := s.raise s.cur len cause val val2

/-! ### Scalar results (R95 to R102) -/

/-- A signed integer saturated to 64 bits (R95, modifier 1). -/
def sat (len : Nat) (uses : List RegIdx) (d : RegIdx) (v : Int) : Result :=
  if v > 2 ^ 63 - 1 then ⟨len, uses, d, Reg.data (wr64 (2 ^ 63 - 1)), Flags.sat⟩
  else if v < -(2 ^ 63) then ⟨len, uses, d, Reg.data (wr64 (-(2 ^ 63))), Flags.sat⟩
  else ⟨len, uses, d, Reg.data (wr64 v), 0#6⟩

/-- An unsigned result saturated to 64 bits (R95, modifier 2). -/
def satn (len : Nat) (uses : List RegIdx) (d : RegIdx) (v : Int) : Result :=
  if v > 2 ^ 64 - 1 then ⟨len, uses, d, Reg.data (wr64 (2 ^ 64 - 1)), Flags.sat⟩
  else if v < 0 then ⟨len, uses, d, Reg.data (wr64 0), Flags.sat⟩
  else ⟨len, uses, d, Reg.data (wr64 v), 0#6⟩

/-- A result modulo 2^64. -/
def mod64 (len : Nat) (uses : List RegIdx) (d : RegIdx) (v : Int) : Result := ⟨len, uses, d, Reg.data (wr64 v), 0#6⟩

/-- The three modifiers of `add`, `sub` and `mul`. -/
def byMode (m : SatMode) (uses : List RegIdx) (d : RegIdx) (sv uv : Int) : Result :=
  match m with
  | .wrap => mod64 4 uses d sv
  | .signed => sat 4 uses d sv
  | .unsigned => satn 4 uses d uv

/-- R95 and R100: the arithmetic instructions but the divisions, with their 16-bit and immediate forms. -/
def arithmetic (c : Ctx) (i : Instr) : Option Result :=
  let sx (r : RegIdx) : Int := s64 (c.reg r).bits
  let ux (r : RegIdx) : Int := n64 (c.reg r).bits
  match i with
  | .add d a b m => some (byMode m [d, a, b] d (sx a + sx b) (ux a + ux b))
  | .sub d a b m => some (byMode m [d, a, b] d (sx a - sx b) (ux a - ux b))
  | .mul d a b m => some (byMode m [d, a, b] d (sx a * sx b) (ux a * ux b))
  | .neg d a .wrap => some (mod64 4 [d, a] d (-sx a))
  | .neg d a .signed => some (sat 4 [d, a] d (-sx a))
  | .abs d a .wrap => some (mod64 4 [d, a] d (if sx a < 0 then -sx a else sx a))
  | .abs d a .signed => some (sat 4 [d, a] d (if sx a < 0 then -sx a else sx a))
  | .mulh d a b => some (mod64 4 [d, a, b] d (sx a * sx b / 2 ^ 64))
  | .mulhn d a b => some (mod64 4 [d, a, b] d (ux a * ux b / 2 ^ 64))
  | .min d a b => some (mod64 4 [d, a, b] d (if sx a < sx b then sx a else sx b))
  | .max d a b => some (mod64 4 [d, a, b] d (if sx a > sx b then sx a else sx b))
  | .minn d a b => some (mod64 4 [d, a, b] d (if ux a < ux b then ux a else ux b))
  | .maxn d a b => some (mod64 4 [d, a, b] d (if ux a > ux b then ux a else ux b))
  | .addi d a imm => some (mod64 4 [d, a] d (sx a + imm.toInt))
  | .add16 d b => some (mod64 2 [d, b] d (sx d + sx b))
  | .sub16 d b => some (mod64 2 [d, b] d (sx d - sx b))
  | .addi16 d imm => some (mod64 2 [d] d (sx d + imm.toInt))
  | .movi d imm => some (mod64 4 [d] d imm.toInt)
  | .movi16 d imm => some (mod64 2 [d] d imm.toInt)
  | .movhi d imm => some (mod64 4 [d] d (ux d * 2 ^ 20 + imm.toNat))
  | _ => none

/-- R96: the divisions on a divisor other than 0. -/
def division (c : Ctx) (i : Instr) : Option Result :=
  let sx (r : RegIdx) : Int := s64 (c.reg r).bits
  let ux (r : RegIdx) : Int := n64 (c.reg r).bits
  let by_ (d a b : RegIdx) (v : Int) : Option Result := if ux b = 0 then none else some (mod64 4 [d, a, b] d v)
  match i with
  | .div d a b => by_ d a b ((sx a).tdiv (sx b))
  | .divn d a b => by_ d a b (ux a / ux b)
  | .rem d a b => by_ d a b (sx a - sx b * (sx a).tdiv (sx b))
  | .remn d a b => by_ d a b (ux a % ux b)
  | _ => none

/-- A 64-bit result written by wr64. -/
def out64 (len : Nat) (uses : List RegIdx) (d : RegIdx) (v : D) : Result := ⟨len, uses, d, Reg.data (wrD v), 0#6⟩

/-- The bit that an index names, none at or above 64. -/
def bitAt (n : Nat) : D := BitVec.ofNat 64 (2 ^ n)

/-- Shifts: 0 from 64 on. -/
def shl (x : D) (n : Nat) : D := if n < 64 then x <<< n else 0#64
def shr (x : D) (n : Nat) : D := if n < 64 then x >>> n else 0#64

/-- R97 and R100: logic and shifts, with their 16-bit and immediate forms. -/
def logic (c : Ctx) (i : Instr) : Option Result :=
  let x (r : RegIdx) : D := d64 (c.reg r).bits
  let sh (r : RegIdx) : Nat := n64 (c.reg r).bits
  let y (imm : BitVec 15) : D := imm.signExtend 64
  match i with
  | .and d a b => some (out64 4 [d, a, b] d (x a &&& x b))
  | .or d a b => some (out64 4 [d, a, b] d (x a ||| x b))
  | .xor d a b => some (out64 4 [d, a, b] d (x a ^^^ x b))
  | .not d a => some (out64 4 [d, a] d (~~~x a))
  | .shl d a b => some (out64 4 [d, a, b] d (shl (x a) (sh b)))
  | .shr d a b => some (out64 4 [d, a, b] d (shr (x a) (sh b)))
  | .sar d a b => some (out64 4 [d, a, b] d ((x a).sshiftRight (Nat.min (sh b) 63)))
  | .rotl d a b => some (out64 4 [d, a, b] d ((x a).rotateLeft (sh b % 64)))
  | .bset d a b => some (out64 4 [d, a, b] d (if sh b < 64 then x a ||| bitAt (sh b) else x a))
  | .bclr d a b => some (out64 4 [d, a, b] d (if sh b < 64 then x a &&& ~~~bitAt (sh b) else x a))
  | .bflip d a b => some (out64 4 [d, a, b] d (if sh b < 64 then x a ^^^ bitAt (sh b) else x a))
  | .andi d a imm => some (out64 4 [d, a] d (x a &&& y imm))
  | .ori d a imm => some (out64 4 [d, a] d (x a ||| y imm))
  | .xori d a imm => some (out64 4 [d, a] d (x a ^^^ y imm))
  | .shli d a imm => some (out64 4 [d, a] d (shl (x a) (y imm).toNat))
  | .shri d a imm => some (out64 4 [d, a] d (shr (x a) (y imm).toNat))
  | .sari d a imm => some (out64 4 [d, a] d ((x a).sshiftRight (Nat.min (y imm).toNat 63)))
  | .and16 d b => some (out64 2 [d, b] d (x d &&& x b))
  | .or16 d b => some (out64 2 [d, b] d (x d ||| x b))
  | .xor16 d b => some (out64 2 [d, b] d (x d ^^^ x b))
  | .shl16 d b => some (out64 2 [d, b] d (shl (x d) (sh b)))
  | .shr16 d b => some (out64 2 [d, b] d (shr (x d) (sh b)))
  | _ => none

/-- The number of bits, from the first place of a list on, before the first that is 1. -/
def zerosBefore (x : D) (places : List Nat) : Int := (places.takeWhile fun i => !x.getLsbD i).length

/-- The bits that the field of y names in a doubleword (R98): those of `ins` there, of `old` elsewhere. -/
def inserted (pos len : Nat) (ins old : D) : D :=
  BitVec.ofFnLE fun i : Fin 64 => if pos ≤ i.val ∧ i.val < pos + len then ins.getLsbD (i.val - pos) else old.getLsbD i.val

/-- R97 and R98: counts, reversal, fields, extensions; R101: compares. -/
def bitwork (c : Ctx) (i : Instr) : Option Result :=
  let x (r : RegIdx) : D := d64 (c.reg r).bits
  let pos (r : RegIdx) : Nat := bits (c.reg r).bits 0 7
  let len (r : RegIdx) : Nat := Nat.min (bits (c.reg r).bits 8 7) 64
  match i with
  | .clz d a => some (mod64 4 [d, a] d (zerosBefore (x a) (List.range 64).reverse))
  | .ctz d a => some (mod64 4 [d, a] d (zerosBefore (x a) (List.range 64)))
  | .popc d a => some (mod64 4 [d, a] d ((List.range 64).filter (x a).getLsbD).length)
  | .brev d a => some (out64 4 [d, a] d (BitVec.ofFnLE fun i : Fin 64 => (x a).getLsbD (63 - i.val)))
  | .bext d a b => some (out64 4 [d, a, b] d
      (BitVec.ofFnLE fun i : Fin 64 => decide (i.val < len b) && (x a).getLsbD (pos b + i.val)))
  | .bins d a b => some (out64 4 [d, a, b] d (inserted (pos b) (len b) (x a) (x d)))
  | .sext d a .b => some (out64 4 [d, a] d (((x a).setWidth 8).signExtend 64))
  | .sext d a .h => some (out64 4 [d, a] d (((x a).setWidth 16).signExtend 64))
  | .sext d a .w => some (out64 4 [d, a] d (((x a).setWidth 32).signExtend 64))
  | .zext d a .b => some (out64 4 [d, a] d (((x a).setWidth 8).setWidth 64))
  | .zext d a .h => some (out64 4 [d, a] d (((x a).setWidth 16).setWidth 64))
  | .zext d a .w => some (out64 4 [d, a] d (((x a).setWidth 32).setWidth 64))
  | _ => none

/-- The relations of Table 7.5, bit 0 first: EQ, NE, LT, GE, LE, GT and the unsigned LTN, GEN, LEN, GTN. -/
def relationBits (x y : D) : Result → Result := fun r =>
  { r with value := Reg.data (BitVec.ofNat 128 (ofBits [decide (x = y), decide (x ≠ y), x.slt y, y.sle x, x.sle y, y.slt x,
    x.ult y, y.ule x, x.ule y, y.ult x])) }
where
  /-- The number whose bits, lowest first, are listed. -/
  ofBits : List Bool → Nat
    | [] => 0
    | b :: t => b.toNat + 2 * ofBits t

/-- R99, R101, R102: moves, compares and predicates. -/
def moves (c : Ctx) (i : Instr) : Option Result :=
  let whole (r : RegIdx) : Q := (c.reg r).bits
  match i with
  | .mov d a => some ⟨4, [d, a], d, c.reg a, 0#6⟩
  | .mov16 d b => some ⟨2, [d, b], d, c.reg b, 0#6⟩
  | .cmp d a b => some (relationBits (d64 (whole a)) (d64 (whole b)) ⟨4, [d, a, b], d, Reg.null, 0#6⟩)
  | .cmpi d a imm => some (relationBits (d64 (whole a)) (imm.signExtend 64) ⟨4, [d, a], d, Reg.null, 0#6⟩)
  | .pand d a b => some ⟨4, [d, a, b], d, Reg.data (whole a &&& whole b), 0#6⟩
  | .por d a b => some ⟨4, [d, a, b], d, Reg.data (whole a ||| whole b), 0#6⟩
  | .pxor d a b => some ⟨4, [d, a, b], d, Reg.data (whole a ^^^ whole b), 0#6⟩
  | _ => none

/-- R95, R100: every integer instruction but the divisions completes with the value and the flags of the rule. -/
def ArithmeticResults : Prop := Completes arithmetic

/-- R96: a division by another value than 0 completes with its quotient or remainder and sets no flag. -/
def DivisionResults : Prop := Completes division

/-- R97, R100: logic and shifts complete with the result of Table 7.3. -/
def LogicAndShiftResults : Prop := Completes logic

/-- R97, R98: counts, reversal, bit fields and extensions complete with the result of Table 7.3 and R98. -/
def BitFieldResults : Prop := Completes bitwork

/-- R99, R101, R102: moves carry 128 bits and the tag; compares write their relation bits; predicates write 128 bits. -/
def MoveAndCompareResults : Prop := Completes moves

/-! ### Transfers, hints, guards, the drill (R105 to R113, R63, R64, R72) -/

/-- The address of the instruction being issued, past its guard where it has one (R64, R106). -/
def ownAddr (c : Ctx) : Int := c.pc + if c.guarded.isSome then 2 else 0

/-- Two bytes at `t` lie inside the bounds of a capability (R107). -/
abbrev target (c : Q) (t : Int) : Prop := (capBounds c).1 ≤ t ∧ t + 2 ≤ (capBounds c).2

/-- The code capability with ADDR at `t`, mod 2^72. -/
def codeAt (c : Ctx) (t : Int) : Reg := { c.code with bits := withAddr c.code.bits (t % 2 ^ 72).toNat }

/-- A capability that a register form may jump to (R107). -/
abbrev goodTarget (c : Reg) : Prop :=
  c.tag = true ∧ otypeOf c.bits = 0 ∧ hasPerm c.bits .execute = true ∧ addrOf c.bits % 2 = 0 ∧
    target c.bits (addrOf c.bits)

/-- The link after an instruction of `len` bytes (R108). -/
def link (c : Ctx) (len : Nat) : Reg := ⟨withAddr c.code.bits (ownAddr c + len).toNat, true⟩

/-- An immediate transfer: the registers that it reads, its offset in bytes, its link, where it is taken. -/
def immediateForm (c : Ctx) (i : Instr) : Option (List RegIdx × Int × (Ctx → Ctx)) :=
  match i with
  | .bt r off n => if (c.reg r).bits.getLsbD n.val = true then some ([r], 2 * off.toInt, id) else none
  | .bf r off n => if (c.reg r).bits.getLsbD n.val = false then some ([r], 2 * off.toInt, id) else none
  | .jmp off => some ([], 2 * off.toInt, id)
  | .jmp16 off => some ([], 2 * off.toInt, id)
  | .jal off => some ([], 2 * off.toInt, fun x => x.setReg 1 (link c 4))
  | _ => none

/-- A register transfer: the register that it reads, the register that takes its link and the length. -/
def registerForm (i : Instr) : Option (RegIdx × Option RegIdx × Nat) :=
  match i with
  | .jr a => some (a, none, 4)
  | .jr16 a => some (a, none, 2)
  | .jalr d a => some (a, some d, 4)
  | .jalr16 a => some (a, some 1, 2)
  | .ret => some (1, none, 4)
  | .ret16 => some (1, none, 2)
  | _ => none

/-- The bytes of an instruction of the branch family. -/
def bytesOf (i : Instr) : Nat :=
  match i with
  | .jmp16 _ | .jr16 _ | .jalr16 _ | .ret16 | .nop16 | .yield16 => 2
  | _ => 4

/-- R105, R106, R107, R108: a taken branch or jump to an address inside the code capability goes there; `jal` links in g1. -/
def ImmediateTransfersGoToTheirTarget : Prop :=
  ∀ (s : State) (i : Instr) (rs : List RegIdx) (off : Int) (f : Ctx → Ctx),
    Room s → immediateForm (here s) i = some (rs, off, f) → Unbound s rs →
    target (here s).code.bits (ownAddr (here s) + off) →
    exec i s = .next (did s (bytesOf i) (fun t => t.modCtx s.cur f) (.jump (codeAt (here s) (ownAddr (here s) + off))))

/-- R107: an immediate transfer to an address outside the code capability raises 0x185 and changes nothing else. -/
def ImmediateTransfersCheckBounds : Prop :=
  ∀ (s : State) (i : Instr) (rs : List RegIdx) (off : Int) (f : Ctx → Ctx),
    Room s → immediateForm (here s) i = some (rs, off, f) → Unbound s rs →
    ¬ target (here s).code.bits (ownAddr (here s) + off) →
    exec i s = .next (trapped s (bytesOf i) 0x185 (q ((ownAddr (here s) + off) % 2 ^ 72).toNat) (capVal2 0 true false 2))

/-- R105: a branch whose bit has the other value goes on with the next instruction. -/
def UntakenBranchesGoOn : Prop :=
  ∀ (s : State) (r : RegIdx) (off : BitVec 12) (n : Fin 128), Room s → s.streamed r = false →
    exec (if ((here s).reg r).bits.getLsbD n.val then .bf r off n else .bt r off n) s = .next (ran s 4 id)

/-- R107, R108: `jr`, `jalr` and `ret` go to the capability that the register holds, with the link of R108. -/
def RegisterTransfersGoToTheirCapability : Prop :=
  ∀ (s : State) (i : Instr) (a : RegIdx) (d : Option RegIdx) (len : Nat),
    Room s → registerForm i = some (a, d, len) → Unbound s (a :: d.toList) → goodTarget ((here s).reg a) →
    exec i s = .next (did s len (fun t => d.elim t fun x => t.modCtx s.cur fun c => c.setReg x (link (here s) len))
      (.jump ((here s).reg a)))

/-- R109: `nop` has no effect; `yield` only gives up the greedy position. -/
def HintsHaveNoOtherEffect : Prop :=
  ∀ s : State, Room s →
    exec .nop s = .next (ran s 4 id) ∧ exec .nop16 s = .next (ran s 2 id) ∧
    exec .yield s = .next (did s 4 fun t => t.modCore fun c => { c with yielded := true }) ∧
    exec .yield16 s = .next (did s 2 fun t => t.modCore fun c => { c with yielded := true })

/-- R63, R64: a guard on an untagged register that is bound to no port records the bits of its encoding and whether its
bit has the value that its polarity asks; it moves nothing else. -/
def GuardsReadTheirBit : Prop :=
  ∀ (s : State) (r : RegIdx) (n : Fin 128) (pol : Bool) (w : Nat), s.streamed r = false →
    ((here s).reg r).tag = false → encode (if pol then .whenSet r n else .unlessSet r n) = some w →
    exec (if pol then .whenSet r n else .unlessSet r n) s = .next (s.modCtx s.cur fun c =>
      { c with guarded := some ⟨BitVec.ofNat 16 w, ((here s).reg r).bits.getLsbD n.val == pol,
        ((here s).guarded.map Guard.bytes).getD 4⟩ })

/-- R113: a `drill` acquires the free buffer for the block that follows it, where no other slot waits for the buffer. -/
def DrillAcquiresTheBuffer : Prop :=
  ∀ (s : State) (k : BitVec 15) (st n : BitVec 4), Room s → (here s).drill = none → s.core.drillOwner = none →
    s.bufferWanted s.cur = false →
    exec (.drill k st n) s = .next (did s 4
      (fun t => (t.modCore fun c => { c with drillOwner := some s.cur }).modCtx s.cur fun c =>
        { c with drill := some ⟨(here s).pc + 4, n.toNat + 1, k.toNat, st.toNat, 0, 0, [], true⟩ })
      (.to ((here s).pc + 4)))

/-- R72: an encoding that is no instruction raises 0x002 with its bits, and with those of its guard. -/
def IllegalEncodingsTrap : Prop :=
  ∀ (s : State) (w : BitVec 32) (short : Bool), Room s →
    exec (.illegalInstruction w short) s =
      .next (trapped s (if short then 2 else 4) 0x002 (q w.toNat)
        (((here s).guarded.map fun g => q g.word.toNat).getD 0#128))

/-! ### Capability instructions (R117 to R121) -/

/-- A capability written to d. -/
def outCap (uses : List RegIdx) (d : RegIdx) (v : Reg) : Result := ⟨4, uses, d, v, 0#6⟩

/-- A number written to d zero-extended, with tag 0. -/
def outNat (uses : List RegIdx) (d : RegIdx) (v : Nat) : Result := ⟨4, uses, d, Reg.data (BitVec.ofNat 128 v), 0#6⟩

/-- x is no sealed capability, so that one of its fields may change (R118). -/
def loose (x : Reg) : Bool := !(x.tag && otypeOf x.bits != 0)

/-- x with another address, tagged while the address is representable in x (R58, R118). -/
def movedTo (x : Reg) (a : Int) : Reg :=
  let n := (a % 2 ^ 72).toNat
  ⟨withAddr x.bits n, x.tag && capBounds (withAddr x.bits n) == capBounds x.bits⟩

/-- A tagged and unsealed capability whose bounds hold the `len` bytes from its address (R119). -/
def mayNarrow (x : Reg) (len : Nat) : Bool :=
  x.tag && otypeOf x.bits == 0 && decide ((capBounds x.bits).1 ≤ addrOf x.bits) &&
    decide ((addrOf x.bits : Int) + len ≤ (capBounds x.bits).2)

/-- x with the bounds that R59 gives for its address and `len` bytes. -/
def narrowed (x : Reg) (len : Nat) : Reg :=
  let r := capEncode (addrOf x.bits) (addrOf x.bits + len)
  ⟨withBounds x.bits r.1 r.2.1 r.2.2.1 (addrOf x.bits), true⟩

/-- The bounds of x narrowed to `len` bytes encode exactly (R59). -/
def exactly (x : Reg) (len : Nat) : Bool := (capEncode (addrOf x.bits) (addrOf x.bits + len)).2.2.2

/-- A tagged, unsealed capability that carries `p` and whose bounds hold its address (R120). -/
def sealer (y : Reg) (p : Perm) : Bool :=
  y.tag && otypeOf y.bits == 0 && hasPerm y.bits p && decide ((capBounds y.bits).1 ≤ addrOf y.bits) &&
    decide ((addrOf y.bits : Int) < (capBounds y.bits).2)

/-- R117 to R121: what each capability instruction writes, where it does not trap. -/
def capability (c : Ctx) (i : Instr) : Option Result :=
  let x (r : RegIdx) : Reg := c.reg r
  let field (r : RegIdx) (lo n : Nat) : Nat := ((c.reg r).bits.extractLsb' lo n).toNat
  let only (b : Bool) (r : Result) : Option Result := if b then some r else none
  match i with
  | .cgetaddr d a => some (outNat [d, a] d (field a 0 72))
  | .cgetperm d a => some (outNat [d, a] d (field a 100 12))
  | .cgettype d a => some (outNat [d, a] d (field a 116 8))
  | .cgettag d a => some (outNat [d, a] d (x a).tag.toNat)
  | .cgetbase d a => some (outNat [d, a] d (if malformed (x a).bits then 0 else (capBounds (x a).bits).1.toNat))
  | .cgetlen d a => some (outNat [d, a] d
      (if malformed (x a).bits then 0 else ((capBounds (x a).bits).2 - (capBounds (x a).bits).1).toNat))
  | .cclrtag d a => some (outCap [d, a] d ⟨(x a).bits, false⟩)
  | .csetaddr d a b => only (loose (x a)) (outCap [d, a, b] d (movedTo (x a) (field b 0 72)))
  | .cincaddr d a b => only (loose (x a)) (outCap [d, a, b] d (movedTo (x a) (field a 0 72 + s64 (x b).bits)))
  | .cincaddri d a imm => only (loose (x a)) (outCap [d, a] d (movedTo (x a) (field a 0 72 + imm.toInt)))
  | .candperm d a b => only (loose (x a))
      (outCap [d, a, b] d ⟨withPerm (x a).bits (field a 100 12 &&& field b 0 12), (x a).tag⟩)
  | .csetbounds d a b => only (mayNarrow (x a) (field b 0 72)) (outCap [d, a, b] d (narrowed (x a) (field b 0 72)))
  | .csetboundsx d a b => only (mayNarrow (x a) (field b 0 72) && exactly (x a) (field b 0 72))
      (outCap [d, a, b] d (narrowed (x a) (field b 0 72)))
  | .cseal d a b =>
    only ((x a).tag && otypeOf (x a).bits == 0 && sealer (x b) .seal && decide (1 ≤ field b 0 72) && decide (field b 0 72 ≤ 255))
      (outCap [d, a, b] d ⟨withOtype (x a).bits (field b 0 72), true⟩)
  | .cunseal d a b =>
    only ((x a).tag && otypeOf (x a).bits != 0 && sealer (x b) .unseal && field b 0 72 == otypeOf (x a).bits)
      (outCap [d, a, b] d ⟨withOtype (x a).bits 0, true⟩)
  | .ctestsub d a b => some (outNat [d, a, b] d ((x a).tag && otypeOf (x a).bits == 0 && within (x a).bits (x b).bits).toNat)
  | .cbuild d a b => only ((x a).tag && otypeOf (x a).bits == 0)
      (outCap [d, a, b] d ⟨(x b).bits, within (x a).bits (x b).bits⟩)
  | _ => none

/-- R117 to R121: queries read a capability's fields; the derivations write the capability that their rule gives. -/
def CapabilityResults : Prop := Completes capability

/-- R117 to R121: a register that is tagged after an instruction of the family was tagged before it, or one of the
registers that the instruction uses was. -/
def CapabilitiesAreNotForged : Prop :=
  ∀ (s : State) (i : Instr) (r : Result), Room s → capability (here s) i = some r → Unbound s r.uses →
    ∃ t, exec i s = .next t ∧ ∀ x : RegIdx, ((t.ctx s.cur).reg x).tag = true →
      ((here s).reg x).tag = true ∨ ∃ a ∈ r.uses, ((here s).reg a).tag = true

/-- R118: a capability whose address `csetaddr`, `cincaddr` or `cincaddri` moves keeps its bounds, permissions and type
where its tag stays. -/
def MovedCapabilitiesKeepTheirBounds : Prop :=
  ∀ (s : State) (d a b : RegIdx) (imm : BitVec 15) (i : Instr),
    i ∈ [Instr.csetaddr d a b, .cincaddr d a b, .cincaddri d a imm] → d ≠ 0 →
    Room s → Unbound s [d, a, b] → loose ((here s).reg a) = true →
    ∃ t, exec i s = .next t ∧ (((t.ctx s.cur).reg d).tag = true →
      capBounds ((t.ctx s.cur).reg d).bits = capBounds ((here s).reg a).bits ∧
      permOf ((t.ctx s.cur).reg d).bits = permOf ((here s).reg a).bits ∧
      otypeOf ((t.ctx s.cur).reg d).bits = otypeOf ((here s).reg a).bits)

/-! ### Loads, stores, atomics and fences (R123 to R142) -/

/-- The state after an instruction of `len` bytes that changes the machine by `f`; where it acts outside its sheaf, the
sheaf ends first, `g` follows, and the sheaf that then begins ends with it (R139, Table 10.5). -/
def done (s : State) (len : Nat) (f : State → State) (g : Option (State → State)) : State :=
  match g with
  | none => did s len f
  | some g => ((g ((f (s.openSheaf s.cur)).commitWithin s.cur)).advance s.cur len .seq).commit s.cur

/-- The location of an address of CM or of the core's own LM (Table 1.2). -/
def nearLoc (s : State) (a : Nat) : Option Nat :=
  if regionOf a = 0xC ∧ a % 2 ^ 68 < 2 ^ 22 then some (cmLoc s.core.id (a % 2 ^ 68))
  else if regionOf a = 0xD ∧ a % 2 ^ 68 < 2 ^ 18 then some (lmLoc s.core.id (a % 2 ^ 68))
  else none

/-- The slot's sheaf with an access registered (R174). -/
def tracked (s : State) (loc n : Nat) (write : Bool) : State :=
  (s.modSheaf s.cur fun sh => sh.register (sectorsOf loc n) write (spaceOf loc == .lm) s.core.births).modCore fun c =>
    { c with births := c.births + 1 }

/-- No sheaf of another slot meets the access (R177), the slot's own keeps within its limits with it (R174), and a store meets
none of the core's own that is on its way through the remote window (R171; log entry 71, DEDUCED). -/
abbrev Fits (s : State) (loc n : Nat) (write : Bool) : Prop :=
  (∀ j, j ≠ s.cur → (s.slot j).sheaf.meets (sectorsOf loc n) write = false) ∧
  ((s.slot s.cur).sheaf.register (sectorsOf loc n) write (spaceOf loc == .lm) s.core.births).overfull = false ∧
  (write = true → s.windowFlies loc n = false)

/-- The access fits, and its bytes have no uncorrectable error (R309). -/
abbrev Free (s : State) (loc n : Nat) (write : Bool) : Prop := Fits s loc n write ∧ s.opensAll 0#10 loc n = true

/-- Scopes beyond the die (R139). -/
def wide (sc : Scope) : Bool := sc == .dev || sc == .sys

/-- What an instruction orders: it releases, it acquires, at a scope (R138, R139). -/
structure Order where
  rel : Bool
  acq : Bool
  sc  : Scope

/-- What follows its sheaf. -/
def Order.after (o : Order) : Option (State → State) :=
  if wide o.sc then
    some fun t =>
      let t := if o.rel then t.writeBackAll else t
      if o.acq then t.acquire (some t.cur) else t
  else none

/-- The earlier stores of the slot to peer memory are answered (R139). -/
abbrev StoresAnswered (s : State) : Prop := s.sendsToPeers s.cur = false ∧ ∀ x ∈ s.module.inFlight, x.slot ≠ s.cur

/-- It waits for nothing: at a wide scope an acquire meets no solo grant of another slot (R178), and a release at `.sys` no
store to peer memory that is still to be answered (R139). -/
abbrev Order.Ready (o : Order) (s : State) : Prop :=
  (o.acq = true → wide o.sc = true → ∀ j, j ≠ s.cur → (s.slot j).sheaf.solo = false) ∧
  (o.rel = true → o.sc = .sys → StoresAnswered s)

/-- An instruction that orders nothing. -/
def Order.none : Order := ⟨false, false, .core⟩

/-- A load: its length in bytes, d, a, its offset, its width in bytes, and how the value is extended. -/
structure Load where
  len : Nat
  d   : RegIdx
  a   : RegIdx
  off : Int
  n   : Nat
  ext : Nat → Q
  order : Order := Order.none

def sign (n : Nat) (v : Nat) : Q := (BitVec.ofNat (8 * n) v).signExtend 128
def zeros (n : Nat) (v : Nat) : Q := (BitVec.ofNat (8 * n) v).setWidth 128

/-- Table 9.1 and R133: the loads of data. -/
def loadForm (i : Instr) : Option Load :=
  match i with
  | .ldB d a imm => some { len := 4, d := d, a := a, off := imm.toInt, n := 1, ext := sign 1 }
  | .ldH d a imm => some { len := 4, d := d, a := a, off := imm.toInt, n := 2, ext := sign 2 }
  | .ldW d a imm => some { len := 4, d := d, a := a, off := imm.toInt, n := 4, ext := sign 4 }
  | .ldD d a imm => some { len := 4, d := d, a := a, off := imm.toInt, n := 8, ext := sign 8 }
  | .ldQ d a imm => some { len := 4, d := d, a := a, off := imm.toInt, n := 16, ext := zeros 16 }
  | .ldzB d a imm => some { len := 4, d := d, a := a, off := imm.toInt, n := 1, ext := zeros 1 }
  | .ldzH d a imm => some { len := 4, d := d, a := a, off := imm.toInt, n := 2, ext := zeros 2 }
  | .ldzW d a imm => some { len := 4, d := d, a := a, off := imm.toInt, n := 4, ext := zeros 4 }
  | .ldD16 d imm => some { len := 2, d := d, a := 2, off := 8 * imm.toNat, n := 8, ext := sign 8 }
  | .lda d a sz sc => some
      { len := 4, d := d, a := a, off := 0, n := widthBytes sz, ext := sign (widthBytes sz), order := ⟨false, true, sc⟩ }
  | _ => none

/-- The address of an operand with offset, mod 2^72 (R124). -/
def operand (c : Ctx) (a : RegIdx) (off : Int) : Nat := (((addrOf (c.reg a).bits : Int) + off) % 2 ^ 72).toNat

/-- An access of `n` bytes with the permissions `ps` that R60 and R125 let through, to CM or LM at `loc`. -/
abbrev Touches (s : State) (a : RegIdx) (off : Int) (n : Nat) (ps : List Perm) (loc : Nat) : Prop :=
  capFault ((here s).reg a) ps (operand (here s) a off) n = none ∧ operand (here s) a off % n = 0 ∧
    nearLoc s (operand (here s) a off) = some loc

/-- A store: its length in bytes, a, b, its offset and width, and whether it carries the tag of b. -/
structure Store where
  len : Nat
  a   : RegIdx
  b   : RegIdx
  off : Int
  n   : Nat
  cap : Bool := false
  order : Order := Order.none

/-- Table 9.1, R129 and R133: the stores. -/
def storeForm (i : Instr) : Option Store :=
  match i with
  | .stB a b off => some { len := 4, a := a, b := b, off := off.toInt, n := 1 }
  | .stH a b off => some { len := 4, a := a, b := b, off := off.toInt, n := 2 }
  | .stW a b off => some { len := 4, a := a, b := b, off := off.toInt, n := 4 }
  | .stD a b off => some { len := 4, a := a, b := b, off := off.toInt, n := 8 }
  | .stQ a b off => some { len := 4, a := a, b := b, off := off.toInt, n := 16 }
  | .stC a b off => some { len := 4, a := a, b := b, off := off.toInt, n := 16, cap := true }
  | .stD16 d imm => some { len := 2, a := 2, b := d, off := 8 * imm.toNat, n := 8 }
  | .strl a b sz sc => some { len := 4, a := a, b := b, off := 0, n := widthBytes sz, order := ⟨true, false, sc⟩ }
  | _ => none

/-- The tag that a store leaves, and the permissions that it needs (R129). -/
def Store.tag (x : Store) (c : Ctx) : Bool := x.cap && (c.reg x.b).tag
def Store.perms (x : Store) (c : Ctx) : List Perm := if x.tag c then [.store, .storecap] else [.store]

/-- The bytes that a store holds until its sheaf commits. -/
def Store.data (x : Store) (c : Ctx) : List Byte := leBytes x.n (c.reg x.b).bits.toNat

/-- An atomic: d, a, b, its width and scope, and what it writes from the old value, its argument and the value that it
compares with (Table 9.3). -/
structure Atomic where
  d   : RegIdx
  a   : RegIdx
  b   : RegIdx
  sz  : MemWidth
  sc  : Scope
  new : (w : Nat) → BitVec w → BitVec w → BitVec w → Option (BitVec w)

def atomicForm (i : Instr) : Option Atomic :=
  match i with
  | .amoadd d a b sz sc => some ⟨d, a, b, sz, sc, fun _ old y _ => some (old + y)⟩
  | .amoswap d a b sz sc => some ⟨d, a, b, sz, sc, fun _ _ y _ => some y⟩
  | .amocas d a b sz sc => some ⟨d, a, b, sz, sc, fun _ old y e => if old = e then some y else none⟩
  | .amocasq d a b sc => some ⟨d, a, b, .q, sc, fun _ old y e => if old = e then some y else none⟩
  | .amomin d a b sz sc => some ⟨d, a, b, sz, sc, fun _ old y _ => some (if old.slt y then old else y)⟩
  | .amomax d a b sz sc => some ⟨d, a, b, sz, sc, fun _ old y _ => some (if y.slt old then old else y)⟩
  | .amominn d a b sz sc => some ⟨d, a, b, sz, sc, fun _ old y _ => some (if old.ult y then old else y)⟩
  | .amomaxn d a b sz sc => some ⟨d, a, b, sz, sc, fun _ old y _ => some (if y.ult old then old else y)⟩
  | .amoand d a b sz sc => some ⟨d, a, b, sz, sc, fun _ old y _ => some (old &&& y)⟩
  | .amoor d a b sz sc => some ⟨d, a, b, sz, sc, fun _ old y _ => some (old ||| y)⟩
  | .amoxor d a b sz sc => some ⟨d, a, b, sz, sc, fun _ old y _ => some (old ^^^ y)⟩
  | _ => none

/-- What an atomic at `loc` does within its sheaf: it tracks the read and the write, holds the write where there is one, and
writes the old value, sign-extended, to d (R134, R136). -/
def Atomic.effect (x : Atomic) (s : State) (loc : Nat) (t : State) : State :=
  let n := widthBytes x.sz
  let w := 8 * n
  let v (r : RegIdx) : BitVec w := ((here s).reg r).bits.setWidth w
  let old : BitVec w := BitVec.ofNat w (ofBytes (s.seenBytes s.cur loc n))
  let t := tracked (tracked t loc n false) loc n true
  let t := match x.new w old (v x.b) (v x.d) with
    | some y => t.hold s.cur (.write loc (leBytes n y.toNat) false 0#10)
    | none => t
  t.modCtx s.cur fun c => c.setReg x.d (Reg.data (old.signExtend 128))

/-- What an atomic orders: it releases and acquires at its scope (R133). -/
def Atomic.order (x : Atomic) : Order := ⟨true, true, x.sc⟩

/-- What a fence or an instruction on the whole of the caches orders (R138, R140, R141). -/
def fenceForm (i : Instr) : Option Order :=
  match i with
  | .fence .both sc => some ⟨true, true, sc⟩
  | .fence .acq sc => some ⟨false, true, sc⟩
  | .fence .rel sc => some ⟨true, false, sc⟩
  | .fsc sc => some ⟨true, true, sc⟩
  | .cinvAll => some ⟨false, true, .dev⟩
  | .cwbAll => some ⟨true, false, .dev⟩
  | _ => none

/-- An access that R60 and R125 check: its length in bytes, its address and width, the permissions that it needs, the
registers that it reads first. -/
structure Checked where
  len : Nat
  a   : RegIdx
  off : Int
  n   : Nat
  ps  : List Perm
  uses : List RegIdx
  order : Order := Order.none

/-- The loads, stores and atomics that are checked so, `ld.c` and `st.c` among them. -/
def checkedForm (c : Ctx) (i : Instr) : Option Checked :=
  let compared : List RegIdx := match i with
    | .amocas d _ _ _ _ | .amocasq d _ _ _ => [d]
    | _ => []
  match loadForm i, storeForm i, atomicForm i, i with
  | some l, _, _, _ => some { len := l.len, a := l.a, off := l.off, n := l.n, ps := [.load], uses := [l.a], order := l.order }
  | _, some x, _, _ =>
    some { len := x.len, a := x.a, off := x.off, n := x.n, ps := x.perms c, uses := [x.a, x.b], order := x.order }
  | _, _, some x, _ =>
    some { len := 4, a := x.a, off := 0, n := widthBytes x.sz, ps := [.load, .store],
            uses := compared ++ [x.a, x.b], order := x.order }
  | _, _, _, .ldC _ a imm => some { len := 4, a := a, off := imm.toInt, n := 16, ps := [.load], uses := [a] }
  | _, _, _, _ => none

/-- The physical address that a leaf entry at a level gives (R299). -/
def physical (e level va : Nat) : Nat :=
  if level = 0 then leafFrame e va * 2 ^ 12 + va % 2 ^ 12 else ptePpn e * 2 ^ 12 + va % 2 ^ (12 + 9 * level)

/-- R124, R128, R133: a load from CM or LM writes to d the bytes that the slot sees, extended as Table 9.1 says. -/
def LoadsWriteWhatTheSlotSees : Prop :=
  ∀ (s : State) (i : Instr) (l : Load) (loc : Nat),
    Room s → loadForm i = some l → Unbound s [l.d, l.a] → l.order.Ready s → Touches s l.a l.off l.n [.load] loc →
    Free s loc l.n false →
    exec i s = .next (done s l.len (fun t => (tracked t loc l.n false).modCtx s.cur fun c =>
      c.setReg l.d (Reg.data (l.ext (ofBytes (s.seenBytes s.cur loc l.n))))) l.order.after)

/-- R129: `ld.c` from CM or LM brings the tag of its granule where the capability carries LOADCAP. -/
def CapabilityLoadsBringTheTag : Prop :=
  ∀ (s : State) (d a : RegIdx) (imm : BitVec 15) (loc : Nat),
    Room s → Unbound s [d, a] → Touches s a imm.toInt 16 [.load] loc → Free s loc 16 false →
    exec (.ldC d a imm) s = .next (did s 4 fun t => (tracked t loc 16 false).modCtx s.cur fun c =>
      c.setReg d ⟨BitVec.ofNat 128 (ofBytes (s.seenBytes s.cur loc 16)),
        hasPerm ((here s).reg a).bits .loadcap && s.seenTag s.cur loc⟩)

/-- R124, R128, R129, R133, R164: a store to CM or LM holds its bytes and tag in the sheaf until it commits. That
it waits for the slot's own writes to the same bytes through a window is log entry 71 (DEDUCED). -/
def StoresAreHeldInTheSheaf : Prop :=
  ∀ (s : State) (i : Instr) (x : Store) (loc : Nat),
    Room s → storeForm i = some x → Unbound s [x.a, x.b] → x.order.Ready s →
    Touches s x.a x.off x.n (x.perms (here s)) loc → Fits s loc x.n true →
    exec i s = .next (done s x.len (fun t => (tracked t loc x.n true).hold s.cur
      (.write loc (x.data (here s)) (x.tag (here s)) 0#10)) x.order.after)

/-- R164, R176: after a store to CM or LM at no wider scope than the die the slot sees the stored bytes at the address stored
to, and every other byte as before; no byte that another slot or the die sees has changed. -/
def StoresChangeOnlyTheirBytes : Prop :=
  ∀ (s : State) (i : Instr) (x : Store) (loc : Nat),
    Room s → storeForm i = some x → wide x.order.sc = false → Unbound s [x.a, x.b] →
    Touches s x.a x.off x.n (x.perms (here s)) loc → Fits s loc x.n true →
    ∃ t, exec i s = .next t ∧
      (∀ a, t.seenByte s.cur a =
        if loc ≤ a ∧ a < loc + x.n then (x.data (here s)).getD (a - loc) 0#8 else s.seenByte s.cur a) ∧
      t.mem = s.mem ∧ t.tags = s.tags ∧ (∀ j, j ≠ s.cur → t.slot j = s.slot j) ∧
      ∀ r, (t.ctx s.cur).reg r = (here s).reg r

/-- R134, R136: an atomic on CM or LM reads and writes within its sheaf, and d takes the old value. -/
def AtomicsReturnTheOldValue : Prop :=
  ∀ (s : State) (i : Instr) (x : Atomic) (loc : Nat),
    Room s → atomicForm i = some x → Unbound s [x.d, x.a, x.b] → x.order.Ready s →
    Touches s x.a 0 (widthBytes x.sz) [.load, .store] loc →
    Free s loc (widthBytes x.sz) false → Fits s loc (widthBytes x.sz) true →
    exec i s = .next (done s 4 (x.effect s loc) x.order.after)

/-- R138, R139, R141: fences order the sheaves of `.dev` and `.sys` by writing back and dropping copies after the sheaf;
narrower ones have no other effect. That the ended sheaf commits in the same step is log entry 12 (DEDUCED). -/
def FencesEndTheirSheafAtWideScopes : Prop :=
  ∀ (s : State) (i : Instr) (o : Order), Room s → fenceForm i = some o → o.Ready s →
    exec i s = .next (done s 4 id o.after)

/-- R140: `sheaf` ends the sheaf, itself its last instruction; that it commits in the same step is log entry 12 (DEDUCED). -/
def SheafEndsTheSheaf : Prop :=
  ∀ s : State, Room s → exec .sheaf s = .next ((ran s 4 id).commit s.cur)

/-- R60, R125, R129: a load, a store or an atomic through a register that holds no usable capability for its bytes traps with
the cause of the first check that fails, and one that is not aligned with 0x101; `st.c` of a tagged register to memory that
keeps no tags traps with 0x186 right after the translation. No register or memory changes but what the walk leaves. -/
def AccessesAreChecked : Prop :=
  (∀ (s : State) (i : Instr) (x : Checked), Room s → checkedForm (here s) i = some x → Unbound s x.uses → x.order.Ready s →
    let at_ := operand (here s) x.a x.off
    (∀ cause, capFault ((here s).reg x.a) (x.ps ++ regionPerms at_) at_ x.n = some cause →
      exec i s = .next (trapped s x.len cause (q at_) (capVal2 x.a.val false false x.n))) ∧
    (capFault ((here s).reg x.a) (x.ps ++ regionPerms at_) at_ x.n = none → at_ % x.n ≠ 0 →
      exec i s = .next (trapped s x.len 0x101 (q at_) (capVal2 x.a.val false false x.n)))) ∧
  ∀ (s u : State) (a b : RegIdx) (off : BitVec 15) (e level : Nat), Room s → Unbound s [a, b] →
    ((here s).reg b).tag = true →
    let at_ := operand (here s) a off.toInt
    capFault ((here s).reg a) [.store, .storecap] at_ 16 = none → at_ % 16 = 0 → regionOf at_ < 0xC →
    leafFor { s.view with tagged := true } at_ .store (s.openSheaf s.cur) = .ok (e, level) u →
    pteHome e ≠ 1 → hostBase ≤ physical e level at_ →
    exec (.stC a b off) s = .next (trapped (s.keep u) 4 0x186 (q at_) (capVal2 a.val false false 16))

/-- R141: `cinv` and `cwb` of a range within one page that translates to HBM act on this die's copies of the lines that the
range overlaps: `cinv` drops their clean words, which squashes the other slots' sheaves that have read them, `cwb` writes
their dirty bytes back. A length of 0 does nothing. -/
def CacheMaintenanceActsOnItsLines : Prop :=
  ∀ (s : State) (a b : RegIdx) (i : Instr) (f : State → List Nat → State) (p : Perm),
    (i, f, p) ∈ [(Instr.cinv a b, (fun u l => u.invalidate (some s.cur) l), Perm.load),
      (.cwb a b, (fun u l => l.foldl State.writeBack u), .store)] →
    Room s → Unbound s [a, b] → (p = .load → ∀ j, j ≠ s.cur → (s.slot j).sheaf.solo = false) →
    let c := (here s).reg a
    let va := addrOf c.bits
    let len := n64 ((here s).reg b).bits
    (len = 0 → exec i s = .next ((ran s 4 id).commit s.cur)) ∧
    (∀ base size u, 0 < len → va % 2 ^ 12 + len ≤ 2 ^ 12 → regionOf va < 0xC → capFault c [p] va len = none →
      pageOf s.view va ((s.openSheaf s.cur).commitWithin s.cur) = .ok (some (base, size)) u →
      exec i s = .next (((f u (u.copiedSectors.filter fun x =>
          decide ((base + va % size) / 256 * 8 ≤ x) && decide (x < (base + va % size + len + 255) / 256 * 8))).advance
        s.cur 4 .seq).commit s.cur))

/-- R142: a prefetch whose capability checks fail, or to regions 0xC to 0xF, does nothing; one that passes every check
brings its line into this die's caches. It never traps. -/
def PrefetchesBringTheirLineOrDoNothing : Prop :=
  ∀ (s : State) (a : RegIdx) (i : Instr) (size : Nat),
    (i, size) ∈ [(Instr.pfL1 a, 32), (.pfL2 a, 256)] → Room s → Unbound s [a] →
    let c := (here s).reg a
    let va := addrOf c.bits
    ((capFault c ([.load] ++ regionPerms va) va 1).isSome = true ∨ 0xC ≤ regionOf va → exec i s = .next (ran s 4 id)) ∧
    (∀ e l u p w, capFault c [.load] va 1 = none → regionOf va < 0xC →
      leafFor s.view va .load (s.openSheaf s.cur) = .ok (e, l) u →
      placeTranslated s.view c.bits .load va 1 0#128 u = .ok p w →
      pteHome e < 2 → spaceOf p.loc = .hbm → p.host = false →
      let line := p.loc / size * size
      (w.remote line = false → w.snoopLines line size false = []) → (w.fetchCopies line size).readable p.key line size = true →
      let t := w.fetchCopies line size
      exec i s = .next ((if size = 32 then t.allocate none line 32 else t).advance s.cur 4 .seq))

/-! ### Streams, channels and engine FIFOs (R143 to R163) -/

/-- The port of a register is bound, with nothing moved and its first fetch due where it reads (R145, R150). -/
def bound (s : State) (d : RegIdx) (write : Bool) (b : Binding) (trip : Nat) : State :=
  let t := s.setPort (portOf d) ⟨some s.cur, write, some b, trip, 0, [], 0, none⟩
  if write then t else t.scheduleOnce .streamElementFetch (.port (portOf d))

/-- The bits of tensor map `tm` as the slot sees them (R143). -/
def mapBits (s : State) (tm : Fin 16) : Nat := ofBytes (s.seenBytes s.cur (s.lm (s.mapOffset tm)) 64)

/-- The slots of a channel that end among `n` elements from `i` on, for a port of `trip` elements (R150). -/
def slotEnds (h : Handle) (i n trip : Nat) : Nat :=
  ((upFrom i n).filter fun j => (j + 1) % h.elements == 0 || j + 1 == trip).length

/-- A handle that an instruction may use in a role (R156). -/
abbrev usable (h : Handle) (producer : Bool) : Prop := h.init = true ∧ h.producer = producer ∧ h.stream = false

/-- `cbadv` and `cbcomm` of n slots (R156): the count falls, the position goes on, the credit to the peer that the handle has
now is held. -/
def passed (s : State) (h : Fin 16) (filledCredit : Bool) (n : Nat) : State :=
  let x := s.handle h
  ((s.setHandle h { x with avail := x.avail - n, pos := (x.pos + n) % 2 ^ x.countlog }).note s.cur
    (if filledCredit then .committed h n else .advanced h n)).hold s.cur
      (.credit h n (if x.engine then none else some (s.creditMessage s.cur h filledCredit n)))

/-- An element that R158 accepts after the header: an ENGINE capability where the command takes one, data elsewhere. -/
abbrev elementOk (f : Fifo) (header : Q) (pos : Nat) (y : Reg) : Prop :=
  if ((commandShape f (headerOpc header)).map fun c => c.caps.getD (pos - 1) false) = some true then
    y.tag = true ∧ otypeOf y.bits = 0 ∧ hasPerm y.bits .engine = true
  else y.tag = false

/-- R143, R144, R145: `sbind` reads its map at issue and binds the port to the pattern, where the map lies in the kernel's
LM and is valid, the capability holds the span, the items are aligned and lie in LM or CM. -/
def SbindBindsAPattern : Prop :=
  ∀ (s : State) (d a : RegIdx) (p : Bool) (tm : Fin 16), Room s → Unbound s [a] →
    (s.port (portOf d)).bound = none → s.freedElsewhere s.cur (portOf d) = false → s.mapOffset tm + 64 ≤ s.allocation → Fits s (s.lm (s.mapOffset tm)) 64 false →
    mapValid (mapBits s tm) = true →
    let c := (here s).reg a
    let pat := mapPattern (mapBits s tm) c.bits
    capFaultSpan c [if p then .store else .load] pat.span.1 pat.span.2 = none →
    pat.aligned pat.itemBytes = true → pat.near = true →
    exec (.sbind d a p tm) s = .next (did s 4 fun t =>
      bound (tracked t (s.lm (s.mapOffset tm)) 64 false) d p (.pattern pat) pat.trip)

/-- R150: `sbindch` binds the port to a channel of the right role with the number of elements in a. -/
def SbindchBindsAChannel : Prop :=
  ∀ (s : State) (d a : RegIdx) (p : Bool) (h : Fin 16), Room s → Unbound s [a] →
    (s.port (portOf d)).bound = none → s.freedElsewhere s.cur (portOf d) = false → usable (s.handle h) p → 4 ≤ (s.handle h).slotlog →
    0 < n64 ((here s).reg a).bits → n64 ((here s).reg a).bits < 2 ^ 32 →
    exec (.sbindch d a p h) s = .next (did s 4 fun t =>
      bound (t.setHandle h { s.handle h with stream := true }) d p (.channel h) (n64 ((here s).reg a).bits))

/-- R151: `sfree` of a port that the slot owns and that has passed on what was pushed unbinds it and clears its register;
STREAM of the handles is set again from the ports, and the armed channel records are tested. -/
def SfreeUnbinds : Prop :=
  ∀ (s : State) (a : RegIdx), Room s → (s.port (portOf a)).bound.isSome = true →
    (s.port (portOf a)).owner = some s.cur → ((s.port (portOf a)).write = true → s.flushed (portOf a) = true) →
    exec (.sfree a) s = .next (did s 4 fun t =>
      ((t.setPort (portOf a) Port.free).refreshStreams.checkChannels).modCtx s.cur fun c => c.setReg a Reg.null)

/-- R152: `sskip` over a pattern passes n elements unread; over a channel whose slots are filled it also passes on every
slot that ends. -/
def SskipPassesElements : Prop :=
  ∀ (s : State) (a : RegIdx) (n : Fin 64), Room s →
    let x := s.port (portOf a)
    x.owner = some s.cur → x.write = false → x.moved + (n.val + 1) ≤ x.trip →
    (∀ pat, x.bound = some (.pattern pat) →
      exec (.sskip a n) s = .next (did s 4 fun t =>
        (t.setPort (portOf a) { x with moved := x.moved + (n.val + 1), fetched := x.fetched.drop (n.val + 1) }).scheduleOnce
          .streamElementFetch (.port (portOf a)))) ∧
    (∀ h, x.bound = some (.channel h) → (s.handle h).pos < 2 ^ (s.handle h).countlog →
      slotsAhead (s.handle h).elements x.moved (n.val + 1) ≤ (s.handle h).avail →
      s.netLacks (s.creditsFor x (upFrom x.moved (n.val + 1))) = false →
      ∃ t, exec (.sskip a n) s = .next t ∧
        t.port (portOf a) = { x with moved := x.moved + (n.val + 1), fetched := x.fetched.drop (n.val + 1) } ∧
        t.handle h = { s.handle h with
          avail := (s.handle h).avail - slotEnds (s.handle h) x.moved (n.val + 1) x.trip
          pos := ((s.handle h).pos + slotEnds (s.handle h) x.moved (n.val + 1) x.trip) % 2 ^ (s.handle h).countlog })

/-- R153: `sstat` and `sstat.ch` write the fields of Tables 9.8 and 9.9. -/
def StreamStatusFields : Prop :=
  ∀ (s : State) (d a : RegIdx) (h : Fin 16), Room s → Unbound s [d] → d ≠ 0 →
    (∃ t v, exec (.sstat d a) s = .next t ∧ (t.ctx s.cur).reg d = Reg.data v ∧
      ((s.port (portOf a)).bound = none → v = 0#128) ∧
      ((s.port (portOf a)).bound.isSome = true → (s.port (portOf a)).trip < 2 ^ 32 →
        v.getLsbD 0 = true ∧ v.getLsbD 1 = decide (0 < (s.port (portOf a)).undrained) ∧
        v.getLsbD 2 = (s.port (portOf a)).write ∧
        bits v 32 32 = (s.port (portOf a)).trip ∧ bits v 64 32 = (s.port (portOf a)).trip - (s.port (portOf a)).moved)) ∧
    (∃ t v, exec (.sstatCh d h) s = .next t ∧ (t.ctx s.cur).reg d = Reg.data v ∧
      ((s.handle h).avail < 2 ^ 16 → (s.handle h).pos < 2 ^ 32 →
        v.getLsbD 0 = (s.handle h).init ∧ v.getLsbD 1 = (s.handle h).stream ∧ v.getLsbD 2 = (s.handle h).producer ∧
        v.getLsbD 3 = (s.handle h).engine ∧ v.getLsbD 4 = (s.handle h).ovf ∧ bits v 16 16 = (s.handle h).avail ∧
        bits v 32 32 = (s.handle h).pos))

/-- R146, R147: a fetch of a read port takes the items of its next element, in pattern order, as the slot sees them. -/
def StreamFetchesTheNextElement : Prop :=
  ∀ (s : State) (p : Fin 8) (k : SlotId) (pat : Pattern),
    let x := s.port p
    let i := x.moved + x.fetched.length
    s.event = .port p → x.write = false → x.owner = some k → x.bound = some (.pattern pat) → x.sector = none →
    x.fetched.length < 8 → i < x.trip → pat.esize ≤ 4 → (∀ m ∈ pat.elementItems i, pat.itemAddr m % pat.itemBytes = 0) →
    (∀ m ∈ pat.elementItems i, s.isBad (s.nearLoc (pat.itemAddr m)) = false) →
    ∃ t, exec .streamElementFetch s = .next t ∧
      (t.port p).fetched = x.fetched ++ [⟨qOfBytes ((pat.elementItems i).map fun m =>
        s.seenBytes k (s.nearLoc (pat.itemAddr m)) pat.itemBytes).flatten, none⟩] ∧
      (t.port p).moved = x.moved ∧ t.mem = s.mem ∧ ∀ j, t.slot j = s.slot j

/-- R148: an element that has drained leaves the buffer of its port. -/
def StreamDrainsOneElement : Prop :=
  ∀ (s : State) (p : Fin 8), s.event = .port p →
    exec .streamElementDrain s = .next (s.setPort p { s.port p with undrained := (s.port p).undrained - 1 })

/-- R53, R149: a register bound to a read port of its slot over memory pops the next element as a source, with tag 0. -/
def BoundSourcesPop : Prop :=
  ∀ (s : State) (d a : RegIdx) (pat : Pattern) (e : Element) (rest : List Element), Room s → Unbound s [d] →
    24 ≤ a.val →
    let x := s.port (portOf a)
    x.bound = some (.pattern pat) → x.owner = some s.cur → x.write = false → x.moved < x.trip →
    x.fetched = e :: rest → e.bad = none →
    exec (.mov d a) s = .next (did s 4 fun t =>
      ((t.setPort (portOf a) { x with moved := x.moved + 1, fetched := rest }).scheduleOnce .streamElementFetch
        (.port (portOf a))).modCtx s.cur fun c => c.setReg d (Reg.data e.bits))

/-- R155: `cbinit` sets the handle up from its configuration and ring, and tests the armed channel records; an engine that waits
for a slot of the ring is taken up again at the commit (R160). -/
def CbinitSetsAHandleUp : Prop :=
  ∀ (s : State) (d a : RegIdx) (h : Fin 16), Room s → Unbound s [d, a] →
    let y := ((here s).reg d).bits
    let c := (here s).reg a
    let x := configHandle y c
    let size := 2 ^ (x.slotlog + x.countlog)
    configValid y = true → capFault c (x.ringPerms ++ regionPerms (addrOf c.bits)) (addrOf c.bits) size = none →
    addrOf c.bits % 2 ^ x.slotlog = 0 → x.ringNear = true →
    (x.engine = false → s.inSubmesh s.core.tenant x.peer = true) → (s.handle h).stream = false →
    exec (.cbinit d a h) s = .next (did s 4 fun t =>
      let t := (((t.setHandle h x).dropCredits s.cur h).checkChannels).note s.cur (.initialised h (s.handle h))
      if x.engine then t.hold s.cur (.credit h 0 none) else t)

/-- R156, R168: `cbwait` and `cbfree` with enough slots acquire from a core peer on another die and write the offset of the slot at the head or
the tail; with fewer the slot waits. -/
def ChannelWaits : Prop :=
  ∀ (s : State) (d a : RegIdx) (h : Fin 16) (producer : Bool) (i : Instr),
    i = (if producer then .cbfree d a h else .cbwait d a h) → Room s → Unbound s [d, a] →
    let x := s.handle h
    let n := n64 ((here s).reg a).bits
    usable x producer → n ≤ 2 ^ x.countlog →
    let far := x.engine = false ∧ dieOf x.peer ≠ s.dieNo
    (n ≤ x.avail → (far → s.acquireWaits (some s.cur) = false) → exec i s = .next (did s 4 fun t =>
      let t := t.modCtx s.cur fun c => c.setReg d (Reg.data (wr64 (x.pos * 2 ^ x.slotlog : Nat)))
      if far then t.acquire (some s.cur) else t)) ∧
    (x.avail < n → exec i s = .next (s.beginWait s.cur (if producer then .vacant h n else .filled h n)))

/-- R156, R227: `cbadv` and `cbcomm` pass slots to the peer, whose credit leaves when the sheaf commits. -/
def ChannelSlotsArePassed : Prop :=
  ∀ (s : State) (a : RegIdx) (h : Fin 16) (producer : Bool), Room s → Unbound s [a] →
    usable (s.handle h) producer → n64 ((here s).reg a).bits ≤ (s.handle h).avail →
    ((s.handle h).engine = false → s.netFull = false) →
    exec (if producer then .cbcomm a h else .cbadv a h) s =
      .next (did s 4 fun t => passed t h producer (n64 ((here s).reg a).bits))

/-- R158, R163: `epush` adds an element that R158 accepts; the last element of a command that has the leave it needs hands
the command to the engine at the commit. -/
def EpushAddsAnElement : Prop :=
  ∀ (s : State) (a : RegIdx) (f : Fifo), Room s → Unbound s [a] →
    let y := (here s).reg a
    let input := ((s.slot s.cur).engine f).input
    let part := incomplete 8 input
    let header := (part.getD 0 y).bits
    input.length < 8 → (part = [] → headerValid f y = true) → (part ≠ [] → elementOk f header part.length y) →
    (part.length = headerLen header → ∀ l, leaveFor f header = some l → holdsLeave (s.slot s.cur) l = true) →
    (part.length = headerLen header → f = .e7 → StoresAnswered s) →
    exec (.epush a f) s = .next (did s 4 fun t =>
      (if part.length = headerLen header then
        t.hold s.cur (.command f (s.commandOf (here s).level (part ++ [y])))
      else t).modSlot s.cur fun x => x.setEngine f { x.engine f with input := (x.engine f).input ++ [y] })

/-- R157: `epop` takes the oldest result element, `epeek` reads it, or 0 where there is none; `estat` reads the FIFO. What the
engine has reported done and not yet performed is performed before the `epop` that reads of it (R171; log entry 72, DESIGN
CHOICE). -/
def EngineQueuesAreRead : Prop :=
  ∀ (s : State) (d : RegIdx) (f : Fifo), Room s → Unbound s [d] →
    let x := (s.slot s.cur).engine f
    (∀ e rest, x.output = e :: rest →
      let popped := fun t : State =>
        ((t.modSlot s.cur fun y => y.setEngine f { y.engine f with output := rest }).note s.cur (.result f e)).modCtx s.cur
          fun c => c.setReg d (Reg.data e)
      ((∀ c, s.taken s.cur f = some c → c.progress.late = []) → exec (.epop d f) s = .next (did s 4 popped)) ∧
      ∀ u, (popped (s.openSheaf s.cur)).settleLate s.cur f (some s.cur) = some u →
        exec (.epop d f) s = .next (u.advance s.cur 4 .seq)) ∧
    (x.output = [] → exec (.epop d f) s = .next (s.beginWait s.cur (.result f))) ∧
    exec (.epeek d f) s = .next (did s 4 fun t => t.modCtx s.cur fun c =>
      c.setReg d (Reg.data (x.output.head?.getD 0#128))) ∧
    exec (.estat d f) s = .next (did s 4 fun t => t.modCtx s.cur fun c => c.setReg d (Reg.data (q (x.status f))))

/-- R159: results enter the output queue whole and in order while they fit, and none is lost. -/
def ResultsReturnInOrder : Prop :=
  ∀ (s : State) (k : SlotId) (f : Fifo), s.event = .fifo k f →
    let e := (s.slot k).engine f
    let used := e.output.length + (s.slot k).sheaf.popped f
    ∃ t, exec .engineResultReturn s = .next t ∧
      let e' := (t.slot k).engine f
      e'.output ++ e'.waiting.flatten = e.output ++ e.waiting.flatten ∧ e'.input = e.input ∧ e'.taken = e.taken ∧
      (used ≤ 8 → e'.output.length + (s.slot k).sheaf.popped f ≤ 8) ∧
      (∀ r rest, e.waiting = r :: rest → used + r.length ≤ 8 → e.output ++ r <+: e'.output) ∧
      t.mem = s.mem ∧ ∀ j, j ≠ k → t.slot j = s.slot j

/-! ### Floating point and vectors (R188 to R209) -/

/-- A code in the low bits of d, zero above, with the flags of its rounding (R188). -/
def outCode (uses : List RegIdx) (d : RegIdx) (r : Nat × Flags) : Result :=
  ⟨4, uses, d, Reg.data (BitVec.ofNat 128 r.1), r.2⟩

/-- Truncation toward zero into an integer type, saturated: NV where that changes it, else NX where it was inexact (R41). -/
def truncated (t : ElemType) : Value → Int × Flags
  | .nan _ => (0, Flags.nv)
  | .inf neg => (if neg then (intBounds t).1 else (intBounds t).2, Flags.nv)
  | .num neg n d =>
    let v : Int := if neg then -((n / d : Nat) : Int) else (n / d : Nat)
    if v < (intBounds t).1 then ((intBounds t).1, Flags.nv)
    else if (intBounds t).2 < v then ((intBounds t).2, Flags.nv)
    else (v, if n % d = 0 then 0#6 else Flags.nx)

/-- R193 to R197: the scalar floating-point instructions. -/
def float (c : Ctx) (i : Instr) : Option Result :=
  let x (t : ElemType) (r : RegIdx) : Nat := ((c.reg r).bits.extractLsb' 0 (elemBits t)).toNat
  let v (t : ElemType) (r : RegIdx) : Value := laneValue t (x t r)
  let m := c.frnd
  match i with
  | .fadd d a b t => some (outCode [d, a, b] d ((fmtOf t).add m (v t a) (v t b)))
  | .fsub d a b t => some (outCode [d, a, b] d ((fmtOf t).add m (v t a) (v t b).neg))
  | .fmul d a b t => some (outCode [d, a, b] d ((fmtOf t).mul m (v t a) (v t b)))
  | .fdiv d a b t => some (outCode [d, a, b] d ((fmtOf t).div m (v t a) (v t b)))
  | .fsqrt d a t => some (outCode [d, a] d ((fmtOf t).sqrt m (v t a)))
  | .fma d a b t => some (outCode [d, a, b] d ((fmtOf t).fma m (v t a) (v t b) (v t d)))
  | .fms d a b t => some (outCode [d, a, b] d ((fmtOf t).fma m (v t a) (v t b) (v t d).neg))
  | .fnma d a b t => some (outCode [d, a, b] d ((fmtOf t).fma m (v t a).neg (v t b) (v t d)))
  | .fmin d a b t => some (outCode [d, a, b] d ((fmtOf t).minNum (x t a) (x t b)))
  | .fmax d a b t => some (outCode [d, a, b] d ((fmtOf t).maxNum (x t a) (x t b)))
  | .fabs d a t => some (outCode [d, a] d (((c.reg a).bits.extractLsb' 0 (elemBits t - 1)).toNat, 0#6))
  | .fneg d a t => some (outCode [d, a] d (x t a ^^^ 2 ^ (elemBits t - 1), 0#6))
  | .fcvt d a t u => some (outCode [d, a] d ((fmtOf t).convert m (v u a)))
  | .icvtf d a t u => some (outCode [d, a] d ((fmtOf t).convert m (v u a)))
  | .fcvti d a t true u => some ⟨4, [d, a], d, Reg.data (wr64 (truncated t (v u a)).1), (truncated t (v u a)).2⟩
  | .fcvti d a t false u => some ⟨4, [d, a], d, Reg.data (wr64 (toInteger t m (v u a)).1), (toInteger t m (v u a)).2⟩
  | .fclass d a t => some ⟨4, [d, a], d, Reg.data (BitVec.ofNat 128 (fclassBits t (x t a))), 0#6⟩
  | .fcmp d a b t =>
    let nan := (v t a).isNan || (v t b).isNan
    let o := (v t a).order (v t b)
    some ⟨4, [d, a, b], d, Reg.data (BitVec.ofNat 128 (if nan then 0x42 else if o = .eq then 0x19 else if o = .lt then 0x16 else 0x2A)),
      if (v t a).signalling || (v t b).signalling then Flags.nv else 0#6⟩
  | _ => none

/-- A vector result: 128 bits and the flags of all lanes. -/
def outVec (uses : List RegIdx) (d : RegIdx) (r : Q × Flags) : Option Result := some ⟨4, uses, d, Reg.data r.1, r.2⟩

/-- The lanes of a register in a type, lane 0 first (R51, R198). -/
def lanes (t : ElemType) (x : Q) : List Nat := (List.range (128 / elemBits t)).map fun i => bits x (elemBits t * i) (elemBits t)

/-- A register from lanes of a type and their flags. -/
def packed (t : ElemType) (l : List (Nat × Flags)) : Q × Flags :=
  (BitVec.ofNat 128 (ofLanes (elemBits t) (l.map Prod.fst)), l.foldl (fun a r => a ||| r.2) 0#6)

/-- A lane result of an integer type, wrapped, without flags. -/
def wrapped (t : ElemType) (v : Int) : Nat × Flags := ((v % 2 ^ elemBits t).toNat, 0#6)

/-- R199 to R205, R207, with no operand bound to a port: what the vector instructions write. -/
def vectors (c : Ctx) (i : Instr) : Option Result :=
  let x (r : RegIdx) : Q := (c.reg r).bits
  let m := c.frnd
  let two (t : ElemType) (a b : RegIdx) (f g : Nat → Nat → Nat × Flags) : Q × Flags :=
    packed t ((lanes t (x a)).zipWith (if isFloat t then f else g) (lanes t (x b)))
  let one (t : ElemType) (a : RegIdx) (f : Nat → Nat × Flags) : Q × Flags := packed t ((lanes t (x a)).map f)
  let fv (t : ElemType) (n : Nat) : Value := (fmtOf t).decode n
  let special (f : SpecialFn) (t : ElemType) (a : RegIdx) := one t a fun n => f.lane t m n 0 0
  if c.run.isSome then none
  else
  match i with
  | .vadd d a b t => outVec [d, a, b] d
      (two t a b (fun x y => (fmtOf t).add m (fv t x) (fv t y)) fun x y => wrapped t (laneInt t x + laneInt t y))
  | .vsub d a b t => outVec [d, a, b] d
      (two t a b (fun x y => (fmtOf t).add m (fv t x) (fv t y).neg) fun x y => wrapped t (laneInt t x - laneInt t y))
  | .vmul d a b t => outVec [d, a, b] d
      (two t a b (fun x y => (fmtOf t).mul m (fv t x) (fv t y)) fun x y => wrapped t (laneInt t x * laneInt t y))
  | .vmin d a b t => outVec [d, a, b] d
      (two t a b (fun x y => (fmtOf t).minNum x y) fun x y => (if laneInt t x < laneInt t y then x else y, 0#6))
  | .vmax d a b t => outVec [d, a, b] d
      (two t a b (fun x y => (fmtOf t).maxNum x y) fun x y => (if laneInt t x > laneInt t y then x else y, 0#6))
  | .vfma d a b t => outVec [d, a, b] d (laneWise t (vfmaLane t) m (x a) (x b) (x d))
  | .vscale d a b t => outVec [d, a, b] d
      (one t a fun n => (fmtOf t).mul m (laneValue t n) (scaled false 1 (clamp (-1024) 1024 (s64 (x b))).1))
  | .vdot d a b t => outVec [d, a, b] d (vdotOf t m (x a) (x b) (x d))
  | .vsum d a t => outVec [d, a] d (vsumOf t m (x a) 0#128 (x d))
  | .vrmax d a t => outVec [d, a] d (vrmaxOf t m (x a) 0#128 (x d))
  | .vamax d a t => outVec [d, a] d (vamaxOf t m (x a) 0#128 (x d))
  | .vcvt d a t u => outVec [d, a] d (packed t (((lanes u (x a)).take (lanesOf t)).map (convertLane t u m)))
  | .vpack d a b t => outVec [d, a, b] d
      (packed t ((lanes (packFrom t) (x a) ++ lanes (packFrom t) (x b)).map (packLane t (packFrom t) m)))
  | .vunpack d a t h u =>
    let l := lanes u (x a)
    let half := l.length / 2
    outVec [d, a] d (packed t ((if h then l.drop half else l.take half).map (unpackLane t u m)))
  | .vcmp d a b t => outVec [d, a, b] d (packed t ((lanes t (x a)).zipWith (fun x y => vcmpLane t m x y 0) (lanes t (x b))))
  | .vsel d a b t => outVec [d, a, b] d (packed t ((List.range (128 / elemBits t)).map fun i =>
      let at_ (r : RegIdx) : Nat := bits (x r) (elemBits t * i) (elemBits t)
      (if at_ b = 0 then at_ d else at_ a, 0#6)))
  | .vshuf d a b t => outVec [d, a, b] d (one t b fun j => ((lanes t (x a)).getD j 0, 0#6))
  | .vbcast d a t => outVec [d, a] d (packed t (List.replicate (128 / elemBits t) (bits (x a) 0 (elemBits t), 0#6)))
  | .vexp2 d a t => outVec [d, a] d (special .exp2 t a)
  | .vlog2 d a t => outVec [d, a] d (special .log2 t a)
  | .vrcp d a t => outVec [d, a] d (special .rcp t a)
  | .vrsqrt d a t => outVec [d, a] d (special .rsqrt t a)
  | .vtanh d a t => outVec [d, a] d (special .tanh t a)
  | .vsin d a t => outVec [d, a] d (special .sin t a)
  | _ => none

/-- An element that a whole-run instruction stores through a write port over LM (R191). -/
def storedElement (p : Fin 8) (s : State) (v : Q) : State :=
  let x := s.port p
  match x.bound with
  | some (.pattern pat) =>
    let n := pat.itemBytes
    let items := pat.elementItems x.moved
    let s := (items.zip (upFrom 0 items.length)).foldl (fun s (m : Nat × Nat) =>
      ((s.arriveBeside (some s.cur) (s.nearLoc (pat.itemAddr m.1)) n).getD s).store 0#10 (s.nearLoc (pat.itemAddr m.1))
        (leBytes n (bits v (8 * n * m.2) (8 * n))) false) s
    s.setPort p { x with moved := x.moved + 1 }
  | _ => s

/-- No other slot holds the vector datapath or the special-function unit (R192). -/
abbrev UnitsFree (s : State) : Prop := ∀ special h, s.unitHold special = some h → h.slot = s.cur

/-- A whole-run instruction at its last step: every element of a is popped, its slot holds the unit, no sheaf of another slot
is solo (R191, R192), and no store of the core's own is on its way through its remote window (R171; log entry 71, DEDUCED). -/
abbrev RunIsWhole (s : State) (r : Run) : Prop :=
  (here s).run = some r ∧ r.popped.length = r.left ∧ (∃ n, s.unitHold false = some ⟨s.cur, n⟩) ∧
    (∀ k, k ≠ s.cur → (s.slot k).sheaf.solo = false) ∧ s.windowFlies 0 (2 ^ 100) = false

/-- The run in which a vector instruction stands: its own, or the one that its port `p` of `n` elements to move begins (R190). -/
def runNow (s : State) (p : RegIdx) (n : Nat) : Run :=
  (here s).run.getD ⟨(here s).pc, n, (here s).frnd, false, [portOf p], []⟩

/-- The registers with which an iteration computes: none where no iteration is left. -/
def iterating (s : State) (p : RegIdx) (n : Nat) : Ctx := { here s with run := none, frnd := (runNow s p n).mode }

/-- Of the registers that an instruction uses, `p` alone is a port of its run: bound when the run begins, whatever is bound or
freed later (R190). -/
def OnlyPort (s : State) (uses : List RegIdx) (p : RegIdx) : Prop :=
  match (here s).run with
  | none => ∀ g ∈ uses, g ≠ p → s.streamed g = false
  | some x => ∀ g ∈ uses, among x.ports g = decide (g = p)

/-- After an iteration the slot stands at its instruction while iterations are left, and goes on after the last (R191). -/
abbrev WentOn (s u : State) (p : RegIdx) (n : Nat) : Prop :=
  if 1 < (runNow s p n).left then
    (u.ctx s.cur).run = some { runNow s p n with left := (runNow s p n).left - 1 } ∧ (u.ctx s.cur).code = (here s).code
  else (u.ctx s.cur).run = none ∧
    ((here s).drill = none → (u.ctx s.cur).pc = ((here s).pc + (here s).unitBytes 4) % 2 ^ 72)

/-- The special functions have a unit of their own (R192). -/
def ofSpecial (i : Instr) : Bool :=
  match i with
  | .vexp2 _ _ _ | .vlog2 _ _ _ | .vrcp _ _ _ | .vrsqrt _ _ _ | .vtanh _ _ _ | .vsin _ _ _ => true
  | _ => false

/-- The vector instructions that read d as a source (R189). -/
def readsOwnDest (i : Instr) : Bool :=
  match i with
  | .vfma _ _ _ _ | .vdot _ _ _ _ | .vsum _ _ _ | .vrmax _ _ _ | .vamax _ _ _ | .vsel _ _ _ _ => true
  | _ => false

/-- The port after `n` of its elements have been popped (R149). -/
def taken (p : Fin 8) : Nat → State → State
  | 0, s => s
  | n + 1, s =>
    let x := s.port p
    taken p n ((s.setPort p { x with moved := x.moved + 1, fetched := x.fetched.drop 1 }).scheduleOnce .streamElementFetch (.port p))

/-- The state after that step: flags raised, `f` stored, the sheaf ended. -/
def ranWhole (s : State) (fl : Flags) (f : State → State) : State :=
  ((f ((s.openSheaf s.cur).modCtx s.cur fun c => c.raiseFlags fl)).advance s.cur 4 .seq).commit s.cur

/-- The elements that `vquant` stores to d and to b for 16 blocks: the codes and the scale bytes (R208). -/
def quantElements (t : ElemType) (g : List (List Nat × Nat × Flags)) : List Q × Q :=
  ((g.map fun r => (groups (if t = .mxf4 then 32 else 16) 2 r.1).map fun c => q (ofLanes (elemBits t) c)).flatten,
    q (ofLanes 8 (g.map fun r => r.2.1)))

/-- R188, R193 to R197: the floating-point instructions complete with the code or the number and the flags of their rule. -/
def FloatResults : Prop := Completes float

/-- R199 to R205, R207: outside stream-run mode the vector instructions act lane by lane, or reduce, as their rule says. -/
def VectorResults : Prop :=
  ∀ (s : State) (i : Instr) (r : Result), Room s → vectors (here s) i = some r → Unbound s r.uses → UnitsFree s →
    exec i s = .next (ran s r.len r.put)

/-- R189 to R192: an instruction of the vector families in stream-run mode performs one iteration a step, each with the
result of its rule, and stands at its instruction until the last. From a read port, over a pattern or a channel, an iteration
pops the next element; to a write port, over a pattern or a channel, it pushes its result. Which registers are ports is fixed
as the run begins. -/
def VectorRunsIterate : Prop :=
  (∀ (s : State) (i : Instr) (p : RegIdx) (e : Element) (rest : List Element) (r : Result),
    let x := s.port (portOf p)
    let n := x.trip - x.moved
    vectors ((iterating s p n).setReg p (Reg.data e.bits)) i = some r → 24 ≤ p.val → r.uses.count p = 1 → p ≠ r.d →
    OnlyPort s r.uses p →
    Room s → UnitsFree s → x.bound.isSome = true → x.owner = some s.cur → x.write = false → x.moved < x.trip →
    x.fetched = e :: rest → e.bad = none → s.netLacks (s.creditsFor x [x.moved]) = false →
    ∃ u, exec i s = .next u ∧ WentOn s u p n ∧
      (u.ctx s.cur).reg r.d = (if r.d = 0 then Reg.null else r.value) ∧
      (u.ctx s.cur).fstat = (here s).fstat ||| r.flags ∧
      (u.port (portOf p)).moved = x.moved + 1 ∧ (u.port (portOf p)).fetched = rest) ∧
  ∀ (s v : State) (i : Instr) (r : Result),
    let x := s.port (portOf r.d)
    let n := x.trip - x.moved
    vectors (iterating s r.d n) i = some r → readsOwnDest i = false → 24 ≤ r.d.val → r.uses.count r.d = 1 →
    OnlyPort s r.uses r.d →
    Room s → UnitsFree s → x.bound.isSome = true → x.owner = some s.cur → x.write = true → x.moved < x.trip →
    pushPort (portOf r.d) r.value.bits
      (((s.openSheaf s.cur).holdUnit s.cur (ofSpecial i)).modCtx s.cur fun c => c.raiseFlags r.flags) = .ok () v →
    ∃ u, exec i s = .next u ∧ WentOn s u r.d n ∧ (u.ctx s.cur).fstat = (here s).fstat ||| r.flags ∧
      u.port (portOf r.d) = { x with moved := x.moved + 1, undrained := x.undrained + 1 } ∧
      (v.windowsHeld s.cur ≤ s.windowsHeld s.cur → (u.slot s.cur).sheaf.held = (v.slot s.cur).sheaf.held)

/-- R206: at its last step `vtopk` stores the ranked values with their indices, and raises NV for a signalling NaN. -/
def VtopkStoresTheRanking : Prop :=
  ∀ (s : State) (d a b : RegIdx) (r : Run), Room s → RunIsWhole s r →
    let y := ((here s).reg b).bits
    let vs := topkValues (bits y 32 32) r.popped
    exec (.vtopk d a b) s = .next (ranWhole s (if vs.any fun v => v.1.signalling then Flags.nv else 0#6) fun t =>
      (topkElements (Nat.min (bits y 0 9) vs.length) (vs.foldr insertRank [])).foldl
        (storedElement (portOf d)) t)

/-- R206: the ranking holds every value once with its index, which counts on from BASE mod 2^32, and no value stands after one
that it ranks before. -/
def TheRankingIsOrdered : Prop :=
  ∀ (base : Nat) (l : List Q), (∀ m x, (topkValues base l)[m]? = some x → x.2.1 = (base + m) % 2 ^ 32) ∧
    ((topkValues base l).foldr insertRank []).Perm (topkValues base l) ∧
    ((topkValues base l).foldr insertRank []).IsChain fun x y => ranksBefore (y.1, y.2.1) (x.1, x.2.1) = false

/-- R208: at its last step `vquant` stores, for every 16 blocks, their codes to d and their scale bytes to b. -/
def VquantStoresCodesAndScales : Prop :=
  ∀ (s : State) (d a b : RegIdx) (t : ElemType) (r : Run), Room s → RunIsWhole s r →
    let rs := (blocksOf r.popped).map (quantBlock t r.mode)
    exec (.vquant d a b t) s = .next (ranWhole s (rs.foldl (fun a r => a ||| r.2.2) 0#6) fun u =>
      (groups 16 rs.length rs).foldl (fun u g =>
        storedElement (portOf b) ((quantElements t g).1.foldl (storedElement (portOf d)) u) (quantElements t g).2) u)

/-- R209: at its last step `vdeq` pops its scale elements from b and stores the FP32 values of the codes under them. -/
def VdeqStoresTheValues : Prop :=
  ∀ (s : State) (d a b : RegIdx) (t : ElemType) (r : Run) (pat : Pattern) (sc rest : List Element),
    Room s → RunIsWhole s r →
    let per := if t = .mxf4 then 1 else 2
    let blocks := r.popped.length / per
    let x := s.port (portOf b)
    x.owner = some s.cur → x.write = false → x.bound = some (.pattern pat) →
    x.fetched = sc ++ rest → sc.length = (blocks + 15) / 16 → (∀ e ∈ sc, e.bad = none) → x.moved + sc.length ≤ x.trip →
    let rs := ((groups per blocks r.popped).zip (scaleBytes blocks (sc.map Element.bits))).map fun c =>
      deqBlock t r.mode c.2 ((c.1.map (lanesIn t)).flatten)
    exec (.vdeq d a b t) s = .next (ranWhole s (rs.flatten.foldl (fun a r => a ||| r.2) 0#6) fun u =>
      (rs.map fun r => (groups 4 8 r).map fun g => q (ofLanes 32 (g.map Prod.fst))).flatten.foldl (storedElement (portOf d))
        (taken (portOf b) sc.length u))

/-! ### Tasks, messages and the scheduler (R212 to R245) -/

/-- The state after an instruction that ends its sheaf and then changes the machine by `f`. -/
def after (s : State) (f : State → State) (g : Go := .seq) : State :=
  ((f ((s.openSheaf s.cur).commitWithin s.cur)).advance s.cur 4 g).commit s.cur

/-- The state after an instruction that changes the machine by `f`, ends its sheaf and waits in it. -/
def standing (s : State) (f : State → State) (w : Wait) : State :=
  ((f (s.openSheaf s.cur)).commit s.cur).modCtx s.cur fun c => { c with wait := some ⟨w, c.pc⟩, guarded := none }

/-- A register names a core (R237 step 2). -/
abbrev Names (s : State) (a : RegIdx) (dst : CoreId) : Prop :=
  let c := (here s).reg a
  let at_ := addrOf c.bits
  capFault c [.remote] at_ 1 = none ∧ regionOf at_ = 0xE ∧ fld at_ 53 2 = 0 ∧ remoteLayout at_ = true ∧
    dst = remoteCore at_ ∧ s.inSubmesh s.core.tenant dst = true

/-- A message of the issuing slot (Table 14.6). -/
def outgoing (s : State) (kind : Fin 8) (flits : Fin 16) (cls : BitVec 8) (c : Q) (dst : CoreId) (payload : List Byte) : Held :=
  .message ⟨kind, flits, cls, pkeyOf c, s.core.tenant, s.core.id, dst, (here s).spec, payload⟩

/-- A register that gives an access with the permissions `ps` to `n` bytes of this core's LM at `off`, aligned to `al`. -/
abbrev NearLm (s : State) (a : RegIdx) (ps : List Perm) (n al off : Nat) : Prop :=
  let c := (here s).reg a
  capFault c ps (addrOf c.bits) n = none ∧ addrOf c.bits % al = 0 ∧ addrOf c.bits = 0xD * 2 ^ 68 + off ∧ off + n ≤ 2 ^ 18

/-- A write of `n` bytes of LM held in the sheaf. -/
def wrote (t : State) (loc n v : Nat) : State := (tracked t loc n true).hold t.cur (.write loc (leBytes n v) false 0#10)

/-- A task record as the issuing slot sees it. -/
def seenRecord (s : State) (off : Nat) : Nat := ofBytes (s.seenBytes s.cur (s.lm off) 32)

/-- Byte 29 of a record: ARMED, QUEUED, and its bits [239:234] (Table 14.4). -/
def marks (r : Nat) (armed queued : Bool) : Nat := r / 2 ^ 234 % 2 ^ 6 * 4 + (if queued then 2 else 0) + if armed then 1 else 0

/-- A descriptor that `spawn` and `stage` take (R238). -/
abbrev goodDescriptor (y : Q) : Prop := bits y 24 8 = 0 ∧ bits y 0 1 = 0

/-- Field `i` of a layout: POS, LEN and SX, and its limits (R243). -/
def pos (l : Q) (i : Nat) : Nat := bits l (16 * i) 7
def len (l : Q) (i : Nat) : Nat := bits l (16 * i + 7) 6
def signed_ (l : Q) (i : Nat) : Bool := l.getLsbD (16 * i + 13)
abbrev layoutOk (l : Q) : Prop :=
  ∀ i, i < 8 → bits l (16 * i + 14) 2 = 0 ∧ len l i ≤ 16 ∧ (0 < len l i → pos l i + len l i ≤ 128)

/-- Layout `j` of those that lie at `hlbase` (R243). -/
def layoutAt (s : State) (j : Nat) : Q :=
  BitVec.ofNat 128 (ofBytes (s.seenBytes s.cur (s.lm (tableOffset s.core.hlbase) + 16 * j) 16))

/-- The last field of a layout that covers bit `k`. -/
def covers (l : Q) (k : Nat) : Option Nat := [7, 6, 5, 4, 3, 2, 1, 0].find? fun i => decide (pos l i ≤ k ∧ k < pos l i + len l i)

/-- `send`, `sendv` (R237). -/
def Sends : Prop := ∀ (s : State) (r a b : RegIdx) (dst : CoreId),
  Room s → s.netFull = false → Names s a dst → Unbound s [r, a, b] →
  let c := ((here s).reg a).bits
  let y := ((here s).reg b).bits
  let w := n64 ((here s).reg r).bits
  (w < 2 ^ 8 → exec (.send r a b) s = .next (did s 4 fun t =>
    t.hold s.cur (outgoing s 0 0 (BitVec.ofNat 8 w) c dst (leBytes 16 y.toNat)))) ∧
  (∀ off, w < 2 ^ 13 →
    (fld w 12 1 = 1 → (here s).level ≠ .user ∧ s.isServer s.core.id = true ∧ fld w 8 4 = 1 ∧ fld w 0 8 = 0) →
    NearLm s b [.load] (16 + 32 * fld w 8 4) 16 off → Fits s (s.lm off) (16 + 32 * fld w 8 4) false →
    exec (.sendv r a b) s = .next (did s 4 fun t =>
      (tracked t (s.lm off) (16 + 32 * fld w 8 4) false).hold s.cur (outgoing s (if fld w 12 1 = 1 then 6 else 0)
        (Fin.ofNat 16 (fld w 8 4)) (BitVec.ofNat 8 w) c dst (s.seenBytes s.cur (s.lm off) (16 + 32 * fld w 8 4)))))

/-- `spawn` (R238). -/
def Spawns : Prop := ∀ (s : State) (d a b : RegIdx), Room s →
  (∀ dst, s.netFull = false → Names s a dst → Unbound s [d, a, b] → (here s).wait = none →
    goodDescriptor ((here s).reg b).bits →
    exec (.spawn d a b) s = .next (standing s (fun t =>
      (t.hold s.cur (outgoing s 1 0 0#8 ((here s).reg a).bits dst (leBytes 16 ((here s).reg b).bits.toNat))).modCore fun c =>
        { c with spawned := c.spawned ++ [⟨dst, s.cur, none⟩] }) (.spawn none))) ∧
  (∀ v pc, (here s).wait = some ⟨.spawn (some v), pc⟩ → Unbound s [d, a, b] →
    exec (.spawn d a b) s = .next (ran s 4 fun c => c.setReg d (Reg.data (wr64 v.toNat))))

/-- `tdec` (R239). -/
def Decrements : Prop := ∀ (s : State) (a b : RegIdx), Room s → Unbound s [a, b] →
  let c := (here s).reg a
  let n := n64 ((here s).reg b).bits
  0 < n → n ≤ 65535 →
  (∀ dst, s.netFull = false → capFault c [.store, .remote] (addrOf c.bits) 32 = none → addrOf c.bits % 32 = 0 → Names s a dst →
    exec (.tdec a b) s = .next (did s 4 fun t =>
      t.hold s.cur (outgoing s 3 0 0#8 c.bits dst (leBytes 16 (fld (addrOf c.bits) 0 18 + n * 2 ^ 32))))) ∧
  (∀ off, NearLm s a [.store] 32 32 off → Fits s (s.lm off) 32 true → s.ringFree = true →
    exec (.tdec a b) s = .next (did s 4 fun t => (tracked t (s.lm off) 32 true).hold s.cur (.tdec off n)))

/-- `tarm` and `tarm.sp` (R240). -/
def Arms : Prop := ∀ (s : State) (a b : RegIdx) (off : Nat), Room s → Unbound s [a, b] →
  NearLm s a [.store] 32 32 off → Fits s (s.lm off) 32 true → s.ringFree = true →
  let r := seenRecord s off
  let v := s64 ((here s).reg b).bits
  let seen (t : State) := tracked t (s.lm off) 32 false
  recValid r = true → recQueued r = false →
  (recChannel r = false → -(2 ^ 31 : Int) ≤ v → v < (2 ^ 31 : Int) →
    exec (.tarm a b) s = .next (did s 4 fun t =>
      let u := wrote (wrote (seen t) (s.lm off) 4 (v % (2 ^ 32 : Int)).toNat) (s.lm (off + 29)) 1
        (marks r (decide (0 < v)) (decide (v ≤ 0)))
      if v ≤ 0 then u.hold s.cur (.queue off 0) else u)) ∧
  (recChannel r = true → n64 ((here s).reg b).bits ≤ 1 →
    exec (.tarm a b) s = .next (did s 4 fun t =>
      (wrote (seen t) (s.lm (off + 29)) 1 (marks r (n64 ((here s).reg b).bits == 0) false)).hold s.cur
        (.arm off (n64 ((here s).reg b).bits == 0)))) ∧
  (recChannel r = false →
    exec (.tarmSp a) s = .next (did s 4 fun t =>
      (wrote (seen t) (s.lm (off + 29)) 1 (marks r (recArmed r) true)).hold s.cur (.queue off 3)))

/-- `tself` and `tend` (R241). -/
def Ends : Prop := ∀ (s : State) (d : RegIdx), Room s →
  (Unbound s [d] → exec (.tself d) s = .next (ran s 4 fun c =>
    c.setReg d (Reg.data (((here s).firing.map Firing.entry).getD 0#128)))) ∧
  (∀ f, (here s).level = .user → (here s).firing = some f → (f.recorded = true → entryKind f.entry ≠ 2) →
    s.core.armed = [] → (s.slot s.cur).sheaf.held = [] → entryRec f.entry % 32 = 0 →
    ∃ t, exec .tend s = .next t ∧ (t.slot s.cur).isFree = true ∧ t.core.ports = s.core.ports ∧
      (∀ r, (t.ctx s.cur).reg r = (here s).reg r) ∧ (∀ j, j ≠ s.cur → t.slot j = s.slot j) ∧
      (f.recorded = true → recRun (t.lmNat (entryRec f.entry) 32) = false) ∧
      (∀ p, f.recv = some p → p ∉ t.core.received) ∧ (t.slot s.cur).grant = none)

/-- `tend` of a channel task whose counts hold, each channel used once (R241). -/
def EndsChannelTasks : Prop := ∀ (s : State) (f : Firing), Room s →
  let off := entryRec f.entry
  let r := seenRecord s off
  (here s).level = .user → (here s).firing = some f → f.recorded = true → entryKind f.entry = 2 →
  Fits s (s.lm off) 32 false → ((recIns r).map Prod.fst ++ (recOuts r).map Prod.fst).Nodup →
  s.netLacks ((recIns r ++ recOuts r).filter fun x => !(s.handle x.1).engine).length = false →
  (∀ x ∈ recIns r, usable (s.handle x.1) false ∧ x.2 ≤ (s.handle x.1).avail) →
  (∀ x ∈ recOuts r, usable (s.handle x.1) true ∧ x.2 ≤ (s.handle x.1).avail) →
  ∃ t, exec .tend s = .next t ∧ (t.slot s.cur).isFree = true ∧ ∀ x ∈ recIns r ++ recOuts r,
    t.handle x.1 = { s.handle x.1 with
      avail := (s.handle x.1).avail - x.2, pos := ((s.handle x.1).pos + x.2) % 2 ^ (s.handle x.1).countlog }

/-- `stage` (R242), where no other sheaf holds the place of the entry. -/
def Stages : Prop := ∀ (s : State) (d a b : RegIdx) (g : Fin 16), Room s → Unbound s [d, a, b] → d ≠ 0 →
  n64 ((here s).reg a).bits = g.val → goodDescriptor ((here s).reg b).bits →
  let x := s.cluster.stages.get g
  let place := cmLoc s.core.id (0x3F0000 + 4096 * g.val + 16 * ((x.head + x.count) % 256))
  (∀ j, j ≠ s.cur → (s.slot j).sheaf.touches (sectorsOf place 16) = false) →
  (256 ≤ x.count → ∃ t, exec (.stageTask d a b) s = .next t ∧ (t.ctx s.cur).reg d = Reg.data 1#128 ∧
    t.cluster.stages = s.cluster.stages) ∧
  (x.count < 256 → ∃ t, exec (.stageTask d a b) s = .next t ∧ (t.ctx s.cur).reg d = Reg.data 0#128 ∧
    t.cluster.stages.get g = ⟨x.count + 1, x.head⟩ ∧ qOfBytes (t.bytes place 16) = ((here s).reg b).bits)

/-- `bar` (R232), and `wdog` (R233). -/
def BarriersAndWatchdog : Prop := ∀ (s : State) (n : Fin 4), Room s →
  exec .wdog s = .next (did s 4 fun t => t.modCore fun c => { c with wdg := { c.wdg with count := 0 } }) ∧
  ((here s).level ≠ .user ∨ s.isServer s.core.id = true ∨ s.core.kernel = none →
    exec (.bar n) s = .next (trapped s 4 0x211 (q (ownAddr (here s)).toNat) 0#128)) ∧
  (∀ k, (here s).level = .user → s.isServer s.core.id = false → s.core.kernel = some k →
    let b := s.core.barriers.get n
    ((here s).wait = none → exec (.bar n) s = .next (standing s (fun t =>
      (if k.spansDies then t.hold s.cur .release else t).modCore fun c =>
        { c with barriers := c.barriers.set n.val { b with arrived := true } n.isLt }) (.barrier n b.phase))) ∧
    (∀ p pc, (here s).wait = some ⟨.barrier n p, pc⟩ → p < b.phase →
      (k.spansDies = true → ∀ j, j ≠ s.cur → (s.slot j).sheaf.solo = false) →
      exec (.bar n) s = .next (after s fun t => if k.spansDies then t.acquire (some t.cur) else t)))

/-- `hlay` (R243). -/
def LoadsLayouts : Prop := ∀ s : State, Room s →
  let off := tableOffset s.core.hlbase
  off + 128 ≤ 2 ^ 18 → Fits s (s.lm off) 128 false →
  ((∀ j, j < 8 → layoutOk (layoutAt s j)) → exec .hlay s = .next (did s 4 fun t =>
    (tracked t (s.lm off) 128 false).modCore fun c => { c with layouts := Vector.ofFn fun j : Fin 8 => layoutAt s j.val })) ∧
  (∀ j, j < 8 → ¬ layoutOk (layoutAt s j) → (∀ i, i < j → layoutOk (layoutAt s i)) →
    exec .hlay s = .next (trapped s 4 0x215 (q j) (q (n64 (layoutAt s j)))))

/-- `hpack` and `hparse` (R243). -/
def PacksAndParses : Prop := ∀ (s : State) (d a : RegIdx) (n : Fin 8), Room s → Unbound s [d, a] →
  let l := s.core.layouts.get n
  layoutOk l →
  (∃ v : Q, exec (.hpack d a n) s = .next (ran s 4 fun c => c.setReg d (Reg.data v)) ∧
    ∀ k, k < 128 → v.getLsbD k = match covers l k with
      | some i => ((here s).reg a).bits.getLsbD (16 * i + (k - pos l i))
      | none => ((here s).reg d).bits.getLsbD k) ∧
  (∃ v : Q, exec (.hparse d a n) s = .next (ran s 4 fun c => c.setReg d (Reg.data v)) ∧
    ∀ i, i < 8 → v.extractLsb' (16 * i) 16 =
      let f := ((here s).reg a).bits.extractLsb' (pos l i) (len l i)
      if signed_ l i then f.signExtend 16 else f.setWidth 16)

/-- The furrow from which the next queued task is taken, and the run that it continues (R221). -/
abbrev FurrowNext (s : State) (f runs : Nat) : Prop :=
  let holds (g : Nat) : Prop := ∃ x ∈ s.core.ring, x.furrow = g ∧ s.takeable x = true
  (holds s.core.cf ∧ s.core.runs < 256 ∧ f = s.core.cf ∧ runs = s.core.runs) ∨
  (¬ (holds s.core.cf ∧ s.core.runs < 256) ∧ runs = 0 ∧
    ∃ n, 1 ≤ n ∧ n ≤ 16 ∧ f = (s.core.cf + n) % 16 ∧ holds f ∧ ∀ m, 1 ≤ m → m < n → ¬ holds ((s.core.cf + m) % 16))

/-- The dispatcher gives tasks to slot `k`: the core runs, in no handoff and no scrub, and `k` is its first free slot. -/
abbrev GivesTo (s : State) (k : SlotId) : Prop :=
  s.core.mode = .running ∧ s.core.handoff = none ∧ s.core.scrubbing = false ∧ s.core.armed = [] ∧
  ∃ kn, s.core.kernel = some kn ∧ k.val < kn.slots ∧ (s.slot k).isFree = true ∧ ∀ j, j < k → (s.slot j).isFree = false

/-- DISPATCH (R218, R221). -/
def Dispatches : Prop := ∀ (s : State) (k : SlotId), GivesTo s k →
  let g : Fin 16 := Fin.ofNat 16 s.core.stg.toNat
  let staged := s.cluster.stages.get g
  (∀ f runs x, s.core.unplaced = [] → FurrowNext s f runs → (staged.count = 0 ∨ s.core.localRuns < 256) →
    s.core.ring.find? (fun y => y.furrow == f && s.takeable y) = some x → entryRec (s.placeEntry x.place) % 32 = 0 →
    ∃ t e, exec .dispatch s = .next t ∧ (t.slot k).starting = true ∧
      (t.ctx k).firing = some ⟨e, x.recorded, x.recv, x.bytes, s.core.farDecs.contains (entryRec (s.placeEntry x.place))⟩ ∧
      entryKind e = x.kind.val ∧
      t.core.ring = s.core.ring.filter (fun y => y.place != x.place) ∧
      t.core.cf = f ∧ t.core.runs = runs + 1 ∧ t.core.localRuns = s.core.localRuns + 1 ∧
      (x.recorded = true → recRun (t.lmNat (entryRec e) 32) = true ∧ recQueued (t.lmNat (entryRec e) 32) = false)) ∧
  (staged.count ≠ 0 → ((∀ x ∈ s.core.ring, s.takeable x = false) ∨ 256 ≤ s.core.localRuns) →
    ∃ t e, exec .dispatch s = .next t ∧ (t.slot k).starting = true ∧ (t.ctx k).firing = some ⟨e, false, none, 0, false⟩ ∧
      t.cluster.stages.get g = ⟨staged.count - 1, (staged.head + 1) % 256⟩ ∧ t.core.localRuns = 0 ∧
      let y := qOfBytes (s.bytes (cmLoc s.core.id (0x3F0000 + 4096 * g.val + 16 * (staged.head % 256))) 16)
      bits e 96 32 = bits y 64 32 ∧ bits e 64 32 = bits y 32 32 ∧ entryOffset e = bits y 0 24 ∧ entryKind e = 3 ∧ bits e 31 1 = 1)

/-- FIRING_START (R219), with the acquire of a start from another die (R139, R170), which another slot's solo sheaf puts off
(R178). -/
def FiringsStart : Prop := ∀ (s : State) (k : SlotId) (f : Firing) (kn : Kernel),
  s.event = .slot k → (s.slot k).starting = true → (s.ctx k).firing = some f → s.core.kernel = some kn →
  let far := s.startsFromAfar f
  let u := if far then s.acquire none else s
  (far = true → s.acquireWaits none = true → exec .firingStart s = .next (s.defer ⟨.firingStart, .slot k⟩)) ∧
  ((far = true → s.acquireWaits none = false) →
  ∃ t, exec .firingStart s = .next t ∧
    let c := t.ctx k
    c.firing = some f ∧ c.level = (if s.isServer s.core.id then .supervisor else .user) ∧
    c.pc = (headerAddr kn.code + entryOffset f.entry) % 2 ^ 72 ∧ c.code.tag = true ∧
    c.reg 2 = makeCap (Perm.mask [.load, .store, .loadcap, .storecap]) (0xD * 2 ^ 68) (0xD * 2 ^ 68 + kn.lmsize) ∧
    c.reg 3 = Reg.data (wr64 (signed 32 (bits f.entry 64 32))) ∧ c.reg 4 = Reg.data (wr64 (signed 32 (bits f.entry 96 32))) ∧
    c.reg 5 = (if f.recv.isSome = true ∨ (f.recorded = true ∧ entryKind f.entry ≠ 3) then
      makeCap (Perm.mask [.load, .store]) (0xD * 2 ^ 68 + entryRec f.entry)
        (0xD * 2 ^ 68 + entryRec f.entry + if f.recv.isSome then f.bytes else 32)
      else Reg.null) ∧
    (∀ r : RegIdx, r.val < 2 ∨ 5 < r.val → c.reg r = (u.ctx k).reg r) ∧ c.fstat = (u.ctx k).fstat ∧ c.frnd = (u.ctx k).frnd ∧
    c.wait = none ∧ t.mem = s.mem ∧ t.die = u.die ∧ ∀ j, j ≠ k → t.slot j = u.slot j)

/-- A field of the yoke block (Table 14.7). -/
def yokeField (s : State) (i lo n : Nat) : Nat :=
  fld (s.sysReg (sysAddr (dieOf s.core.id) (clusterOf s.core.id) 0 1 (8 * i))).toNat lo n

/-- A stage that may give one core, and one that may take one (R231). -/
abbrev gives (s : State) (g : Nat) : Prop :=
  s.occupancy g ≤ yokeField s (g + 1) 16 9 ∧ yokeField s (g + 1) 32 5 + 1 ≤ (s.coresIn g).length
abbrev takes (s : State) (a g : Nat) : Prop :=
  g ≠ a ∧ 0 < yokeField s (g + 1) 0 9 ∧ yokeField s (g + 1) 0 9 ≤ s.occupancy g ∧
    (s.coresIn g).length + 1 ≤ yokeField s (g + 1) 40 5

/-- YOKE_MOVE (R231): no move with EN clear, and with GRAIN 0 the move of the highest-numbered core of the giving stage. -/
def YokeMoves : Prop := ∀ s : State,
  (yokeField s 0 0 1 = 0 → exec .yokeMove s = .next s) ∧
  (∀ a b (i : Fin 16), yokeField s 0 0 1 = 1 → yokeField s 0 1 1 = 0 → a < 16 → b < 16 →
    gives s a → (∀ g, g < a → ¬ gives s g) →
    takes s a b → (∀ g, g < 16 → takes s a g → s.occupancy g < s.occupancy b ∨ (s.occupancy g = s.occupancy b ∧ b ≤ g)) →
    i ∈ s.coresIn a → (∀ j ∈ s.coresIn a, j ≤ i) → i.val ≠ coreOf s.core.id →
    exec .yokeMove s = .next (s.tick.modCluster fun c =>
      let n := c.cores.get i
      { c with cores := c.cores.set i.val (if s.tick.neighbourBusy i then { n with next := some (BitVec.ofNat 4 b) }
          else { n with stage := BitVec.ofNat 4 b, next := none }) i.isLt }))

/-- BARRIER_PHASE_COMPLETE (R232), SHEAF_COMMIT (R176, R286), SOLO_GRANT (R178), LINE_EVICTION (R400) and SCRUB_COMPLETE
(R214). -/
def SmallEvents : Prop := ∀ s : State,
  (∀ n : Fin 4, s.event = .barrier n → (s.core.barriers.get n).arrived = true →
    exec .barrierPhaseComplete s = .next (s.modCore fun c =>
      { c with barriers := c.barriers.set n.val ⟨false, (s.core.barriers.get n).phase + 1⟩ n.isLt })) ∧
  (∀ k, s.event = .slot k → s.core.mode = .halting → (s.ctx k).midRun = false → exec .sheafCommit s = .next (s.commit k)) ∧
  (∀ k rest, (∀ j, (s.slot j).sheaf.solo = false) → s.core.soloAsked = k :: rest →
    exec .soloGrant s = .next ((s.modSheaf k fun sh => { sh with solo := true }).modCore fun c => { c with soloAsked := rest })) ∧
  (∀ j, (s.slot j).sheaf.solo = true → exec .soloGrant s = .next s) ∧
  (∀ loc, s.event = .line loc → Table.get 0 s.die.pinned (loc / 256) ≠ 0 → exec .lineEviction s = .next s) ∧
  (∀ loc, s.event = .line loc → Table.get 0 s.die.pinned (loc / 256) = 0 →
    (∀ k, ∀ sec ∈ (s.slot k).sheaf.reads, sec / 8 ≠ loc / 256) → ∃ t, exec .lineEviction s = .next t ∧
    (∀ sec, sec / 8 = loc / 256 → t.copy sec = Copy.none) ∧ (∀ sec, sec / 8 ≠ loc / 256 → t.copy sec = s.copy sec) ∧
    t.core = { s.core with l1 := s.core.l1.filter fun l => l / 8 != loc / 256 } ∧
    ((∀ sec, sec / 8 = loc / 256 → (s.copy sec).dirty = 0#32) → t.mem = s.mem)) ∧
  ∃ t, exec .scrubComplete s = .next t ∧ t.core.scrubbing = false ∧ t.cluster.scrubbing = false ∧
    ⟨.dispatch, .plain⟩ ∈ t.agenda ∧ t.mem = s.mem ∧ t.core.slots = s.core.slots

/-- The clusters that a message passes: first along x, then along y (R225). -/
abbrev onRoute (m : Msg) (x y : Nat) : Prop :=
  (y = gridY m.src ∧ ((gridX m.src ≤ x ∧ x ≤ gridX m.dst) ∨ (gridX m.dst ≤ x ∧ x ≤ gridX m.src))) ∨
  (x = gridX m.dst ∧ ((gridY m.src ≤ y ∧ y ≤ gridY m.dst) ∨ (gridY m.dst ≤ y ∧ y ≤ gridY m.src)))

/-- MESSAGE_ROUTER_CHECK (R225, R226, R227): the messages to one core leave in their order. -/
def RoutersCheck : Prop := ∀ (s : State) (m : Msg), s.event = .msg m → m ∈ s.core.outgoing → m.dst = s.core.id →
  let before := s.core.outgoing.takeWhile fun x => x != m
  ((∃ x ∈ before, x.dst = m.dst) → exec .messageRouterCheck s = .next (s.schedule .messageRouterCheck (.msg m))) ∧
  ((∀ x ∈ before, x.dst ≠ m.dst) →
  ((∀ x y, onRoute m x y → s.inSubmesh m.tenant (BitVec.ofNat 13 (clusterAt x y)) = true) →
    exec .messageRouterCheck s = .next ((s.modCore fun c => { c with outgoing := c.outgoing.erase m }).schedule
      (arrival m.kind) (.msg m)).lookAtMessages) ∧
  ((∃ x y, onRoute m x y ∧ s.inSubmesh m.tenant (BitVec.ofNat 13 (clusterAt x y)) = false) →
    ∃ d, exec .messageRouterCheck s =
      .next ((s.modCore fun c => { c with outgoing := c.outgoing.erase m }).divertAt d m 0x209).lookAtMessages))

/-- A core that takes messages: it runs, no scrub and no handoff stands, and none of the sender's waits. -/
abbrev Receives (s : State) (m : Msg) (kind : Fin 8) : Prop :=
  s.event = .msg m ∧ m.kind = kind ∧ m.payload.length = 16 + 32 * m.flits.val ∧ m.dst = s.core.id ∧
  s.core.mode = .running ∧ s.core.scrubbing = false ∧ s.core.handoff = none ∧ s.core.kernel.isSome = true ∧
  (kind ≠ 2 → m.pkey = s.core.pkey) ∧ (∀ x ∈ s.core.arrived, x.src ≠ m.src) ∧
  (∀ k secs, (s.slot k).sheaf.touches secs = false) ∧
  ∀ k, ∀ w ∈ (s.ctx k).wait, ∀ n done, w.wait ≠ .idle n done

/-- The class table's word for a message (R228). -/
def classWord (s : State) (m : Msg) : Nat := s.lmNat (tableOffset s.core.clsbase + 4 * m.cls.toNat) 4

/-- MESSAGE_TASK (R215, R228). -/
def TaskMessages : Prop := ∀ (s : State) (m : Msg), Receives s m 0 →
  (classWord s m = 0 → exec .messageTask s = .next (s.divert m 0x202)) ∧
  (classWord s m ≠ 0 → s.ringFree = true → (∃ p, p < 256 ∧ ∀ x ∈ s.core.ring, x.place ≠ p) →
    (∃ p, p < 16 ∧ p ∉ s.core.received) → tableOffset s.core.rrbase + 12288 ≤ 2 ^ 18 →
    ∃ t p place, exec .messageTask s = .next t ∧ p < 16 ∧ p ∉ s.core.received ∧ t.core.received = s.core.received ++ [p] ∧
      t.core.ring = s.core.ring ++ [⟨place, 1, furrowOf (ofBytes m.payload % 2 ^ 32), false, m.src, false, some p, m.payload.length⟩] ∧
      t.bytes (s.lm (tableOffset s.core.rrbase + 4096 + 512 * p)) m.payload.length = m.payload)

/-- MESSAGE_SPAWN (R238): refused with its reason, or queued; both are answered, in a place of the interface (R227). -/
def SpawnMessages : Prop := ∀ (s : State) (m : Msg), Receives s m 1 → s.netFull = false →
  let answer (v : Nat) : Msg := ⟨2, 0, 0#8, 0#32, s.core.tenant, s.core.id, m.src, 0#12, leBytes 16 v⟩
  (∀ r, (r = 0 ∧ s.ringFree = false) ∨ (r = 1 ∧ s.ringFree = true ∧ s.core.tenant ≠ m.tenant) ∨
      (r = 2 ∧ s.ringFree = true ∧ s.core.tenant = m.tenant ∧ s.isServer s.core.id = true) →
    exec .messageSpawn s = .next (s.sendMessage (answer (1 + 2 * r)))) ∧
  (s.ringFree = true → (∃ p, p < 256 ∧ ∀ x ∈ s.core.ring, x.place ≠ p) → s.core.tenant = m.tenant → s.isServer s.core.id = false →
    ∃ t place, exec .messageSpawn s = .next t ∧ t.core.outgoing = s.core.outgoing ++ [answer 0] ∧
      t.core.ring = s.core.ring ++
        [⟨place, 3, furrowOf (bits (qOfBytes m.payload) 96 32), false, m.src, false, none, 0⟩])

/-- MESSAGE_SPAWN_ANSWER (R238): the slot that waits for it has its answer. -/
def SpawnAnswers : Prop := ∀ (s : State) (m : Msg) (k : SlotId) (pc : Nat) (rest : List Spawned),
  Receives s m 2 → s.core.spawned = ⟨m.src, k, none⟩ :: rest → (s.ctx k).wait = some ⟨.spawn none, pc⟩ →
  ∃ t, exec .messageSpawnAnswer s = .next t ∧
    (t.ctx k).wait = some ⟨.spawn (some (BitVec.ofNat 64 (ofBytes m.payload % 16))), pc⟩ ∧ t.core.spawned = rest ∧
    (∀ r, (t.ctx k).reg r = (s.ctx k).reg r) ∧ ∀ j, j ≠ k → t.slot j = s.slot j

/-- The core notes a record whose counter another die has decremented: the task that it fires acquires (R170). -/
def fromAfar (s : State) (m : Msg) (off : Nat) : State :=
  if dieOf m.src = s.dieNo then s
  else s.modCore fun c => { c with farDecs := off :: c.farDecs.filter fun r => r != off }

/-- MESSAGE_TDEC (R239): COUNT falls, saturating, and an armed record whose COUNT passes 0 is queued. -/
def TdecMessages : Prop := ∀ (s : State) (m : Msg), Receives s m 3 →
  let off := ofBytes m.payload % 2 ^ 18
  let n : Nat := ofBytes m.payload / 2 ^ 32 % 2 ^ 16
  let r : Nat := s.lmNat off 32
  let count := max (signed 32 (r % 2 ^ 32) - (n : Int)) (-(2 ^ 31 : Int))
  (recValid r = false ∨ recChannel r = true → exec .messageTdec s = .next (s.divert m 0x206)) ∧
  (recValid r = true → recChannel r = false → (recArmed r = true → 0 < count) →
    exec .messageTdec s = .next ((fromAfar s m off).setLm off 4 (count % (2 ^ 32 : Int)).toNat)) ∧
  (recValid r = true → recChannel r = false → recArmed r = true → count ≤ 0 → s.ringFree = true →
    (∃ p, p < 256 ∧ ∀ x ∈ s.core.ring, x.place ≠ p) →
    ∃ t place, exec .messageTdec s = .next t ∧
      t.core.ring = s.core.ring ++ [⟨place, 0, furrowOf (r / 2 ^ 128 % 2 ^ 32), false, 0#13, true, none, 0⟩])

/-- MESSAGE_CREDIT (R156), in the layout of log entry 9. -/
def CreditMessages : Prop := ∀ (s : State) (m : Msg), Receives s m 4 → s.core.armed = [] →
  let h : Fin 16 := Fin.ofNat 16 (ofBytes m.payload % 16)
  let forFilled := ofBytes m.payload / 2 ^ 4 % 2
  let n := ofBytes m.payload / 2 ^ 8 % 2 ^ 17
  let x := s.handle h
  x.init = true → x.producer = (forFilled == 0) →
  ∃ t, exec .messageCredit s = .next t ∧ t.handle h = (if 2 ^ x.countlog < x.avail + n then
    { x with avail := 2 ^ x.countlog, ovf := true } else { x with avail := x.avail + n }) ∧ t.mem = s.mem ∧
    t.core.slots = s.core.slots

/-- MESSAGE_REMOTE_WINDOW (R18), in the layout of log entry 9. -/
def WindowMessages : Prop := ∀ (s : State) (m : Msg), Receives s m 5 →
  let off := ofBytes m.payload % 2 ^ 22
  let n := ofBytes m.payload / 2 ^ 96 % 2 ^ 16
  let data := if n = 0 then m.payload.drop 16 else (m.payload.drop 16).take n
  (ofBytes m.payload / 2 ^ 53 % 4 = 0 → off + data.length ≤ 2 ^ 18 →
    ∃ t, exec .messageRemoteWindow s = .next t ∧ t.bytes (s.lm off) data.length = data ∧ t.core.slots = s.core.slots ∧
      ∀ a, a < s.lm off ∨ s.lm off + data.length ≤ a → t.byte a = s.byte a) ∧
  (ofBytes m.payload / 2 ^ 53 % 4 = 1 → s.cluster.scrubbing = false → off + data.length ≤ 2 ^ 22 →
    ∃ t, exec .messageRemoteWindow s = .next t ∧ t.bytes (cmLoc s.core.id off) data.length = data ∧
      t.core.slots = s.core.slots)

/-- MESSAGE_UNUSED_KIND, and what fails the key or finds no kernel (R228). -/
def DivertedMessages : Prop := ∀ (s : State) (m : Msg),
  s.event = .msg m → m.payload.length = 16 + 32 * m.flits.val → m.dst = s.core.id →
  s.core.mode = .running → s.core.scrubbing = false → (∀ x ∈ s.core.arrived, x.src ≠ m.src) →
  (∀ k, ∀ w ∈ (s.ctx k).wait, ∀ n done, w.wait ≠ .idle n done) →
  (m.kind = 7 → exec .messageUnusedKind s = .next (s.divert m 0x20B)) ∧
  (m.kind = 0 → m.pkey ≠ s.core.pkey → exec .messageTask s = .next (s.divert m 0x201)) ∧
  (m.kind = 0 → m.pkey = s.core.pkey → s.core.kernel = none → exec .messageTask s = .next (s.divert m 0x20B))

/-- MESSAGE_HOLD_RELEASE (R228): a message that waits is looked at again, here one that decrements a record. -/
def HeldMessages : Prop := ∀ (s : State) (m : Msg),
  Receives { s.modCore (fun c => { c with arrived := [] }) with event := .msg m } m 3 → s.core.arrived = [m] →
  let off := ofBytes m.payload % 2 ^ 18
  let r : Nat := s.lmNat off 32
  let count := max (signed 32 (r % 2 ^ 32) - ((ofBytes m.payload / 2 ^ 32 % 2 ^ 16 : Nat) : Int)) (-(2 ^ 31 : Int))
  recValid r = true → recChannel r = false → recArmed r = false →
  exec .messageHoldRelease s =
    .next ((fromAfar (s.modCore fun c => { c with arrived := [] }) m off).setLm off 4 (count % (2 ^ 32 : Int)).toNat)

/-- A launch record whose tests of R213 pass, for a core that runs this tenant already and holds no firing. -/
abbrev GoodLaunch (s : State) (m : Msg) (h : Nat) (members : List Nat) : Prop :=
  let r := ofBytes m.payload
  m.payload.length = 48 ∧ r / 2 ^ 190 = 0 ∧ kernelHeaderValid h = true ∧ hdrTenant h = recTenant r ∧ recTenant r ≠ 0#12 ∧
  s.core.handoff = none ∧ m.dst = s.core.id ∧ s.gangAllowed (recTenant r) members = true ∧ m.dst.toNat ∈ members ∧ gangMembers h (recOrigin r) = some members ∧
  s.launchLevel m.dst = true ∧ s.cluster.tenant = some (recTenant r) ∧ s.core.ran = true ∧
  (∀ k ∈ s.core.kernel, k.tenant = recTenant r) ∧ s.core.ring = [] ∧ (∀ k, (s.ctx k).firing = none)

/-- MESSAGE_LAUNCH (R213): an accepted launch sets the core's registers; with START it queues the first task. -/
def Launches : Prop := ∀ (s u : State) (m : Msg) (h : Nat) (members : List Nat),
  let r := ofBytes m.payload
  s.event = .msg m → m.kind = 6 → m.flits = 1 → m.dst = s.core.id → s.core.mode = .running → s.core.scrubbing = false →
  s.core.handoff = none → (∀ x ∈ s.core.arrived, x.src ≠ m.src) → (∀ k, (s.ctx k).wait = none) →
  s.tick.headerOf (recTenant r) (recCode r) = (u, some h) → GoodLaunch u m h members →
  u.core.slots = s.core.slots →
  ∃ t, exec .messageLaunch s = .next t ∧ t.core.tenant = recTenant r ∧ t.core.pkey = recPkey r ∧ t.core.stg = recStage r ∧
    t.core.clsbase = BitVec.ofNat 13 (hdrClsoff h / 32) ∧ t.core.tmbase = BitVec.ofNat 13 (hdrTmoff h / 32) ∧
    (∃ k, t.core.kernel = some k ∧ k.code = recCode r ∧ k.slots = hdrSlots h ∧ k.lmsize = hdrLmsize h ∧
      k.members = members.length ∧ members[k.rank]? = some m.dst.toNat) ∧
    t.core.cf = 0 ∧ t.core.runs = 0 ∧ t.core.localRuns = 0 ∧ t.core.wdg.count = 0 ∧
    t.core.ring.length = if recStart r then 1 else 0

/-! ### System instructions, control registers, contexts and successors (R74 to R76, R233 to R235, R244, R278 to R302) -/

/-- The state after an instruction that traps once its sheaf has ended: where it began that sheaf, the trap stands for it. -/
def trappedLate (s : State) (cause : Nat) (val val2 : Q) : State :=
  if (s.slot s.cur).sheaf.count = 0 then trapped s 4 cause val val2
  else ((s.openSheaf s.cur).commitWithin s.cur).raise s.cur 4 cause val val2

/-- `sys` and `brk` (R283). -/
def SoftwareCauses : Prop := ∀ (s : State) (a b : RegIdx), Room s →
  exec .brk s = .next (trapped s 4 0x00A 0#128 0#128) ∧
  (Unbound s [a, b] →
    let n := n64 ((here s).reg a).bits
    (n < 1024 → causeAllocated n = true → exec (.sys a b) s = .next (trapped s 4 n ((here s).reg b).bits 0#128)) ∧
    ((1024 ≤ n ∨ causeAllocated n = false) → exec (.sys a b) s = .next (trapped s 4 0x003 (q n) 0#128)))

/-- `idle` and IDLE_END (R285). -/
def Idles : Prop := ∀ (s : State) (a : RegIdx), Room s →
  (Unbound s [a] → (here s).wait = none →
    let n := n64 ((here s).reg a).bits
    exec (.idle a) s = .next (standing s (fun t => t.modSlot s.cur fun x => { x with woken := false })
      (.idle (if n = 0 then none else some n) false))) ∧
  (∀ left pc, Unbound s [a] → (here s).wait = some ⟨.idle left true, pc⟩ → exec (.idle a) s = .next (ran s 4 id)) ∧
  (∀ k left done pc, s.event = .slot k → (s.ctx k).wait = some ⟨.idle left done, pc⟩ →
    ∃ t, exec .idleEnd s = .next t ∧ (t.slot k).woken = false ∧
      (t.ctx k).wait = some ⟨.idle left (done || (s.slot k).woken || left == some 0), pc⟩ ∧ t.mem = s.mem)

/-- `halt` above user level (R286). -/
def Halts : Prop := ∀ s : State, Room s → (here s).level ≠ .user →
  ∃ t, exec .halt s = .next t ∧ (∀ r, (t.ctx s.cur).reg r = (here s).reg r) ∧
    ((∀ j, j ≠ s.cur → (s.slot j).sheaf.snapshot = none ∧ (s.ctx j).midRun = false) → t.core.mode = .halted) ∧
    (∀ j, j ≠ s.cur → (s.slot j).sheaf.snapshot.isSome = true →
      t.core.mode = .halting ∧ ⟨.sheafCommit, .slot j⟩ ∈ t.agenda)

/-- `vfence` above user level, with no engine command taken (R302). -/
def FencesTranslations : Prop := ∀ (s : State) (a : RegIdx) (sc : VfScope) (k : VfKind), Room s → Unbound s [a] →
  (here s).level ≠ .user → (here s).wait = none → (s.slot s.cur).sheaf.held = [] →
  (∀ j f, ((s.slot j).engine f).taken = []) →
  ∃ t, exec (.vfence a sc k) s = .next t ∧ (∀ r, (t.ctx s.cur).reg r = (here s).reg r) ∧
    t.core.tlb = s.core.tlb.filter fun e =>
      match k with
      | .page => !e.holds (addrOf ((here s).reg a).bits)
      | .tenant => e.tenant != s.core.tenant
      | .all => false

/-- `pwreq`, `pwrel` and HEADLAND_GRANT (R287, R394), which also brings what other cores of the die ask and return. -/
def PowerLeave : Prop := ∀ (s : State) (a : RegIdx), Room s → Unbound s [a] →
  let n := n64 ((here s).reg a).bits
  (n ∈ [1, 2, 3, 4] → (here s).wait = none →
    ∃ t, exec (.pwreq a) s = .next t ∧ (t.ctx s.cur).wait = some ⟨.leave n, (here s).pc⟩ ∧ (t.slot s.cur).grant = none ∧
      t.die.asks = s.die.asks.filter (fun x => !(x.other == none && x.slot == s.cur)) ++ [⟨s.cur, n, none⟩]) ∧
  (n ∉ [1, 2, 3, 4] → (here s).wait = none → exec (.pwreq a) s = .next (trapped s 4 0x00B (q n) 0#128)) ∧
  (∀ c g pc, (here s).wait = some ⟨.leave c, pc⟩ → (s.slot s.cur).grant = some g → exec (.pwreq a) s = .next (ran s 4 id)) ∧
  (∃ t, exec .pwrel s = .next t ∧ (t.slot s.cur).grant = none ∧
    t.die.used = s.die.used - ((s.slot s.cur).grant.map classWeight).getD 0) ∧
  (∀ x rest, (∀ c k n, s.event ≠ .leave c k n) → s.die.asks = x :: rest → 0 < s.budget →
    (s.die.used + classWeight x.cls ≤ s.budget ∨ s.die.used = 0 →
      ∃ t, exec .headlandGrant s = .next t ∧ (x.other = none → (t.slot x.slot).grant = some x.cls) ∧
        (∀ c, x.other = some c → t.die.granted = s.die.granted ++ [x] ∧ ∀ j, t.slot j = s.slot j) ∧ t.die.asks = rest ∧
        t.die.used = s.die.used + classWeight x.cls) ∧
    (s.budget < s.die.used + classWeight x.cls → s.die.used ≠ 0 → exec .headlandGrant s = .next s)) ∧
  (∀ c k n, s.event = .leave c k (some n) → dieOf c = s.dieNo → c ≠ s.core.id → n ∈ [1, 2, 3, 4] → s.budget = 0 →
    (∀ x ∈ s.die.asks ++ s.die.granted, x.other ≠ some c) →
    exec .headlandGrant s = .next (s.modDie fun d => { d with asks := d.asks ++ [⟨k, n, some c⟩] })) ∧
  (∀ c k l x r, s.event = .leave c k none → dieOf c = s.dieNo → c ≠ s.core.id → s.budget = 0 →
    s.die.granted = l ++ x :: r → x.other = some c → x.slot = k → (∀ y ∈ l ++ r ++ s.die.asks, y.other ≠ some c) →
    exec .headlandGrant s = .next (s.modDie fun d => { d with granted := l ++ r, used := d.used - classWeight x.cls }))

/-- The bits of a control register that a write changes: those of its field map (Tables 5.10 to 5.18). -/
def crMask (n : Nat) : Nat :=
  match n with
  | 0x000 => 2 ^ 2 - 1
  | 0x001 => 2 ^ 6 - 1
  | 0x002 => 1
  | 0x003 => 2 ^ 64 - 1
  | 0x005 | 0x101 | 0x201 => 2 ^ 12 - 1
  | 0x008 => 2 ^ 8 - 1
  | 0x00C => 2 ^ 12 - 1
  | 0x104 | 0x204 => 2 ^ 22 - 1
  | 0x106 => 2 ^ 32 - 1
  | 0x107 | 0x108 | 0x109 | 0x10A => (2 ^ 13 - 1) * 2 ^ 5
  | 0x10B => 2 ^ 33 - 1
  | n => if 0x210 ≤ n then (2 ^ 44 - 1) * 2 ^ 80 + (2 ^ 54 - 1) * 2 ^ 12 + 15 else 2 ^ 128 - 1

/-- The control registers that hold capabilities (R76). -/
def crCap (n : Nat) : Bool := [0x004, 0x007, 0x009, 0x00A, 0x100, 0x105, 0x200, 0x205].contains n

/-- What `crw`, `crs` and `crc` ask for, from the old value and a (R74). -/
def crForms : List ((RegIdx → RegIdx → BitVec 12 → Instr) × (Q → Q → Q) × Bool) :=
  [(.crw, fun _ a => a, true), (.crs, fun o a => o ||| a, false), (.crc, fun o a => o &&& ~~~a, false)]

/-- `crr`, `crw`, `crs` and `crc` (R74 to R76, R288, R289); `stg` takes effect at a task boundary (R12). -/
def ControlRegisters : Prop := ∀ (s : State) (d a : RegIdx) (c : BitVec 12), Room s → Unbound s [d, a] →
  isControlRegister c = true →
  let n := c.toNat
  let old := s.crValue s.cur n
  (crAllowed (here s).level n false = true → exec (.crr d c) s = .next (ran s 4 fun x => x.setReg d old)) ∧
  (crAllowed (here s).level n false = false → exec (.crr d c) s = .next (trapped s 4 0x007 (q n) 0#128)) ∧
  (∀ f ∈ crForms,
    (crAllowed (here s).level n true = false → exec (f.1 d a c) s = .next (trapped s 4 0x007 (q n) 0#128)) ∧
    (crAllowed (here s).level n true = true → ∃ t, exec (f.1 d a c) s = .next t ∧
      (t.ctx s.cur).reg d = (if d = 0 then Reg.null else old) ∧
      (n ≠ 0x00B → t.crValue s.cur n =
        let v := f.2.1 old.bits ((here s).reg a).bits
        let m := BitVec.ofNat 128 (crMask n)
        ⟨if 0x210 ≤ n then v &&& m else (old.bits &&& ~~~m) ||| (v &&& m), crCap n && f.2.2 && ((here s).reg a).tag⟩) ∧
      (n = 0x00B → (∀ k, (s.ctx k).firing = none) →
        t.core.stg = BitVec.ofNat 4 (f.2.1 old.bits ((here s).reg a).bits).toNat)))

/-- The state after `crw`, `crs` or `crc`: d takes the old value, then the register takes the new one. A register of the core
changes after the sheaf, which a vector register of the slot ends too (R289). -/
def crWritten (s : State) (d : RegIdx) (n : Nat) (v : Reg) : State :=
  let put (t : State) : State := t.modCtx s.cur fun c => c.setReg d (s.crValue s.cur n)
  if crOfCore n then done s 4 put (some fun t => t.writeCoreCr n v.bits)
  else
    let t := did s 4 fun t => (put t).writeSlotCr s.cur n v
    if crOfVector n then t.commit s.cur else t

/-- `crr`, `crw`, `crs` and `crc` complete at the levels that may read, or write, the register (R74 to R76, Table 5.10). -/
def ControlRegistersComplete : Prop := ∀ (s : State) (d a : RegIdx) (c : BitVec 12), Room s → Unbound s [d, a] →
  isControlRegister c = true →
  let n := c.toNat
  let old := s.crValue s.cur n
  let x := (here s).reg a
  (crAllowed (here s).level n false = true → exec (.crr d c) s = .next (ran s 4 fun y => y.setReg d old)) ∧
  (crAllowed (here s).level n true = true →
    exec (.crw d a c) s = .next (crWritten s d n x) ∧
    exec (.crs d a c) s = .next (crWritten s d n (Reg.data (old.bits ||| x.bits))) ∧
    exec (.crc d a c) s = .next (crWritten s d n (Reg.data (old.bits &&& ~~~x.bits))))

/-- The privilege checks of R282, R293, R294 and R295: cause 0x009 with the address of the instruction. -/
def PrivilegeTraps : Prop := ∀ (s : State) (i : Instr), Room s → s.migrantComes = false →
  let at_ := q (ownAddr (here s)).toNat
  ((here s).level = .user → (i = .halt ∨ ∃ a sc k, i = .vfence a sc k) → exec i s = .next (trapped s 4 0x009 at_ 0#128)) ∧
  ((here s).inTrap = false → (i = .ctxsave ∨ (∃ a, i = .ctxload a) ∨ ∃ d a, i = .migr d a) →
    exec i s = .next (trapped s 4 0x009 at_ 0#128))

/-- The pending asynchronous causes of a slot. -/
def pendingCauses (x : Slot) : Bool × Bool × Bool := (x.preempt, x.resume, x.watchdog)

/-- ASYNC_CAUSE_DELIVERY (R281, R296) and WATCHDOG_EXPIRY (R233): the lowest pending cause of a slot is delivered where one can
be now; while INTRAP of its `sxstat` is set every cause stays pending, until `xret` clears INTRAP. -/
def AsynchronousCauses : Prop := ∀ (s : State) (k : SlotId),
  (s.event = .slot k → (s.ctx k).sx.intrap = true →
    s.deliverable k = false ∧ exec .asyncCauseDelivery s = .next s) ∧
  (s.event = .slot k → s.deliverable k = false → exec .asyncCauseDelivery s = .next s) ∧
  (s.event = .slot k → (s.slot k).preempt = true → s.deliverable k = true →
    exec .asyncCauseDelivery s = .next (((s.commit k).modSlot k fun x => { x with preempt := false }).deliver k
      ⟨0x00C, 0#128, 0#128, false, false⟩)) ∧
  (s.event = .slot k → (s.slot k).preempt = false → (s.slot k).resume = true → s.deliverable k = true →
    ∃ t, exec .asyncCauseDelivery s = .next t ∧ (t.slot k).resume = false ∧ (t.ctx k).level = .supervisor ∧
      (t.ctx k).sx.cause.toNat = k.val * 2 ^ 14 + 0x00D ∧ (t.ctx k).sx.val = q (s.slot k).frame.toNat ∧
      (t.ctx k).sx.val2 = 0#128 ∧ (t.ctx k).sx.pc = Reg.null ∧ (t.ctx k).sx.stat = 5#22 ∧ (t.slot k).bubble = true ∧
      addrOf (t.ctx k).code.bits = addrOf (s.ctx k).sx.vec.bits / 2 ^ 9 * 2 ^ 9) ∧
  (s.event = .slot k → (s.slot k).preempt = false → (s.slot k).resume = false → (s.slot k).watchdog = true →
    s.deliverable k = true →
    exec .asyncCauseDelivery s = .next (((s.commit k).modSlot k fun x => { x with watchdog := false }).deliver k
      ⟨0x210, q s.core.wdg.limit.toNat, 0#128, false, false⟩)) ∧
  (Room s → (here s).level = .supervisor → (here s).sx.intrap = true → (here s).sx.drill = false → (here s).sx.ppl ≤ 1 →
    ∃ t, exec .xret s = .next t ∧ (t.ctx s.cur).sx.intrap = false ∧ pendingCauses (t.slot s.cur) = pendingCauses (s.slot s.cur)) ∧
  ((s.ctx k).firing.isSome = true → (∀ j, j < k → (s.ctx j).firing = none) →
    ∃ t, exec .watchdogExpiry s = .next t ∧ (t.slot k).watchdog = true ∧ t.mem = s.mem ∧
      ∀ j, j ≠ k → t.slot j = s.slot j) ∧
  ((∀ j, (s.ctx j).firing = none) → exec .watchdogExpiry s = .next s)

/-- The trap registers of a level (R279). -/
def trapRegsOf (c : Ctx) (l : Level) : TrapRegs := if l = .monitor then c.mx else c.sx

/-- `xret` (R284, R116): the level and the code that the trap registers saved; INTRAP cleared; with DRILL the interrupted
replay goes on, where the handler runs no replay of its own. -/
def Returns : Prop := ∀ s : State, Room s →
  ((here s).level = .user → (here s).uxact = true →
    ∃ t, exec .xret s = .next t ∧ (t.ctx s.cur).code = (here s).uxpc ∧ (t.ctx s.cur).uxact = false ∧
      (t.ctx s.cur).level = .user ∧ ∀ r, (t.ctx s.cur).reg r = (here s).reg r) ∧
  ((here s).level = .user → (here s).uxact = false →
    exec .xret s = .next (trapped s 4 0x009 (q (ownAddr (here s)).toNat) 0#128)) ∧
  ((here s).level ≠ .user →
    let r := trapRegsOf (here s) (here s).level
    (r.ppl ≤ (here s).level.num → r.ppl ≠ 3 →
      (r.drill = false → ∃ t, exec .xret s = .next t ∧ (t.ctx s.cur).code = r.pc ∧ (t.ctx s.cur).level.num = r.ppl ∧
        (trapRegsOf (t.ctx s.cur) (here s).level).stat = (r.stat &&& ~~~4#22) ∧
        ∀ x, (t.ctx s.cur).reg x = (here s).reg x) ∧
      (∀ d, r.drill = true → (here s).drill = some d → d.live = false → r.dpos < d.n → r.dpass < d.k →
        ∃ t, exec .xret s = .next t ∧ (t.ctx s.cur).level.num = r.ppl ∧
          (t.ctx s.cur).drill = some { d with pass := d.k - 1 - r.dpass, pos := r.dpos, live := true } ∧
          (t.ctx s.cur).pc = (d.origin + d.bytesTo r.dpos) % 2 ^ 72) ∧
      (r.drill = true → (here s).drill = none →
        exec .xret s = .next (trapped s 4 0x008 (q (ownAddr (here s)).toNat) (q (r.dpos + 16 * r.dpass))))) ∧
    ((here s).level.num < r.ppl → r.ppl ≠ 3 →
      exec .xret s = .next (trapped s 4 0x009 (q (ownAddr (here s)).toNat) 0#128)))

/-- A slot that may leave its core: in a handler, its write ports drained, a forwarding entry not needed or free, and nothing that
its engines have reported done still to be performed (log entry 72, DESIGN CHOICE). -/
abbrev Leaves (s : State) : Prop :=
  (here s).inTrap = true ∧ (∀ p, (s.port p).owner = some s.cur → (s.port p).write = true → (s.port p).undrained = 0) ∧
    s.lacksEntry s.cur = false ∧ (s.slot s.cur).sheaf.held = [] ∧ ∀ f c, s.taken s.cur f = some c → c.progress.late = []

/-- `ctxsave` (R290 to R293). -/
def SavesContexts : Prop := ∀ s : State, Room s → Leaves s →
  ((s.die.frames.filter fun x => !x.2.spilled).length < s.siloFrames →
    s.die.frames.length < 65536 →
    ∃ t n fr, exec .ctxsave s = .next t ∧ t.die.frames = s.die.frames ++ [(n, fr)] ∧ (∀ x ∈ s.die.frames, x.1 ≠ n) ∧
      fr.ctx.regs = (here s).regs ∧ fr.ctx.code = (here s).code ∧ fr.level = (here s).level ∧ fr.ctx.fstat = (here s).fstat ∧
      fr.ctx.frnd = (here s).frnd ∧ fr.ctx.sx = (here s).sx ∧ fr.ctx.drill = (here s).drill ∧ fr.spilled = false ∧
      (t.slot s.cur).isFree = true ∧ (t.slot s.cur).grant = none ∧ ∀ p, (t.port p).owner ≠ some s.cur) ∧
  (s.siloFrames = 0 → exec .ctxsave s = .next (trappedLate s 0x00E 0#128 1#128))

/-- `ctxload` (R294): a frame that is not refused is in the slot, and gone; a refused one traps with its reason. -/
def LoadsContexts : Prop := ∀ (s : State) (a : RegIdx), Room s → Unbound s [a] → (here s).inTrap = true →
  (s.slot s.cur).sheaf.held = [] →
  let n := n64 ((here s).reg a).bits
  (∀ f, s.frameRefused n = none → s.frame n = some f → (f.ctx.drill = none ∨ (s.core.drillOwner = none ∧ s.bufferWanted s.cur = false)) →
    (∀ p ∈ f.ports, s.freedElsewhere s.cur p.1 = false) →
    (f.level = .supervisor → f.ctx.sx.ppl ≤ 1 ∧ f.ctx.sx.drill = false) → f.level ≠ .monitor →
    ∃ t, exec (.ctxload a) s = .next t ∧ (∀ x ∈ t.die.frames, x.1 ≠ n) ∧ (t.ctx s.cur).regs = f.ctx.regs ∧
      (t.ctx s.cur).fstat = f.ctx.fstat ∧ (t.ctx s.cur).frnd = f.ctx.frnd ∧ (t.ctx s.cur).firing = f.ctx.firing ∧
      (f.level = .user → (t.ctx s.cur).code = f.ctx.code ∧ (t.ctx s.cur).level = .user ∧
        (t.ctx s.cur).sx = { (here s).sx with stat := (here s).sx.stat &&& ~~~4#22 }) ∧
      (f.level = .supervisor → (t.ctx s.cur).code = f.ctx.sx.pc ∧ (t.ctx s.cur).level.num = f.ctx.sx.ppl ∧
        (t.ctx s.cur).sx.vec = (here s).sx.vec ∧ (t.ctx s.cur).inTrap = false)) ∧
  (∀ r, s.frameRefused n = some r → exec (.ctxload a) s = .next (trappedLate s 0x00E (q (n % 2 ^ 16)) (q r)))

/-- `migr` (R295): a destination that cannot be one is refused with 1; of the others one refuses with 2 to 4, or takes the
context. -/
def Migrates : Prop := ∀ (s : State) (d a : RegIdx), Room s → Unbound s [d, a] → Leaves s → s.migrantComes = false →
  let n := n64 ((here s).reg a).bits
  let good := n < 2 ^ 13 ∧ s.isServer (BitVec.ofNat 13 n) = false ∧ BitVec.ofNat 13 n ≠ s.core.id ∧
    s.inSubmesh s.core.tenant (BitVec.ofNat 13 n) = true
  (¬ good → exec (.migr d a) s = .next (after s fun t => t.modCtx s.cur fun c => c.setReg d (Reg.data 1#128))) ∧
  (good → ∃ t, exec (.migr d a) s = .next t ∧
    (((t.slot s.cur).isFree = true ∧ (t.slot s.cur).grant = none) ∨
      ∃ v ∈ [2, 3, 4], (t.ctx s.cur).reg d = if d = 0 then Reg.null else Reg.data (q v)))

/-- The `migr` of another core to this one (R295), as an event: a free slot below the kernel's slot count takes a context of
the same kernel and tenant, the lowest such slot (log entry 62, DEDUCED), and goes on as at `ctxload`; else it is refused and
nothing else moves. -/
def MigrantsArrive : Prop := ∀ (s : State) (d a : RegIdx) (f : Frame) (rest : List Frame) (n : Kernel),
  s.event = .migration → s.eventTurn = false → s.die.migrants = f :: rest → s.core.handoff = none →
  s.core.kernel = some n → f.enclave = s.enclaveKey → f.ports = [] →
  let takes (k : SlotId) := k.val < n.slots ∧ (s.slot k).isFree = true ∧ (s.slot k).starting = false
  (∀ k : SlotId, f.home = s.kernelHome → f.level = .user → takes k → (∀ j, j < k → ¬ takes j) →
    ∃ t, exec (.migr d a) s = .next t ∧ (∀ r, (t.ctx k).reg r = f.ctx.reg r) ∧ (t.ctx k).code = f.ctx.code ∧
      (t.ctx k).level = .user ∧ (t.ctx k).firing = f.ctx.firing ∧ (t.ctx k).again = f.leave ∧ t.die.migrants = rest) ∧
  (f.home ≠ s.kernelHome ∨ (∀ k, ¬ takes k) →
    exec (.migr d a) s = .next (s.modDie fun x => { x with migrants := rest }))

/-- `succ` (R235, R244) with its header in CM or LM: the handoff begins and the slot stands in it. -/
def SuccessorsAreAsked : Prop := ∀ (s u : State) (a b : RegIdx) (loc : Nat) (ranges : List (Nat × Nat)),
  Room s → Unbound s [a, b] → (here s).inTrap = false → Touches s a 0 64 [.load, .execute] loc → Free s loc 64 false →
  let c := (here s).reg a
  let y := ((here s).reg b).bits
  let h := ofBytes (s.seenBytes s.cur loc 64)
  s.core.kernel.isSome = true → s.isServer s.core.id = false → s.core.handoff = none → kernelHeaderValid h = true →
  headerAddr c.bits = addrOf c.bits → bits y 54 74 = 0 →
  inheritRanges y (maskMaps y) (tracked (s.openSheaf s.cur) loc 64 false) = .ok ranges u →
  ∃ t, exec (.succ a b) s = .next t ∧
    t.core.handoff = some ⟨s.cur, c, BitVec.ofNat 512 h, y, ranges, (here s).guarded⟩ ∧ t.core.ring = [] ∧
    (t.ctx s.cur).wait = some ⟨.handoff, (here s).pc⟩ ∧ ⟨.successorHandoff, .plain⟩ ∈ t.agenda

/-- SUCCESSOR_HANDOFF (R235): once the core is quiet, the successor stands in the place of its predecessor, or every slot is
saved in a frame of the silo and the issuing slot traps with 0x214 and the fields that differ. -/
def SuccessorsTakeOver : Prop := ∀ (s : State) (h : Handoff) (k : Kernel) (pc : Nat), s.core.handoff = some h →
  s.core.kernel = some k → (s.ctx h.slot).wait = some ⟨.handoff, pc⟩ →
  (s.coreQuiet h.slot = false → exec .successorHandoff s = .next (s.scheduleOnce .successorHandoff)) ∧
  (s.coreQuiet h.slot = true → s.shapeDiff k h.header.toNat = 0 →
    ∃ t, exec .successorHandoff s = .next t ∧ t.core.handoff = none ∧ t.core.ring = [] ∧ t.core.wdg.count = 0 ∧
      (∃ n, t.core.kernel = some n ∧ n.code = h.code.bits ∧ n.entry = hdrEntry h.header.toNat) ∧
      (∀ x, (t.handle x).init = false) ∧ (t.ctx h.slot).fstat = 0#6 ∧ (t.ctx h.slot).frnd = 0#2 ∧
      (∀ r : RegIdx, h.mask.getLsbD r.val = true → (t.ctx h.slot).reg r = (s.ctx h.slot).reg r) ∧
      (∀ r : RegIdx, h.mask.getLsbD r.val = false → (r.val < 2 ∨ 5 < r.val) → (t.ctx h.slot).reg r = Reg.null) ∧
      (h.mask.getLsbD 53 = false → (∀ p, (t.port p).bound = none) ∧ ∀ x, t.handle x = Handle.reset) ∧
      (h.ranges = [] → ∀ off, off < hdrLmsize h.header.toNat → t.byte (t.lm off) = 0#8)) ∧
  (s.coreQuiet h.slot = true → s.shapeDiff k h.header.toNat ≠ 0 → (s.ctx h.slot).level = .user →
    (s.ctx h.slot).sx.intrap = false → 4 ≤ s.siloFrames → s.die.frames = [] →
    ∃ t, exec .successorHandoff s = .next t ∧ t.core.handoff = none ∧ (t.ctx h.slot).level = .supervisor ∧
      (t.ctx h.slot).sx.cause.toNat % 2 ^ 10 = 0x214 ∧ (t.ctx h.slot).sx.val = q (addrOf h.code.bits) ∧
      (t.ctx h.slot).sx.val2 = q (s.shapeDiff k h.header.toNat) ∧ t.die.frames.length = 4)

/-! ### Engine commands (R160 to R162, R304, R307, R314 to R321, R362) -/

/-- No sheaf tracks anything. -/
abbrev Quiet (s : State) : Prop := ∀ k secs, (s.slot k).sheaf.touches secs = false

/-- The oldest command of an engine, its own and not begun, and nothing that holds the engines back, nor an earlier command
for its sequence (R321). -/
abbrev Oldest (s : State) (k : SlotId) (f : Fifo) (c : Command) (rest : List Command) : Prop :=
  ((s.slot k).engine f).taken = c :: rest ∧ c.owner = none ∧ c.progress = Progress.start ∧ s.enginesWait = false ∧
    s.behindAnother f c = false ∧ s.event = .slot k ∧ Quiet s

/-- The same, with no store of the core on its way through its remote window (R18). -/
abbrev Taken (s : State) (k : SlotId) (f : Fifo) (c : Command) (rest : List Command) : Prop :=
  Oldest s k f c rest ∧ ∀ m ∈ s.onTheWay, m.kind ≠ 5

/-- The command is answered: its result waits for the output queue (R159, Table 9.15); one with NORES that succeeds has
none. -/
def Answered (s t : State) (k : SlotId) (f : Fifo) (c : Command) (status cause value : Nat) (data : List Q) : Prop :=
  let e := (s.slot k).engine f
  let e' := (t.slot k).engine f
  e'.taken = e.taken.drop 1 ∧ e'.input = e.input ∧ e'.output = e.output ∧
  e'.waiting = e.waiting ++
    if c.header.getLsbD 116 = true ∧ status = 0 then []
    else [resultHeader status data.length (bits c.header 96 16) cause value :: data]

/-- `n` bytes at `a`, which a capability grants to an engine, at `loc` of this core's LM or of CM, with no error. -/
abbrev ReachAt (s : State) (c : Reg) (p : Perm) (a n loc : Nat) : Prop :=
  capFault c [p] a n = none ∧ nearLoc s a = some loc ∧ s.opensAll 0#10 loc n = true ∧
    (regionOf a = 0xC → a % 2 ^ 68 + max n 1 ≤ 2 ^ 22) ∧ (regionOf a = 0xD → a % 2 ^ 68 + max n 1 ≤ 2 ^ 18)

abbrev Reach (s : State) (c : Reg) (p : Perm) (n loc : Nat) : Prop := ReachAt s c p (addrOf c.bits) n loc

/-- Two ranges share no byte. -/
abbrev Apart (a n b m : Nat) : Prop := a + n ≤ b ∨ b + m ≤ a

/-- Every byte outside a range is as before. -/
def KeptOutside (s t : State) (lo n : Nat) : Prop := ∀ a, a < lo ∨ lo + n ≤ a → t.byte a = s.byte a

/-- COPY and FILL between LM and CM (R160). A COPY reads what the core's own stores through its remote window, still on their
way, leave at its source (R170). -/
def CopiesAndFills : Prop := ∀ (s : State) (k : SlotId) (c : Command) (rest : List Command) (dst : Nat),
  Oldest s k .e0 c rest → headerChv c.header = false →
  let n := bits c.header 0 64
  s.windowFlies dst n = false →
  (∀ src, headerOpc c.header = 0x01 → Reach s (c.elem 1) .load n src → Reach s (c.elem 2) .store n dst → Apart src n dst n →
    ∃ t, exec .copy s = .next t ∧ Answered s t k .e0 c 0 0 n [] ∧ t.bytes dst n = s.coreBytes src n ∧ KeptOutside s t dst n) ∧
  (headerOpc c.header = 0x02 → Reach s (c.elem 1) .store n dst →
    ∃ t, exec .fill s = .next t ∧ Answered s t k .e0 c 0 0 n [] ∧ KeptOutside s t dst n ∧
      ∀ i, i < n → t.byte (dst + i) = ((c.elem 2).bits.extractLsb' (8 * ((addrOf (c.elem 1).bits + i) % 16)) 8))

/-- A refused command moves nothing (R159, R160): here a COPY whose destination its capability does not grant. -/
def RefusedCommands : Prop := ∀ (s : State) (k : SlotId) (c : Command) (rest : List Command) (src cause : Nat),
  Taken s k .e0 c rest → headerChv c.header = false → headerOpc c.header = 0x01 →
  Reach s (c.elem 1) .load (bits c.header 0 64) src → regionOf (addrOf (c.elem 2).bits) < 0xE →
  capFault (c.elem 2) [.store] (addrOf (c.elem 2).bits) (bits c.header 0 64) = some cause →
  ∃ t, exec .copy s = .next t ∧ Answered s t k .e0 c 2 cause 0 [] ∧ t.mem = s.mem

/-- XCOPY of one sector from host-granted storage to LM or CM (R307). -/
def CopiesFromStorage : Prop := ∀ (s u w : State) (k : SlotId) (c : Command) (rest : List Command) (dst e : Nat),
  Taken s k .e0 c rest → headerChv c.header = false → headerOpc c.header = 0x03 → c.header.getLsbD 64 = false →
  let n := bits c.header 0 64
  let x := (c.elem 1).bits
  0 < n → n ≤ 256 → Reach s (c.elem 2) .store n dst →
  s.extentTableValid = true → bits x 0 32 < s.extentCount → bits x 112 16 = 0 →
  extentEntry (bits x 0 32) s = .ok (some e) u → extentEntry (bits x 0 32) u = .ok (some e) w →
  fld e 0 2 = 3 → fld e 32 4 = 1 → fld e 48 16 = bits x 32 16 → bits x 48 64 + n ≤ fld e 192 64 →
  ∃ t, exec .xcopy s = .next t ∧ Answered s t k .e0 c 0 0 n [] ∧
    t.bytes dst n = w.bytes (storageLoc (fld e 128 64 + bits x 48 64)) n

/-- The row that index `u` names. -/
def indexRow (s : State) (idx u : Nat) : Nat := ofBytes (s.bytes (idx + 4 * u) 4)

/-- GATHER and SCATTER between LM and CM (R160). -/
def GathersAndScatters : Prop := ∀ (s : State) (k : SlotId) (c : Command) (rest : List Command) (idx far near : Nat)
    (row : Nat → Nat),
  Taken s k .e2 c rest → headerChv c.header = false →
  let rows := bits c.header 32 32
  let n := bits c.header 0 32
  Reach s (c.elem 1) .load (4 * rows) idx →
  (headerOpc c.header = 0x20 → Reach s (c.elem 2) .load 0 far → Reach s (c.elem 3) .store (rows * n) near →
    Apart idx (4 * rows) near (rows * n) →
    (∀ u, u < rows → ReachAt s (c.elem 2) .load (addrOf (c.elem 2).bits + indexRow s idx u * n) n (row u) ∧
      Apart (row u) n near (rows * n)) →
    ∃ t, exec .gather s = .next t ∧ Answered s t k .e2 c 0 0 rows [] ∧ KeptOutside s t near (rows * n) ∧
      ∀ u, u < rows → t.bytes (near + u * n) n = s.bytes (row u) n) ∧
  (headerOpc c.header = 0x21 → Reach s (c.elem 2) .load (rows * n) near → Reach s (c.elem 3) .store 0 far →
    (∀ u, u < rows → ReachAt s (c.elem 3) .store (addrOf (c.elem 3).bits + indexRow s idx u * n) n (row u) ∧
      Apart (row u) n near (rows * n) ∧ Apart (row u) n idx (4 * rows) ∧ ∀ v, v < u → Apart (row u) n (row v) n) →
    ∃ t, exec .scatter s = .next t ∧ Answered s t k .e2 c 0 0 rows [] ∧
      ∀ u, u < rows → t.bytes (row u) n = s.bytes (near + u * n) n)

/-- SEND and RECV of the mailboxes of the function of the tenant that issued the command (R161, R362). -/
def Mailboxes : Prop := ∀ (s : State) (k : SlotId) (c : Command) (rest : List Command) (g : Nat),
  Taken s k .e7 c rest →
  let m := headerArg c.header
  let entry := (qBytes (c.elem 1).bits ++ qBytes (c.elem 2).bits) ++ (qBytes (c.elem 3).bits ++ qBytes (c.elem 4).bits)
  (headerOpc c.header = 0x70 → s.boundFunction c.tenant = none →
    ∃ t, exec .mailboxSend s = .next t ∧ Answered s t k .e7 c 2 0x2E3 0 []) ∧
  (headerOpc c.header = 0x70 → s.boundFunction c.tenant = some g → 256 ≤ (s.outboxOf g m).entries.length →
    ∃ t, exec .mailboxSend s = .next t ∧ Answered s t k .e7 c 2 0x385 0 [] ∧ t.outboxOf g m = s.outboxOf g m) ∧
  (headerOpc c.header = 0x70 → s.boundFunction c.tenant = some g → (s.outboxOf g m).entries.length < 256 →
    ∃ t, exec .mailboxSend s = .next t ∧ Answered s t k .e7 c 0 0 (255 - (s.outboxOf g m).entries.length) [] ∧
      (t.outboxOf g m).entries = (s.outboxOf g m).entries ++ [entry]) ∧
  (headerOpc c.header = 0x71 → s.boundFunction c.tenant = some g → (s.inboxOf g m).entries = [] →
    ∃ t, exec .mailboxRecv s = .next t ∧ Answered s t k .e7 c 0 0 0 []) ∧
  (∀ e l, headerOpc c.header = 0x71 → s.boundFunction c.tenant = some g → (s.inboxOf g m).entries = e :: l →
    e.length = 64 →
    ∃ t d, exec .mailboxRecv s = .next t ∧ Answered s t k .e7 c 0 0 1 d ∧ (d.map qBytes).flatten = e ∧ d.length = 4 ∧
      (t.inboxOf g m).entries = l)

/-- The collectives with their events (Table 9.16). -/
def collectives : List (Nat × Instr) := [(0x30, .allreduce), (0x31, .allgather), (0x32, .reducescatter), (0x33, .broadcast)]

/-- The element widths of R162, in bytes. -/
def collWidth (h : Q) : Option Nat :=
  match bits h 32 4 with
  | 8 | 2 | 6 => some 4
  | 9 => some 2
  | _ => none

/-- The collectives of one member, and a sum of two (R162). The number of elements on each side is the model's choice (log
entry 19). -/
def Collectives : Prop := ∀ (s : State) (k : SlotId) (c : Command) (rest : List Command) (peers : List PeerData)
    (group src dst w : Nat),
  Taken { s with event := .slot k } k .e3 c rest → s.event = .collective k peers → collWidth c.header = some w →
  bits c.header 36 3 ≤ 2 →
  let n := bits c.header 0 32
  (bits c.header 48 10 = 1 → Reach s (c.elem 1) .load 2 group → ofBytes (s.bytes group 2) = s.core.id.toNat →
    (Reach s (c.elem 2) .load (w * n) src → Reach s (c.elem 3) .store (w * n) dst →
      ∀ x ∈ collectives, headerOpc c.header = x.1 →
      ∃ t, exec x.2 s = .next t ∧ Answered s t k .e3 c 0 0 n [] ∧ t.bytes dst (w * n) = s.bytes src (w * n) ∧
        KeptOutside s t dst (w * n)) ∧
    (headerOpc c.header = 0x34 → ∃ t, exec .collBarrier s = .next t ∧ Answered s t k .e3 c 0 0 0 [] ∧ t.mem = s.mem)) ∧
  (∀ p : PeerData, bits c.header 48 10 = 2 → headerOpc c.header = 0x30 → bits c.header 32 4 = 6 → bits c.header 36 3 = 0 →
    Reach s (c.elem 1) .load 4 group → ofBytes (s.bytes group 2) = s.core.id.toNat →
    ofBytes (s.bytes (group + 2) 2) = p.core.toNat → p.core ≠ s.core.id → peers = [p] → p.data.length = 4 * n →
    Reach s (c.elem 2) .load (4 * n) src → Reach s (c.elem 3) .store (4 * n) dst →
    ∃ t, exec .allreduce s = .next t ∧ Answered s t k .e3 c 0 0 n [] ∧
      ∀ i, i < n → ofBytes (t.bytes (dst + 4 * i) 4) =
        min (ofBytes (s.bytes (src + 4 * i) 4) + ofBytes ((p.data.drop (4 * i)).take 4)) (2 ^ 32 - 1))

/-- A table set in LM or CM (R315): its header at `loc`, valid. -/
abbrev Tables (s : State) (c : Reg) (loc : Nat) : Prop := Reach s c .load 64 loc ∧ tableSetValid (ofBytes (s.bytes loc 64)) = true

/-- `n` bytes at an offset of a table set. -/
abbrev TableAt (s : State) (c : Reg) (off n loc : Nat) : Prop :=
  addrOf c.bits + off < 2 ^ 72 ∧ ReachAt s c .load (addrOf c.bits + off) n loc

/-- The sequence of a command is open for the tenant that issued the command, and bound to a table set. -/
abbrev BoundText (s : State) (c : Command) (tc : Reg) (x : Text) : Prop :=
  let y := s.seq (bits c.header 0 8)
  y.isOpen = true ∧ y.tenant = c.tenant ∧ y.text = x ∧ x.tables = some tc

/-- QOPEN (R318), and the reserved commands (R320). -/
def QuernOpens : Prop := ∀ (s : State) (k : SlotId) (c : Command) (rest : List Command), Taken s k .e1 c rest →
  (0x14 ≤ headerOpc c.header → headerOpc c.header ≤ 0x17 →
    ∃ t, exec .quernReservedCommand s = .next t ∧ Answered s t k .e1 c 2 0x310 0 [] ∧ t.mem = s.mem) ∧
  (∀ hl sl, headerOpc c.header = 0x10 → Tables s (c.elem 1) hl → Reach s (c.elem 2) .load 160 sl →
    let n := bits c.header 0 8
    let gram := c.header.getLsbD 8
    let h := ofBytes (s.bytes hl 64)
    let l := s.bytes sl 160
    (s.seq n).isOpen = true → (s.seq n).tenant = c.tenant → (gram = true → fld h 384 16 ≠ 0) →
    (∀ i, i < 4 → (l.getD i 0#8).toNat ≤ 32) → (∀ i, 4 ≤ i → i < 32 → l.getD i 0#8 = 0#8) →
    ∃ t, exec .quernOpen s = .next t ∧ Answered s t k .e1 c 0 0 0 [] ∧ t.mem = s.mem ∧
      (t.seq n).text = ⟨some (c.elem 1), gram, fld h 400 16, [], [], false, 0,
        (upFrom 0 4).map fun i => (l.drop (32 + 32 * i)).take (l.getD i 0#8).toNat⟩)

/-- ENCODE (R316, R318): the identifiers of the bytes where nothing merges, and one merge of a pair. -/
def QuernEncodes : Prop := ∀ (s : State) (k : SlotId) (c : Command) (rest : List Command) (tc : Reg) (x : Text)
    (hl src dst : Nat) (at_ : Nat → Nat),
  Taken s k .e1 c rest → headerOpc c.header = 0x11 → BoundText s c tc x → Tables s tc hl →
  let h := ofBytes (s.bytes hl 64)
  let n := bits (c.elem 3).bits 0 32
  let ident (i : Nat) : Nat := ofBytes (s.bytes (at_ i) 4)
  0 < n → n ≤ 65536 → Reach s (c.elem 1) .load n src →
  (∀ i, i < n → TableAt s tc (fld h 224 32 + 4 * (s.byte (src + i)).toNat) 4 (at_ i)) →
  (fld h 320 32 = 0 → Reach s (c.elem 2) .store (4 * n) dst →
    ∃ t, exec .quernEncode s = .next t ∧ Answered s t k .e1 c 0 0 n [] ∧
      ∀ i, i < n → t.bytes (dst + 4 * i) 4 = leBytes 4 (ident i)) ∧
  (∀ ml, n = 2 → fld h 320 32 = 1 → TableAt s tc (fld h 352 32) 16 ml → Reach s (c.elem 2) .store 4 dst →
    let e := ofBytes (s.bytes ml 16)
    fld e 0 32 = ident 0 → fld e 32 32 = ident 1 →
    ∃ t, exec .quernEncode s = .next t ∧ Answered s t k .e1 c 0 0 1 [] ∧ t.bytes dst 4 = leBytes 4 (fld e 96 32))

/-- STEP of one token without a grammar (R318, R319), and what the detokeniser holds back. -/
def QuernSteps : Prop := (∀ (s : State) (k : SlotId) (c : Command) (rest : List Command) (tc : Reg) (x : Text)
    (hl src dst ol dl : Nat),
  Taken s k .e1 c rest → headerOpc c.header = 0x12 → BoundText s c tc x → Tables s tc hl →
  x.gram = false → x.stopped = false → bits (c.elem 3).bits 0 16 = 1 → Reach s (c.elem 1) .load 4 src →
  let h := ofBytes (s.bytes hl 64)
  let tok := ofBytes (s.bytes src 4)
  let lo := ofBytes (s.bytes ol 4)
  let hi := ofBytes (s.bytes (ol + 4) 4)
  let eos := tok == fld h 192 32
  let r := detokenise eos (x.held ++ s.bytes dl (hi - lo)) x.stops
  tok < fld h 160 32 → TableAt s tc (fld h 256 32 + 4 * tok) 8 ol → lo ≤ hi → hi ≤ lo + 64 →
  TableAt s tc (fld h 288 32 + lo) (hi - lo) dl → Reach s (c.elem 2) .store r.1.length dst →
  r.1.length ≤ roomOf (c.elem 2).bits →
  ∃ t, exec .quernStep s = .next t ∧ t.bytes dst r.1.length = r.1 ∧
    (t.seq (bits c.header 0 8)).text = { x with held := r.2.1, stopped := r.2.2.isSome, stopnum := r.2.2.getD x.stopnum } ∧
    Answered s t k .e1 c 0 0 r.1.length [q (1 + (if r.2.2.isSome && !eos then 0 else 0xFFFFFFFF) * 2 ^ 32 +
      r.2.2.getD x.stopnum % 16 * 2 ^ 64 + r.2.2.isSome.toNat * 2 ^ 68 + r.2.1.length * 2 ^ 72)]) ∧
  (∀ (buf : List Byte) (stops : List (List Byte)),
    (detokenise false buf stops).2.2 = none →
      (detokenise false buf stops).1 ++ (detokenise false buf stops).2.1 = buf ∧ (detokenise false buf stops).2.1.length ≤ 32)

/-- MASK without a grammar and with a table set of no states (R318): every token is allowed, with data element 0 and no accept
bit (log entry 26, DEDUCED). -/
def QuernMasks : Prop := ∀ (s : State) (k : SlotId) (c : Command) (rest : List Command) (tc : Reg) (x : Text) (hl dst : Nat),
  Taken s k .e1 c rest → headerOpc c.header = 0x13 → BoundText s c tc x → Tables s tc hl → x.gram = false →
  fld (ofBytes (s.bytes hl 64)) 384 16 = 0 →
  let v := fld (ofBytes (s.bytes hl 64)) 160 32
  2 ≤ v → bits (c.elem 2).bits 0 32 = v → (v + 7) / 8 ≤ roomOf (c.elem 1).bits →
  Reach s (c.elem 1) .store ((v + 7) / 8) dst →
  ∃ t, exec .quernMask s = .next t ∧ Answered s t k .e1 c 0 0 v [0#128] ∧ ofBytes (t.bytes dst ((v + 7) / 8)) = 2 ^ v - 1

/-! ### The harrow (R249 to R276) -/

/-- The slot may use the harrow, and the slices of `l` are available (R255). -/
abbrev Harrows (s : State) (l : List (Fin 8)) : Prop :=
  Room s ∧ (∃ k, s.core.kernel = some k ∧ k.harrow = true) ∧ ∀ p ∈ l, s.sliceAvailable p = true

/-- The pattern that a map gives over a capability, its items in LM or CM, `n` bytes in all (R143, R256, R259). -/
abbrev NearTile (s : State) (a : RegIdx) (tm : Fin 16) (n : Nat) (pat : Pattern) : Prop :=
  s.mapOffset tm + 64 ≤ s.allocation ∧ Fits s (s.lm (s.mapOffset tm)) 64 false ∧ mapValid (mapBits s tm) = true ∧
    pat = mapPattern (mapBits s tm) ((here s).reg a).bits ∧ pat.items * pat.itemBytes = n ∧
    pat.aligned pat.itemBytes = true ∧ capFaultSpan ((here s).reg a) [.load] pat.span.1 pat.span.2 = none ∧ pat.near = true

/-- The bytes of items of a pattern, in order, as the core reads them: with what its own stores on their way write (R170). -/
def itemBytes (s : State) (pat : Pattern) (l : List Nat) : List Byte :=
  (l.map fun m => s.coreBytes (s.nearLoc (pat.itemAddr m)) pat.itemBytes).flatten

/-- The items of a pattern as a load keeps them: location, bytes, key identifier. -/
def itemRuns (s : State) (pat : Pattern) : List (Nat × Nat × BitVec 10) :=
  (upFrom 0 pat.items).map fun m => (s.nearLoc (pat.itemAddr m), pat.itemBytes, 0#10)

/-- The commit of the slot's sheaf brings no event that a solo grant has put off (R178). -/
abbrev NothingDeferred (s : State) : Prop := (s.slot s.cur).sheaf.solo = true → s.core.deferred = []

/-- The locations of the bytes of a pattern's items, in order. -/
def itemLocs (s : State) (pat : Pattern) : List Nat :=
  ((upFrom 0 pat.items).map fun m => upFrom (s.nearLoc (pat.itemAddr m)) pat.itemBytes).flatten

/-- No item of a pattern meets an uncorrectable error. -/
abbrev Clean (s : State) (pat : Pattern) : Prop := ∀ m, m < pat.items → s.isBad (s.nearLoc (pat.itemAddr m)) = false

def fmtA (s : State) : Nat := (here s).hfmt.toNat % 16
def fmtB (s : State) : Nat := (here s).hfmt.toNat / 16

/-- The planes: `hload`, HLOAD_COMPLETE, `hswap` and `hset.discard` (R256, R257, R269). Each 32-byte sector of a tile is as it was
at the commit of the `hload` or as it is when the load completes (R185); log entry 43 (DESIGN CHOICE) takes one of the two. -/
def Planes : Prop := ∀ s : State,
  (∀ (a : RegIdx) (tm : Fin 16) (pat : Pattern), Harrows s [s.sliceNo] → Unbound s [a] →
    levelEnables s.serviceLevel (fmtB s) = true → harrowFormat (fmtB s) = true → s.loadTurn s.cur = true →
    NearTile s a tm (formatTile (fmtB s)) pat → Clean s pat → (s.slot s.cur).sheaf.held = [] →
    NothingDeferred s →
    ∃ t, exec (.hload a tm) s = .next t ∧ t.slice.shadow = ⟨BitVec.ofNat 4 (fmtB s), false, []⟩ ∧
      t.slice.load = some ⟨itemBytes s pat (upFrom 0 pat.items), itemRuns s pat, false, none⟩ ∧ t.slice.active = s.slice.active ∧
      ⟨.hloadComplete, .slice s.sliceNo⟩ ∈ t.agenda) ∧
  (∀ p l, s.event = .slice p → (s.harrow.slices.get p).load = some l →
    ∃ t tile, exec .hloadComplete s = .next t ∧ t.harrow.slices.get p = { s.harrow.slices.get p with
      shadow := ⟨(s.harrow.slices.get p).shadow.fmt, true, tile⟩, load := none, bad := l.bad } ∧
      (l.far = false → t.core = s.core ∧ t.mem = s.mem ∧ ∃ early : Nat → Bool,
        tile = ((l.runs.map fun r => upFrom r.1 r.2.1).flatten.zip (l.tile.zip (s.lateTile l))).map
          fun x => if early (x.1 / 32) then x.2.1 else x.2.2)) ∧
  (Harrows s [s.sliceNo] → s.slice.shadow.valid = true → s.swapTurn = true → s.slice.bad = none →
    ∃ t, exec .hswap s = .next t ∧ t.slice.active = s.slice.shadow ∧ t.slice.shadow = s.slice.active) ∧
  (Harrows s [s.sliceNo] → s.slice.shadow.valid = false → s.slice.load = none →
    exec .hswap s = .next (trapped s 4 0x282 0#128 0#128)) ∧
  (Harrows s [s.sliceNo] → s.swapStands s.cur = false →
    ∃ t, exec .hsetDiscard s = .next t ∧ t.slice.shadow = ⟨s.slice.shadow.fmt, false, []⟩ ∧ t.slice.load = none ∧
      t.slice.active = s.slice.active)

/-- `hgo` of an unscaled format (R258 to R260): the operation takes its slot and its place in row order. -/
def OperationsStart : Prop := ∀ (s : State) (d a : RegIdx) (init : Bool) (tm : Fin 16) (pat : Pattern),
  Harrows s sliceIds → Unbound s [d, a] →
  let w := n64 ((here s).reg d).bits
  let k : Fin 4 := Fin.ofNat 4 (fld w 12 2)
  let rows := fld w 6 6 + 1
  s.goTurn s.cur k = true → w < 2 ^ 21 → fld w 0 6 + rows ≤ 64 → fld w 14 7 + 1 ≤ formatKt (fmtA s) →
  pairAccepted (fmtA s) (fmtB s) = true → formatScaled (fmtB s) = false → levelEnables s.serviceLevel (fmtA s) = true →
  levelEnables s.serviceLevel (fmtB s) = true →
  (∀ p, (s.harrow.slices.get p).active.valid = true ∧ (s.harrow.slices.get p).active.fmt.toNat = fmtB s) →
  NearTile s a tm (rows * formatRow (fmtA s)) pat → holdsLeave (s.slot s.cur) [1, 4] = true →
  ∃ t o, exec (.hgo d a init tm) s = .next t ∧ t.opSlot k = ⟨false, false, none, some o⟩ ∧ o.row0 = fld w 0 6 ∧
    o.rows = rows ∧ o.klen = fld w 14 7 ∧ o.init = init ∧ o.pattern = pat ∧ o.begun = false ∧ o.ended = false ∧
    t.harrow.queue = s.harrow.queue ++ [k] ∧ t.harrow.work = s.harrow.work ++ [.operation k (upFrom (fld w 0 6) rows)] ∧
    ⟨.harrowOperationBegin, .plain⟩ ∈ t.agenda

/-- The events of an operation (R261): it begins, its operands are read, its planes are free, and it is done. R185 lets each
32-byte sector be read at any one moment between the commit of the `hgo` and OC; log entry 43 (DESIGN CHOICE) takes one of the
two ends. -/
def OperationsProceed : Prop := ∀ (s : State) (k : Fin 4) (o : Operation), (s.opSlot k).op = some o →
  (∀ rest, s.harrow.queue = k :: rest → (∀ j x, (s.opSlot j).op = some x → x.begun = true → x.ended = true) →
    ∃ t y, exec .harrowOperationBegin s = .next t ∧ (t.opSlot k).op = some y ∧ y.begun = true ∧
      y.weights = s.harrow.slices.toList.map (fun x => x.active.tile) ∧ t.harrow.queue = rest ∧
      ⟨.operandsConsumed, .operation k⟩ ∈ t.agenda ∧ ⟨.operationDone, .operation k⟩ ∈ t.agenda) ∧
  (s.event = .operation k → o.begun = true → (s.opSlot k).oc = false → Clean s o.pattern →
    (∀ m, m < o.rows → ∀ i ∈ o.rowItems m, i < o.pattern.items) →
    ∃ t y, exec .operandsConsumed s = .next t ∧ (t.opSlot k).oc = true ∧ (t.opSlot k).op = some y ∧
      (∃ early : Nat → Bool, y.acts = ((itemLocs s o.pattern).zip (o.early.zip (itemBytes s o.pattern (upFrom 0 o.pattern.items)))).map
        fun x => if early (x.1 / 32) then x.2.1 else x.2.2) ∧ y.badRows = o.badRows) ∧
  (s.event = .operation k → o.begun = true →
    ∃ t y, exec .harrowEndCycle s = .next t ∧ (t.opSlot k).op = some y ∧ y = { o with ended := true }) ∧
  (s.event = .operation k → o.ended = true → (∀ w ∈ s.harrow.work, isOperation k w = false) →
    ∃ t, exec .operationDone s = .next t ∧ (t.opSlot k).done = true ∧ (t.opSlot k).op = none)

/-- The clamp of R44 to a signed 32-bit number. -/
def clamp32 (x : Int) : Int := max (-(2 ^ 31 : Int)) (min x (2 ^ 31 - 1))

/-- A signed byte of a list. -/
def byteAt (l : List Byte) (i : Nat) : Int := (l.getD i 0#8).toInt

/-- The row of an integer operation (R44): block by block of 32, each sum clamped. -/
def int8Cell (o : Operation) (m p n : Nat) (acc : Int) : Int :=
  (upFrom 0 ((o.klen + 32) / 32)).foldl (fun a b =>
    clamp32 (a + ((upFrom (32 * b) (min 32 (o.klen + 1 - 32 * b))).map fun k =>
      byteAt o.acts (64 * m + k) * byteAt (o.weights.getD p []) (64 * n + k)).sum)) acc

/-- ACCUMULATOR_ROW_FINAL (R260, R261): every cell of the row is reduced, and no cell of another row changes. -/
def RowsBecomeFinal : Prop := ∀ (s : State) (k : Fin 4) (r : Fin 64) (o : Operation),
  s.event = .row k r → (s.opSlot k).op = some o → (s.opSlot k).oc = true → s.harrow.work = [.operation k [r.val]] →
  r.val ∉ o.badRows →
  ∃ t, exec .accumulatorRowFinal s = .next t ∧ t.harrow.work = [] ∧
    (∀ p n, n < 64 → t.harrow.cell p r n =
      BitVec.ofNat 32 ((o.job (r.val - o.row0) (64 * p.val + n)).reduce (if o.init then 0 else (s.harrow.cell p r n).toNat)).1) ∧
    (∀ p x n, x < 64 → x ≠ r.val → n < 64 → t.harrow.cell p x n = s.harrow.cell p x n) ∧
    (o.afmt = 0#4 → o.bfmt = 0#4 → o.klen < 64 → ∀ p n, n < 64 →
      (t.harrow.cell p r n).toInt = int8Cell o (r.val - o.row0) p.val n (if o.init then 0 else (s.harrow.cell p r n).toInt))

/-- The state in which an instruction begins that a sheaf ends before (R165, R253). -/
def sheafAhead (s : State) : State := if (s.slot s.cur).sheaf.count = 0 then s else s.commit s.cur

/-- `hwait.oc` and `hwait.done` (R262, R270), `hzero` (R263) and `hset.clr` (R269) with no work before them. -/
def WaitsAndZeros : Prop := ∀ (s : State) (a : RegIdx), Unbound s [a] →
  let w := n64 ((here s).reg a).bits
  (∀ (k : Fin 4) (done : Bool), Harrows s [] → w = k.val →
    let flag := if done then (s.opSlot k).done else (s.opSlot k).oc
    (flag = true → (s.opSlot k).err = none → exec (.hwait a done) s = .next (ran (sheafAhead s) 4 id)) ∧
    (flag = false → exec (.hwait a done) s = .next ((sheafAhead s).beginWait s.cur (if done then .done k else .consumed k))) ∧
    (∀ e, flag = true → (s.opSlot k).err = some e → ∃ t, exec (.hwait a done) s = .next t ∧ (t.opSlot k).err = none)) ∧
  (Harrows s sliceIds → w < 2 ^ 12 → fld w 0 6 + fld w 6 6 + 1 ≤ 64 → s.harrow.work = [] →
    ∃ t, exec (.hzero a) s = .next t ∧ ∀ p r n, r < 64 → n < 64 → t.harrow.cell p r n =
      if fld w 0 6 ≤ r ∧ r ≤ fld w 0 6 + fld w 6 6 then 0#32 else s.harrow.cell p r n) ∧
  (Harrows s [] → w < 2 ^ 6 → s.harrow.work = [] →
    ∃ t, exec (.hsetClr a) s = .next t ∧ t.harrow.flags = s.harrow.flags &&& ~~~BitVec.ofNat 6 w)

/-- `hdrain` into the core's own LM (R264): the drain joins the queue and takes its place in row order. -/
def DrainsStart : Prop := ∀ (s : State) (d a : RegIdx) (bf : Bool) (off : Nat), Harrows s sliceIds → Unbound s [d, a] →
  let w := n64 ((here s).reg d).bits
  let rows := fld w 6 6 + 1
  fld w 22 10 = 0 → (fld w 20 1 = 1 ∨ fld w 12 8 = 0) → fld w 0 6 + rows ≤ 64 →
  NearLm s a [.store] (rows * if bf then 1024 else 2048) 32 off → s.harrow.drains.length < 4 →
  ∃ t x, exec (.hdrain d a bf) s = .next t ∧ t.harrow.drains = s.harrow.drains ++ [x] ∧ x.ownLm = true ∧ x.offset = off ∧
    x.row0 = fld w 0 6 ∧ x.nrows = rows ∧ x.bf16 = bf ∧ x.next = 0 ∧ x.zero = (fld w 21 1 == 1) ∧ x.wake = (fld w 20 1 == 1) ∧
    x.cls.toNat = fld w 12 8 ∧ x.tag.toNat = fld w 32 32 ∧
    t.harrow.work = s.harrow.work ++ [.drain (upFrom (fld w 0 6) rows)] ∧ ⟨.drainRowWrite, .plain⟩ ∈ t.agenda

/-- DRAIN_ROW_WRITE in FP32 and DRAIN_WAKEUP, of a drain into the core's own LM (R264, R276). -/
def DrainsWrite : Prop := ∀ (s : State) (x : Drain) (rest : List Drain), s.harrow.drains = x :: rest → x.ownLm = true →
  Quiet s →
  (∀ r, x.next < x.nrows → r = x.row0 + x.next → r < 64 → s.harrow.work = [.drain [r]] → x.bf16 = false →
    x.offset + x.next * 2048 + 2048 ≤ 2 ^ 18 →
    ∃ t, exec .drainRowWrite s = .next t ∧
      (∀ p : Fin 8, ∀ n, n < 64 → t.bytes (s.lm (x.offset + x.next * 2048 + 256 * p.val + 4 * n)) 4 =
        leBytes 4 (s.harrow.cell p r n).toNat) ∧
      (∀ p n, n < 64 → t.harrow.cell p r n = if x.zero then 0#32 else s.harrow.cell p r n)) ∧
  (x.nrows ≤ x.next → x.wake = true → (∀ m, s.event ≠ .msg m) → s.core.mode = .running → s.core.kernel.isSome = true → s.core.handoff = none →
    s.core.scrubbing = false → s.ringFree = true → (∃ p, p < 256 ∧ ∀ y ∈ s.core.ring, y.place ≠ p) →
    (∃ p, p < 16 ∧ p ∉ s.core.received) → s.lmNat (tableOffset s.core.clsbase + 4 * x.cls.toNat) 4 ≠ 0 →
    tableOffset s.core.rrbase + 12288 ≤ 2 ^ 18 →
    ∃ t p, exec .drainWakeup s = .next t ∧ t.harrow.drains = rest ∧ t.core.received = s.core.received ++ [p] ∧
      t.core.ring.length = s.core.ring.length + 1 ∧
      ofBytes (t.bytes (s.lm (tableOffset s.core.rrbase + 4096 + 512 * p)) 16) % 2 ^ 128 =
        (x.tag.toNat * 2 ^ 96 + x.flags.toNat * 2 ^ 46 + x.err.toNat * 2 ^ 45 + x.bf16.toNat * 2 ^ 44 + (x.nrows - 1) * 2 ^ 38 +
          x.row0 * 2 ^ 32 + x.offset) % 2 ^ 128)

/-- `hacc.rd`, `hacc.wr` and `hstat` (R267, R268). -/
def CellsAndStatus : Prop := ∀ (s : State) (d a : RegIdx), Harrows s [s.sliceNo] → Unbound s [d, a] →
  let w := n64 ((here s).reg a).bits
  let r := fld w 0 6
  let g := fld w 6 4
  (w < 2 ^ 10 → s.rowTurn r = true →
    ∃ v : Q, exec (.haccRd d a) s = .next ((ran s 4 fun c => c.setReg d (Reg.data v)).commit s.cur) ∧
      ∀ i, i < 4 → v.extractLsb' (32 * i) 32 = s.harrow.cell s.sliceNo r (4 * g + i)) ∧
  (w < 2 ^ 10 → s.rowTurn r = true →
    ∃ t, exec (.haccWr d a) s = .next t ∧ ∀ p x n, x < 64 → n < 64 → t.harrow.cell p x n =
      if p = s.sliceNo ∧ x = r ∧ n / 4 = g then ((here s).reg d).bits.extractLsb' (32 * (n % 4)) 32 else s.harrow.cell p x n) ∧
  ∃ v : Q, exec (.hstat d) s = .next (ran s 4 fun c => c.setReg d (Reg.data v)) ∧
    (v.getLsbD 8 = s.slice.load.isSome) ∧ (v.getLsbD 9 = s.slice.shadow.valid) ∧ (v.getLsbD 10 = s.slice.active.valid) ∧
    bits v 12 4 = s.slice.active.fmt.toNat ∧ bits v 16 4 = s.slice.shadow.fmt.toNat ∧
    (∀ k : Fin 4, v.getLsbD (24 + k.val) = (s.opSlot k).oc ∧ v.getLsbD (28 + k.val) = (s.opSlot k).done ∧
      v.getLsbD (32 + k.val) = (s.opSlot k).err.isSome)

/-! ### The windrow (R322 to R345) -/

/-- A register names an open sequence of this die and of the core's tenant (R323). -/
abbrev Sequence (s : State) (a : RegIdx) (n : Nat) : Prop :=
  let c := (here s).reg a
  c.tag = true ∧ otypeOf c.bits = 0 ∧ hasPerm c.bits .windrow = true ∧ (capBounds c.bits).1 ≤ (addrOf c.bits : Int) ∧
    (addrOf c.bits : Int) < (capBounds c.bits).2 ∧ addrOf c.bits = 256 * s.dieNo + n ∧ n < 256 ∧
    (s.seq n).isOpen = true ∧ (s.seq n).tenant = s.core.tenant ∧ Room s ∧ (s.slot s.cur).sheaf.held = [] ∧ NothingDeferred s

/-- A reply in LM: the tokens that a capability to all of it names (R327). -/
abbrev Reply (s : State) (b : RegIdx) (l : List (BitVec 32)) : Prop :=
  ∃ off, NearLm s b [.load] (4 * l.length) 1 off ∧ capLength ((here s).reg b).bits = 4 * l.length ∧ 0 < l.length ∧ l.length ≤ 256 ∧
    Free s (s.lm off) (4 * l.length) false ∧
    ∀ i (_ : i < l.length), l.getD i 0#32 = BitVec.ofNat 32 (ofBytes (s.coreBytes (s.lm off + 4 * i) 4))

/-- The registers of the issuing slot with a result. -/
def Wrote (s t : State) (d : RegIdx) (v : Reg) : Prop :=
  ∀ r, (t.ctx s.cur).reg r = if r = d ∧ r ≠ 0 then v else (here s).reg r

/-- A prediction in slot k of sequence n. -/
abbrev Predicts (s : State) (n : Nat) (k : Fin 4) (p : Prediction) : Prop := (s.seq n).slots.get k = some p

/-- A sequence rewound to position x from a prediction (R332). -/
def Rewound (s t : State) (n : Nat) (k : Fin 4) (p : Prediction) (x : Nat) : Prop :=
  (t.seq n).kvlen = x ∧ (t.seq n).sampler = p.sampler ∧ (t.seq n).text = p.text ∧ (t.seq n).slots.get k = none ∧
    (t.seq n).stalled = false ∧
    (∀ j, j ≠ k → (t.seq n).slots.get j = ((s.seq n).slots.get j).filter fun z => decide (z.c < x)) ∧
    (t.seq n).tokens.map (fun y => (y.token, y.pos)) =
      ((s.seq n).tokens.filter fun y => decide (y.pos < x)).map fun y => (y.token, y.pos)

/-- `wopen` and `wclose` (R326, R340). -/
def SequencesOpenAndClose : Prop := ∀ (s : State) (d a b : RegIdx), Unbound s [d, a, b] →
  let c := (here s).reg a
  let x := n64 ((here s).reg b).bits
  (∀ n, Room s → c.tag = true → otypeOf c.bits = 0 → hasPerm c.bits .windrow = true → x < 2 ^ 48 →
    n < 256 → (s.seq n).isOpen = false → (capBounds c.bits).1 ≤ (s.seqId n : Int) → (s.seqId n : Int) < (capBounds c.bits).2 →
    (∀ m, m < n → (s.seq m).isOpen = true ∨ (s.seqId m : Int) < (capBounds c.bits).1 ∨ (capBounds c.bits).2 ≤ (s.seqId m : Int)) →
    (x / 2 ^ 32 = 0 ∨ s.bindable (x / 2 ^ 32) (x % 2 ^ 32) = true) → (s.slot s.cur).sheaf.held = [] →
    ∃ t, exec (.wopen d a b) s = .next t ∧ Wrote s t d ⟨withAddr c.bits (256 * s.dieNo + n), true⟩ ∧
      (t.seq n).isOpen = true ∧ (t.seq n).tenant = s.core.tenant ∧ (t.seq n).kvlen = x % 2 ^ 32 ∧
      (t.seq n).binding = x / 2 ^ 32 ∧ (t.seq n).made = [] ∧ (∀ k, (t.seq n).slots.get k = none) ∧
      (0 < x / 2 ^ 32 → (t.kvDesc (x / 2 ^ 32)).bound = true)) ∧
  (∀ n, Sequence s a n → ∃ t, exec (.wclose a) s = .next t ∧ (t.seq n).isOpen = false ∧ (t.seq n).made = [] ∧
    (∀ r, (t.ctx s.cur).reg r = (here s).reg r) ∧
    (0 < (s.seq n).binding → (s.seq n).binding < 1024 → (t.kvDesc (s.seq n).binding).bound = false))

/-- `wcall` (R327, R336). -/
def Predictions : Prop := ∀ (s : State) (d a b : RegIdx) (n : Nat) (l : List (BitVec 32)),
  Unbound s [d, a, b] → Sequence s a n → Reply s b l →
  (∀ k, s.quernPending n = false → (s.seq n).slots.get k = none → (∀ j, j < k → (s.seq n).slots.get j ≠ none) →
    ∃ t, exec (.wcall d a b) s = .next t ∧ Wrote s t d (Reg.data (q k.val)) ∧
      Predicts t n k ⟨(s.seq n).kvlen, l, (s.seq n).sampler, (s.seq n).text⟩ ∧
      (∀ j, j ≠ k → (t.seq n).slots.get j = (s.seq n).slots.get j) ∧ (t.seq n).kvlen = (s.seq n).kvlen ∧
      (t.ctx s.cur).spec = BitVec.ofNat 12 (2 ^ 11 + ((s.seq n).depth + 1) * 2 ^ 8 + n)) ∧
  ((∀ k, (s.seq n).slots.get k ≠ none) → exec (.wcall d a b) s = .next (trappedLate s 0x303 (q (256 * s.dieNo + n)) 4#128))

/-- `wtok` (R328): the token stands at its position, unless it contradicts a prediction. -/
def TokensAreAppended : Prop := ∀ (s : State) (r a b : RegIdx) (n : Nat), Unbound s [r, a, b] → Sequence s a n →
  let y := s.seq n
  let x := n64 ((here s).reg b).bits
  let tok := BitVec.ofNat 32 x
  let denied : Prop := ∃ k p, y.slots.get k = some p ∧ p.c ≤ y.kvlen ∧ y.kvlen < p.c + p.tokens.length ∧
    p.tokens.getD (y.kvlen - p.c) 0#32 ≠ tok
  (x < 2 ^ 32 → ¬ denied → y.tokens.length < 1024 → y.binding = 0 →
    ∃ t, exec (.wtok r a b) s = .next t ∧ (t.seq n).kvlen = (y.kvlen + 1) % 2 ^ 32 ∧ (t.seq n).sampler = ((here s).reg r).bits ∧
      (t.seq n).stalled = false ∧
      (t.seq n).tokens.map (fun z => (z.token, z.pos)) = y.tokens.map (fun z => (z.token, z.pos)) ++ [(tok, y.kvlen)]) ∧
  (x < 2 ^ 32 → denied → exec (.wtok r a b) s = .next (trappedLate s 0x301 (q (256 * s.dieNo + n)) 2#128)) ∧
  (2 ^ 32 ≤ x → x < 2 ^ 33 → ∃ t, exec (.wtok r a b) s = .next t ∧ (t.seq n).stalled = true ∧ (t.seq n).kvlen = y.kvlen)

/-- `wreq` (R329, R330) and WINDROW_REQUEST_SEND: a request waits while its tag is speculative, and is then sent. -/
def RequestsWait : Prop := ∀ (s : State) (r a b : RegIdx) (n : Nat),
  (∀ early g off, Unbound s [r, a, b] → Sequence s a n →
    let box := n64 ((here s).reg r).bits
    let y := s.seq n
    let data := s.coreBytes (s.lm off) 64
    box < 64 → s.boundFunction s.core.tenant = some g → NearLm s b [.load] 64 16 off → Free s (s.lm off) 64 false →
    (early = true → (s.outboxOf g box).early = false) → y.places < 64 →
    ((∃ k p, y.slots.get k = some p ∧ p.c ≤ y.kvlen) →
      ∃ t, exec (.wreq r a b early) s = .next t ∧ ⟨data, box, y.kvlen⟩ ∈ (t.seq n).requests) ∧
    (y.made = [] → (∀ k, y.slots.get k = none) →
      ∃ t, exec (.wreq r a b early) s = .next t ∧ (t.seq n).sending = y.sending ++ [⟨data, box, y.tenant, true⟩] ∧
        (t.seq n).requests = [] ∧ ∃ e ∈ t.agenda, e.what = .windrowRequestSend)) ∧
  (∀ m : Fin 256, ∀ x rest g, s.event = .sequence m → (s.seq m.val).sending = x :: rest → s.boundFunction x.tenant = some g →
    ((s.outboxOf g x.mailbox).entries.length < 256 →
      ∃ t, exec .windrowRequestSend s = .next t ∧ (t.seq m.val).sending = rest ∧
        (t.outboxOf g x.mailbox).entries = (s.outboxOf g x.mailbox).entries ++ [x.payload]) ∧
    (256 ≤ (s.outboxOf g x.mailbox).entries.length →
      ∃ t, exec .windrowRequestSend s = .next t ∧ (t.seq m.val).sending = x :: rest ∧ t.core = s.core))

/-- `wcheck` and `wrewind` of a sequence bound to no cache (R331, R332). -/
def PredictionsAreChecked : Prop := ∀ (s : State) (d a b : RegIdx) (k : Fin 4) (n : Nat) (p : Prediction),
  Unbound s [d, a, b] → Sequence s a n → Predicts s n k p → (s.seq n).binding = 0 → s.quernPending n = false →
  (∀ l, Reply s b l →
    (l = p.tokens → ∃ t, exec (.wcheck d a b k) s = .next t ∧ Wrote s t d (Reg.data (wr64 (p.tokens.length + 2 ^ 16 : Nat))) ∧
      (t.seq n).slots.get k = none ∧ (t.seq n).kvlen = (s.seq n).kvlen) ∧
    (l ≠ p.tokens →
      let x := min (p.c + agreeing p.tokens l) (s.seq n).kvlen
      ∃ t, exec (.wcheck d a b k) s = .next t ∧ Wrote s t d (Reg.data (wr64 (x - p.c + 2 ^ 17 : Nat))) ∧ Rewound s t n k p x)) ∧
  (∀ j, n64 ((here s).reg b).bits = j → j ≤ min p.tokens.length ((s.seq n).kvlen - p.c) →
    ∃ t, exec (.wrewind a b k) s = .next t ∧ Rewound s t n k p (p.c + j) ∧ ∀ r, (t.ctx s.cur).reg r = (here s).reg r)

/-- `wretire` (R333) and the three words of `wstat` (R335). -/
def SequencesAreRead : Prop := ∀ (s : State) (d a : RegIdx) (n : Nat), Unbound s [d, a] → Sequence s a n →
  let y := s.seq n
  let l := y.tokens.filter Token.retired
  (∃ t v, exec (.wretire d a) s = .next t ∧ Wrote s t d (Reg.data v) ∧ bits v 96 2 = min 3 l.length ∧
    v.getLsbD 98 = decide (3 < l.length) ∧
    (∀ i, i < 3 → v.extractLsb' (32 * i) 32 = ((l.take 3).map Token.token).getD i 0#32) ∧
    (t.seq n).tokens.length = y.tokens.length - min 3 l.length) ∧
  (∃ t v, exec (.wstat d a) s = .next t ∧ Wrote s t d (Reg.data v) ∧
    (y.kvlen < 2 ^ 32 → y.tokens.length < 2 ^ 16 → y.places < 2 ^ 16 →
      v.getLsbD 0 = true ∧ v.getLsbD 1 = y.stalled ∧ v.getLsbD 2 = y.text.stopped ∧
      (∀ k : Fin 4, v.getLsbD (4 + k.val) = (y.slots.get k).isSome) ∧ bits v 8 3 = y.depth ∧ bits v 32 16 = y.tokens.length ∧
      bits v 64 32 = y.kvlen ∧ bits v 96 12 = y.tenant.toNat)) ∧
  (∃ t, exec (.wstatSmp d a) s = .next t ∧ Wrote s t d (Reg.data y.sampler)) ∧
  ∀ k : Fin 4, ∃ t v, exec (.wstatP d a k) s = .next t ∧ Wrote s t d (Reg.data v) ∧
    (y.slots.get k = none → v = 0#128) ∧
    (∀ p, Predicts s n k p → p.c < 2 ^ 32 → p.tokens.length < 2 ^ 16 →
      bits v 0 32 = p.c ∧ bits v 32 16 = p.tokens.length ∧ v.getLsbD 48 = true)

/-! ### Bring-up, the host, the enclosure and the root of trust (R309, R350 to R390) -/

/-- MODULE_RESET (R388): everything as after reset but the coordinates, the fuses and what stands outside the module. That the
memories read 0 is log entry 6 (DESIGN CHOICE), that the fuses and the memory outside are kept log entry 5 (DESIGN CHOICE). -/
def ResetsTheModule : Prop := ∀ s : State, ∃ t, exec .moduleReset s = .next t ∧
  t.core = { Core.reset with id := s.core.id } ∧ t.harrow = Harrow.reset ∧ t.cluster = Cluster.reset ∧ t.die = Die.reset ∧
  t.sys = [] ∧ t.seals = [] ∧ t.bad = [] ∧ t.tags = [] ∧ t.agenda = [] ∧ t.module.phase = .inReset ∧
  t.module.meas = Module.reset.meas ∧ t.module.meas4 = false ∧ t.module.hostOwned = [] ∧ t.module.enclaves = [] ∧
  t.module.pcap = s.module.fusecap ∧ t.module.fusecap = s.module.fusecap ∧ t.module.fusedHvtop = s.module.fusedHvtop ∧
  t.module.fusedWindows = s.module.fusedWindows ∧ t.module.fusedPorts = s.module.fusedPorts ∧
  ∀ a, t.byte a = if spaceOf a ∈ [.host, .peer, .storage] then s.byte a else 0#8

/-- ROT_RELEASE (R369, R388) and MEASUREMENT_REGISTER_4_WRITE (R370, R371). That the boot firmware begins in slot 0 is the
model's reading (log entry 42). -/
def ReleasesTheModule : Prop := ∀ (s : State) (ok : Bool) (a b c v : BitVec 256),
  (s.event = .release ok a b c →
    (s.module.phase = .inReset → ok = true →
      ∃ t, exec .rotRelease s = .next t ∧ t.module.phase = .released ∧ t.module.register 0 = Config.sha3 s.module.fuses ∧
        t.module.register 1 = a ∧ t.module.register 2 = b ∧ t.module.register 3 = c ∧
        (∀ i : Fin 16, 4 ≤ i.val → t.module.register i = s.module.register i) ∧
        (t.module.identity.map fun x => x.cdi0) = some (Config.sha3 (leBytes 32 Config.deviceSecret.toNat ++
          leBytes 32 (Config.sha3 s.module.fuses).toNat ++ leBytes 32 a.toNat)) ∧
        (t.module.identity.map fun x => x.deviceId) = some (Config.sha3 ([0x4D#8, 0x50#8, 0x58#8, 0x46#8, 0x31#8, 0x2D#8, 0x44#8,
          0x45#8, 0x56#8, 0x49#8, 0x44#8] ++ leBytes 32 Config.deviceSecret.toNat)) ∧
        (s.core.id = 0#13 → (t.ctx 0).level = .monitor ∧ (t.ctx 0).handler = true) ∧ (s.core.id ≠ 0#13 → t.core = s.core)) ∧
    ((s.module.phase ≠ .inReset ∨ ok = false) → exec .rotRelease s = .next s)) ∧
  (s.event = .digest v →
    (s.module.phase = .released → s.module.meas4 = false →
      ∃ t, exec .measurementRegister4Write s = .next t ∧ t.module.register 4 = v ∧ t.module.meas4 = true ∧
        (∀ i : Fin 16, i ≠ 4 → t.module.register i = s.module.register i) ∧ t.core = s.core ∧ t.mem = s.mem) ∧
    ((s.module.phase ≠ .released ∨ s.module.meas4 = true) → exec .measurementRegister4Write s = .next s))

/-- A setting of Table 28.6: what was written where it meets its limits, else the value of the table, and reported. -/
def Settled {α : Type} (written : Option α) (ok : α → Prop) (d got : α) (reported : Prop) : Prop :=
  match written with
  | some x => (ok x → got = x ∧ ¬ reported) ∧ (¬ ok x → got = d ∧ reported)
  | none => got = d ∧ reported

/-- A row map within its limits (R274): 64 distinct working rows of the 66. -/
def GoodMap (p : Fin 8) (l : List Nat) : Prop :=
  l.length = 64 ∧ l.Nodup ∧ ∀ r ∈ l, r < 66 ∧ Config.rowWorks p.val r = true

/-- STILE_START (R388, R389, Table 28.6). That the four slots then belong to the system image (log entry 10), and where the
Stile, the image and the boot firmware stand (log entry 42), is the model's reading. -/
def StartsTheStile : Prop := ∀ (s : State) (x : Settings), s.event = .settings x →
  (s.module.phase = .released → ∃ t, exec .stileStart s = .next t ∧ t.module.phase = .started ∧
    Settled x.silo (fun n => n % 16 = 0 ∧ 16 ≤ n ∧ n ≤ 256) 64 t.module.silo (.silo ∈ t.module.replaced) ∧
    Settled x.hvtop (fun n => 1 ≤ n ∧ n ≤ 1279 ∧ n ≤ s.module.fusedHvtop) (Nat.min 1279 s.module.fusedHvtop) t.module.hvtop
      (.hvtop ∈ t.module.replaced) ∧
    Settled (x.pcap.orElse fun _ => s.module.settings.pcap) (fun w => 1000 ≤ w ∧ w ≤ s.module.fusecap) s.module.fusecap
      t.module.pcap (.pcap ∈ t.module.replaced) ∧
    Settled ((x.spills.find? fun e => e.1.val == s.dieNo).map Prod.snd)
      (fun p => p.1 % 8192 = 0 ∧ p.2 % 8192 = 0 ∧ t.module.hvtop * 2 ^ 30 ≤ p.1 ∧ p.1 + p.2 ≤ 0x13FFC000000 ∧
        p.2 / 8192 ≤ 65536 - t.module.silo * 128 ∧
        ∀ e ∈ x.spills, e.1.val ≠ s.dieNo → ¬ ∃ a, p.1 ≤ a ∧ a < p.1 + p.2 ∧ e.2.1 ≤ a ∧ a < e.2.1 + e.2.2) (0, 0) t.module.spill
      (.spill ∈ t.module.replaced) ∧
    Settled (x.servers.map some) (fun l => ∀ d, d < 8 → ∃ c ∈ l.getD [], dieOf c = d) none t.module.servers
      (.servers ∈ t.module.replaced) ∧
    (∀ p, Settled ((x.maps.find? fun e => e.1 == p).map fun e => (false, e.2.any fun r => decide (64 ≤ r)))
      (fun _ => ∀ e, (x.maps.find? fun e => e.1 == p) = some e → GoodMap p e.2) (true, false)
      ((t.harrow.slices.get p).unmapped, (t.harrow.slices.get p).spare) (.rowMap p ∈ t.module.replaced)) ∧
    (∀ k, (t.ctx k).image = true ∧ (t.ctx k).mx.vec = ⟨Config.stileVector, true⟩) ∧
    (t.isServer s.core.id = true → (t.ctx 0).level = .supervisor ∧ (t.ctx 0).handler = true) ∧
    (s.core.id ≠ 0#13 → t.mem = s.mem)) ∧
  (s.module.phase ≠ .released → exec .stileStart s = .next s)

/-- THERMAL_THROTTLE, THERMAL_RECOVER and THERMAL_TRIP (R396). What a trip resets is log entry 36 (DEDUCED). -/
def ThermalLimits : Prop := ∀ (s : State) (d : Fin 8), s.event = .die d → s.answers = true →
  (d.val = s.dieNo → exec .thermalThrottle s = .next { s with die := { s.die with throttle := true } }) ∧
  (d.val = s.dieNo → ∃ t, exec .thermalRecover s = .next t ∧ t.die = { s.die with throttle := false } ∧
    ⟨.headlandGrant, .plain⟩ ∈ t.agenda ∧ t.core = s.core ∧ t.mem = s.mem) ∧
  (d.val ≠ s.dieNo → ∃ t u, exec .thermalThrottle s = .next t ∧ exec .thermalRecover s = .next u ∧
    t.throttledDie d.val = true ∧ u.throttledDie d.val = false ∧
    (∀ e, e ≠ d.val → t.throttledDie e = s.throttledDie e ∧ u.throttledDie e = s.throttledDie e) ∧
    t.core = s.core ∧ u.core = s.core ∧ t.die = s.die ∧ u.die = s.die) ∧
  (∃ t, exec .thermalTrip s = .next t ∧ t.module.phase = .stopped ∧ t.module.tripped = true ∧ t.clocked = false ∧
    t.core = { Core.reset with id := s.core.id } ∧ t.harrow = Harrow.reset ∧ t.die = Die.reset)

/-- UNCORRECTABLE_MEMORY_ERROR (R309): no byte of the block opens until the whole block is written. -/
def MemoryErrors : Prop := ∀ (s : State) (loc : Nat), s.event = .line loc →
  ∃ t, exec .uncorrectableMemoryError s = .next t ∧ t.mem = s.mem ∧ t.core = s.core ∧
    (∀ key a, a / 256 = loc / 256 → t.opens key a = false) ∧ (∀ key a, a / 256 ≠ loc / 256 → t.opens key a = s.opens key a)

/-! ### Stores by other cores and by firmware -/

/-- The store of the event leaves register `a` at `new`, and changes nothing else. -/
def Sets (s : State) (i : Instr) (a : Nat) (new : BitVec 64) : Prop :=
  ∃ t, exec i s = .next t ∧ t.sysReg a = new ∧ (∀ b, b ≠ a → t.sysReg b = s.sysReg b) ∧ t.core = s.core ∧
    t.module = s.module ∧ t.mem = s.mem ∧ t.die = s.die ∧ t.agenda = s.agenda

/-- A write to the HEAD of a ring of `n` places (R402): it frees the places up to the value written, or is ignored. -/
def headAfter (n head tail v : Nat) : Nat :=
  if v < n ∧ (v + n - head % n) % n ≤ (tail + n - head % n) % n then v else head

/-- FQHEAD_WRITE, SQHEAD_WRITE, KRHEAD_WRITE (R402, R345), SUBMESH_WRITE (R226), SVC_WRITE (R390), PCAP_WRITE (R392),
KV_DESCRIPTOR_WRITE (R339) and SYSTEM_REGISTER_WRITE (R298), from another core or from firmware. -/
def RegisterStores : Prop := ∀ (s : State) (a : BitVec 68) (v : BitVec 64), s.event = .register a v →
  (∀ d : Fin 8,
    (a.toNat = sysAddr d.val 0 0 3 0 → Sets s .fqheadWrite a.toNat
      (BitVec.ofNat 64 (headAfter 4096 (s.sysReg a.toNat).toNat (s.sysReg (sysAddr d.val 0 0 3 8)).toNat v.toNat))) ∧
    (a.toNat = sysAddr d.val 0 0 4 0x20000 → Sets s .sqheadWrite a.toNat
      (BitVec.ofNat 64 (headAfter 256 (s.sysReg a.toNat).toNat (s.sysReg (sysAddr d.val 0 0 4 0x20008)).toNat v.toNat))) ∧
    (a.toNat = sysAddr d.val 0 0 6 0x8000 → Sets s .krheadWrite a.toNat
      (BitVec.ofNat 64 (headAfter 4096 (s.sysReg a.toNat).toNat (s.sysReg (sysAddr d.val 0 0 6 0x8008)).toNat v.toNat))) ∧
    (∀ i w, 0 < i → i < 1024 → w < 8 → a.toNat = sysAddr d.val 0 0 5 (64 * i + 8 * w) → Sets s .kvDescriptorWrite a.toNat
      (let old := (s.sysReg a.toNat).toNat
      let n := v.toNat
      BitVec.ofNat 64 (if fld (s.sysReg (sysAddr d.val 0 0 5 (64 * i + 40))).toNat 44 1 = 1 then
        (if w = 4 then n / 2 ^ 32 * 2 ^ 32 + old % 2 ^ 32 else if w = 5 then old / 2 ^ 32 * 2 ^ 32 + n % 2 ^ 32 else old)
      else if w = 5 then n % 2 ^ 44 + n / 2 ^ 45 % 2 * 2 ^ 45 else if w < 5 then n else 0)))) ∧
  (∀ t, t < 4096 → a.toNat = sysAddr 0 0 0 10 (8 * t) → Sets s .submeshWrite a.toNat
    (if t = 0 ∨ 2 ^ 19 ≤ v.toNat ∨ 32 ≤ fld v.toNat 0 5 + fld v.toNat 9 5 ∨ 16 ≤ fld v.toNat 5 4 + fld v.toNat 14 4 then
      s.sysReg a.toNat else v)) ∧
  (a.toNat = sysAddr 0 0 0 9 0 → Sets s .svcWrite a.toNat
    (BitVec.ofNat 64 (Nat.max s.serviceLevel (v.toNat % 4) + 4 * (if s.serviceLevel = 0 then v.toNat / 4 % 8 else s.l1die)))) ∧
  (a.toNat = sysAddr 0 0 0 9 8 → ∃ t, exec .pcapWrite s = .next t ∧
    t.module.pcap = Nat.min s.module.fusecap (Nat.max 1000 (v.toNat % 2 ^ 14)) ∧ t.die = s.die ∧ t.sys = s.sys ∧ t.core = s.core ∧
    ⟨.headlandGrant, .plain⟩ ∈ t.agenda) ∧
  (∀ die cl, die < 8 → cl < 64 → a.toNat = sysAddr die cl 0 1 0 → Sets s .systemRegisterWrite a.toNat (v &&& 3#64)) ∧
  (∀ f m, f < 8 → m < 64 → a.toNat = sysAddr 0 0 0 7 (0x9000 + 512 * f + 8 * m) → Sets s .systemRegisterWrite a.toNat
    (v &&& 0xFFFFFFFF1FFFFF01#64))

/-- PREEMPT_WRITE, RESUME_WRITE (R296), HALTEND (R286) and RELEASE (R297) of this core's control block. -/
def ControlStores : Prop := ∀ (s : State) (a : BitVec 68) (v : BitVec 64),
  (s.event = .register a v → a.toNat = s.controlBlock 0x10 → v.toNat < 16 → ∃ t, exec .preemptWrite s = .next t ∧
    (∀ k : SlotId, (t.slot k).preempt = ((s.slot k).preempt || (v.getLsbD k.val && (s.ctx k).firing.isSome)) ∧
      (t.ctx k).regs = (s.ctx k).regs ∧ (t.ctx k).firing = (s.ctx k).firing) ∧ t.mem = s.mem) ∧
  (s.event = .register a v → a.toNat = s.controlBlock 0x18 → fld v.toNat 18 45 = 0 →
    let k : SlotId := Fin.ofNat 4 (fld v.toNat 16 2)
    ∃ t, exec .resumeWrite s = .next t ∧ t.mem = s.mem ∧
      ((s.slot k).isFree = true → (s.slot k).starting = false →
        (t.slot k).resume = true ∧ (t.slot k).frame = v.setWidth 16 ∧ (t.slot k).isFree = false ∧ t.core.rerr = false) ∧
      ((s.slot k).isFree = false ∨ (s.slot k).starting = true → t.slot k = s.slot k ∧ t.core.rerr = true)) ∧
  (s.core.mode = .halted → ∃ t, exec .haltend s = .next t ∧ t.core.mode = .running ∧ t.core.slots = s.core.slots ∧
    ⟨.dispatch, .plain⟩ ∈ t.agenda) ∧
  (s.core.mode ≠ .halted → exec .haltend s = .next s) ∧
  (s.core.mode = .held → ∃ t, exec .releaseHeld s = .next t ∧ t.core.mode = .running ∧
    (∀ k, (t.slot k).isFree = true ∧ (t.slot k).sheaf = Sheaf.empty) ∧ t.core.kernel = s.core.kernel ∧ t.harrow = s.harrow) ∧
  (s.core.mode ≠ .held → exec .releaseHeld s = .next s)

/-- TBIND_WRITE (R353): a function bound to another tenant makes the store void; else every mailbox of the function that
the tenant had and of the function named is emptied. -/
def BindsTenants : Prop := ∀ (s : State) (a : BitVec 68) (v : BitVec 64) (t : Nat), s.event = .register a v → t < 4096 →
  a.toNat = sysAddr 0 0 0 7 (8 * t) →
  let f := v.toNat % 8
  let taken := ∃ e ∈ s.sys, ∃ u, u ≠ t ∧ u < 4096 ∧ e.1 = sysAddr 0 0 0 7 (8 * u) ∧ fld e.2.toNat 3 1 = 1 ∧ e.2.toNat % 8 = f
  (fld v.toNat 3 1 = 1 → taken → exec .tbindWrite s = .next s) ∧
  ((∀ e ∈ s.sys, systemKnown e.1 = true ∧ e.1 < 2 ^ 68) → (fld v.toNat 3 1 = 0 ∨ ¬ taken) → ∃ u, exec .tbindWrite s = .next u ∧
    u.sysReg a.toNat = BitVec.ofNat 64 (v.toNat % 16) ∧ (∀ m, m < 64 → (u.inboxOf f m).entries = [] ∧ (u.outboxOf f m).entries = []) ∧
    (∀ g m, m < 64 → s.boundFunction (BitVec.ofNat 12 t) = some g → (u.inboxOf g m).entries = [] ∧ (u.outboxOf g m).entries = []) ∧
    ∀ b, b ≠ a.toNat → u.sysReg b = s.sysReg b)

/-- Every peer that was sent MARK has sent its own and has answered every store sent to it, or no request reaches it any
more (R381). -/
def BarrierMet (s : State) : Prop := ∀ x ∈ s.module.signals, x.2 = true →
  s.peerCut x.1 = true ∨ ((s.link x.1).mark = true ∧ ∀ y ∈ s.module.inFlight, y.peer ≠ x.1)

/-- REKEY and DISSOLVE, REKEY_SWITCH and MARK_RECEIVE (R381), REMOVE_RECEIVE (R386). -/
def Rekeys : Prop := ∀ s : State,
  let self := BitVec.ofNat 64 (2 ^ s.selfPeer)
  let next := s.sysReg encNext
  (s.module.barrier = false → next.getLsbD s.selfPeer = true → (next &&& ~~~self) &&& ~~~Config.keysAgreed s.fresh = 0#64 →
    ∃ t, exec .rekey s = .next t ∧ t.module.barrier = true ∧ t.module.dissolving = false ∧
      t.sysReg encStat = s.sysReg encStat ||| 4#64 ∧ ⟨.rekeySwitch, .plain⟩ ∈ t.agenda ∧
      (∀ i, i < 64 → i ≠ s.selfPeer → (s.sysReg encMemb).getLsbD i = true →
        (i, next.getLsbD i) ∈ t.module.signals ∧ (next.getLsbD i = false → ∀ x ∈ t.module.inFlight, x.peer ≠ i))) ∧
  (s.module.barrier = true → exec .rekey s = .next s ∧ exec .dissolve s = .next s) ∧
  (s.module.barrier = false → s.formed = true → ∃ t, exec .dissolve s = .next t ∧ t.module.barrier = true ∧
    t.module.dissolving = true ∧ ⟨.rekeySwitch, .plain⟩ ∈ t.agenda) ∧
  (s.module.barrier = true → ¬ BarrierMet s → exec .rekeySwitch s = .next (s.schedule .rekeySwitch)) ∧
  (s.module.barrier = true → s.module.dissolving = false → BarrierMet s →
    ∃ t, exec .rekeySwitch s = .next t ∧ t.module.barrier = false ∧ t.generation = (s.generation + 1) % 2 ^ 16 ∧
      t.sysReg encMemb = next ∧ (t.sysReg encStat).getLsbD 2 = false ∧ t.module.links = []) ∧
  (s.module.barrier = true → s.module.dissolving = true → BarrierMet s →
    ∃ t, exec .rekeySwitch s = .next t ∧ t.module.barrier = false ∧ t.formed = false ∧ t.sysReg encMemb = self ∧
      t.module.inFlight = []) ∧
  (∀ i : Fin 64, s.event = .peer i → s.peerCut i.val = true →
    exec .markReceive s = .next s ∧ exec .removeReceive s = .next s) ∧
  (∀ i : Fin 64, s.event = .peer i → s.peerCut i.val = false →
    ∃ t, exec .markReceive s = .next t ∧ (t.link i.val).mark = true ∧ (∀ j, j ≠ i.val → t.link j = s.link j) ∧ t.sys = s.sys) ∧
  (∀ i : Fin 64, s.event = .peer i → s.peerCut i.val = false → i.val ≠ s.selfPeer → (s.module.handovers.map Prod.fst).Nodup →
    ∃ t, exec .removeReceive s = .next t ∧ (t.sysReg encMemb).getLsbD i.val = false ∧ (∀ x ∈ t.module.inFlight, x.peer ≠ i.val) ∧
      ∀ n h, (n, h) ∈ t.module.handovers → h.peer = i → h.state ≠ .sent)

/-- FABRIC_PACKET_RECEIVE (R379 to R381, R385): the next sequence number and a valid tag, or the link is out of service and
the peer's outstanding stores fail. -/
def FabricPackets : Prop := ∀ (s : State) (i : Fin 64) (gen : BitVec 16) (n : Nat) (ok answers : Bool),
  s.event = .packet i gen n ok answers →
  let good := gen.toNat = s.generation ∧ n = (s.link i.val).seqNo ∧ ok = true
  (s.module.fusedPorts = 0#16 → exec .fabricPacketReceive s = .next s) ∧
  (s.module.fusedPorts ≠ 0#16 → gen.toNat < s.generation →
    exec .fabricPacketReceive s = .next (s.record { handle := i.val, origin := 0#13, source := 7, cause := 0x388 })) ∧
  (s.peerCut i.val = false →
    (good → ∃ t, exec .fabricPacketReceive s = .next t ∧ (t.link i.val).seqNo = n + 1 ∧ (t.link i.val).out = false ∧
      t.module.inFlight = (if answers then s.module.inFlight.eraseP fun x => x.peer == i.val else s.module.inFlight) ∧
      t.sys = s.sys ∧ t.mem = s.mem ∧ t.core = s.core) ∧
    (s.generation ≤ gen.toNat → ¬ good → ∃ t, exec .fabricPacketReceive s = .next t ∧ (t.link i.val).out = true ∧
      (∀ x, x ∈ t.module.inFlight ↔ x ∈ s.module.inFlight ∧ x.peer ≠ i.val) ∧
      ((∀ x ∈ s.module.inFlight, x.peer ≠ i.val) →
        t.sys = (s.record { handle := i.val, origin := 0#13, source := 7, cause := 0x389 }).sys) ∧ t.mem = s.mem ∧ t.core = s.core)) ∧
  (s.isMember i.val = false ∨ (s.link i.val).out = true → s.generation ≤ gen.toNat → exec .fabricPacketReceive s = .next s)

/-- OWNREQ_TO_HOST and OWNREQ_TO_DEVICE: accepted, or ERR; OWNERSHIP_FLIP_COMPLETE (R365, Table 24.3). -/
def PagesChangeOwners : Prop := ∀ s : State,
  (∀ (p : BitVec 44) (toHost : Bool), s.event = .page p →
    let i : Instr := if toHost then .ownreqToHost else .ownreqToDevice
    (s.module.flip = none → p.toNat < s.module.hvtop * 2 ^ 18 → s.hostOwns p.toNat ≠ toHost →
      ∃ t, exec i s = .next t ∧ t.module.flip = some ⟨p.toNat, toHost⟩ ∧ t.module.ownErr = false ∧
        ⟨.ownershipFlipComplete, .plain⟩ ∈ t.agenda) ∧
    (s.module.flip.isSome = true ∨ s.module.hvtop * 2 ^ 18 ≤ p.toNat ∨ s.hostOwns p.toNat = toHost →
      exec i s = .next { s with module := { s.module with ownErr := true } })) ∧
  (∀ page, s.module.flip = some ⟨page, false⟩ → (∀ k, (s.slot k).sheaf.solo = false) → s.lateIn (page * 2 ^ 12) (2 ^ 12) = false →
    ∃ t, exec .ownershipFlipComplete s = .next t ∧ t.module.flip = none ∧ t.hostOwns page = false ∧
      (∀ q, q ≠ page → t.hostOwns q = s.hostOwns q) ∧ (∀ x, x / 4096 ≠ page → spaceOf x ≠ .lm → t.byte x = s.byte x) ∧
      ∀ l ∈ t.module.snooped, l.1 / 64 ≠ page) ∧
  (∀ page, s.module.flip = some ⟨page, true⟩ → (∀ k, (s.slot k).sheaf.solo = false) → s.lateIn (page * 2 ^ 12) (2 ^ 12) = false →
    ∃ t, exec .ownershipFlipComplete s = .next t ∧ t.module.flip = none ∧ t.hostOwns page = true ∧
      ∀ q, q ≠ page → t.hostOwns q = s.hostOwns q)

/-! ### The host -/

/-- Bytes of a word (R360). -/
def statBytes (accepted : BitVec 32) (dropped : Bool) (free : Nat) : List Byte :=
  leBytes 8 (accepted.toNat * 2 ^ 32 + (if dropped then 2 ^ 16 else 0) + free)

/-- A read of BAR 0 answers these bytes, and nothing else of the machine changes. -/
def Reads (s : State) (l : List Byte) : Prop := exec .inStatRead s = .next { s with module := { s.module with reply := .data l } }

/-- IN_PUSH (R360), IN_STAT_READ, the reads of BAR 0 and HOST_BAR_REGISTER_WRITE (R359), OUT_ACK (R361). -/
def HostMailboxes : Prop := ∀ (s : State) (f : Fin 8) (m : Fin 64), s.answers = true →
  let b := s.inboxOf f.val m.val
  let o := s.outboxOf f.val m.val
  (∀ size e, s.event = .push f m size e →
    (size = 64 → e.length = 64 → b.entries.length < 256 → (b.credEn = true → ∀ k, (s.slot k).sheaf.solo = false) → ∃ t, exec .inPush s = .next t ∧
      (t.inboxOf f.val m.val) = { b with entries := b.entries ++ [e], accepted := b.accepted + 1#32 } ∧ t.module.reply = .done ∧
      (let loc := (s.aliasOf (8 * b.credAddr.toNat)).getD (hostBase + 8 * b.credAddr.toNat)
      b.credEn = true → (spaceOf loc = .hbm → s.opensAll 1#10 loc 8 = true) →
        ∀ i, i < 8 → t.byte (loc + i) =
          (statBytes (b.accepted + 1#32) b.dropped (256 - (b.entries.length + 1))).getD i 0#8) ∧
      (b.credEn = false → t.mem = s.mem)) ∧
    (size = 64 → e.length = 64 → 256 ≤ b.entries.length →
      exec .inPush s = .next { s with module := { s.module with reply := .retry } }) ∧
    (size ≠ 64 → ∃ t, exec .inPush s = .next t ∧ t.inboxOf f.val m.val = { b with dropped := true } ∧ t.mem = s.mem)) ∧
  (∀ v, s.event = .mailbox f m v →
    (∃ t, exec .inStatRead s = .next t ∧ t.inboxOf f.val m.val = { b with dropped := false } ∧
      t.module.reply = .data (statBytes b.accepted b.dropped (256 - b.entries.length)) ∧ t.mem = s.mem) ∧
    (let n := (v.setWidth 32 - o.headseq).toNat
    (v.toNat < 2 ^ 32 → n ≤ o.entries.length → ∃ t, exec .outAck s = .next t ∧
      t.outboxOf f.val m.val = { o with entries := o.entries.drop n, headseq := v.setWidth 32 } ∧ t.mem = s.mem ∧ t.core = s.core) ∧
    (2 ^ 32 ≤ v.toNat ∨ o.entries.length < n → exec .outAck s = .next s))) ∧
  (∀ v,
    (s.event = .bar f (0x1200 + 8 * m.val) 8 v → ∃ t, exec .hostBarRegisterWrite s = .next t ∧
      t.inboxOf f.val m.val = { b with credAddr := BitVec.ofNat 51 (v.toNat / 8 % 2 ^ 51), credEn := v.getLsbD 0 } ∧ t.mem = s.mem) ∧
    (s.event = .bar f (0x2400 + 8 * m.val) 8 v → ∃ t, exec .hostBarRegisterWrite s = .next t ∧
      t.outboxOf f.val m.val = { o with msi := v.getLsbD 1, early := v.getLsbD 0 } ∧ t.mem = s.mem) ∧
    (∀ off size, s.event = .bar f off size v → 0x1000 ≤ off → (size ≠ 8 ∨ off % 8 ≠ 0) → exec .hostBarRegisterWrite s = .next s)) ∧
  (s.event = .barRead f (0x1000 + 8 * m.val) 8 → ∃ t, exec .inStatRead s = .next t ∧
    t.inboxOf f.val m.val = { b with dropped := false } ∧
    t.module.reply = .data (statBytes b.accepted b.dropped (256 - b.entries.length)) ∧ t.mem = s.mem) ∧
  (s.event = .barRead f (0x1200 + 8 * m.val) 8 → Reads s (leBytes 8 (8 * b.credAddr.toNat + b.credEn.toNat))) ∧
  (s.event = .barRead f (0x2000 + 8 * m.val) 8 → Reads s (leBytes 8 (2 ^ 32 * o.headseq.toNat + o.entries.length))) ∧
  (s.event = .barRead f (0x2400 + 8 * m.val) 8 → Reads s (leBytes 8 (2 * o.msi.toNat + o.early.toNat))) ∧
  (s.event = .barRead f 0x3010 8 → Reads s (leBytes 8 (2 * s.module.ownErr.toNat + s.module.flip.isSome.toNat))) ∧
  (∀ j e, o.entries[j]? = some e → o.entries.length ≤ 256 →
    s.event = .barRead f (0x100000 + 0x4000 * m.val + 64 * ((o.headseq.toNat + j) % 256)) 64 → Reads s e) ∧
  (∀ off n, s.event = .barRead f off n → 0x1000 ≤ off → ¬ (0x100000 ≤ off ∧ n = 64 ∧ off % 64 = 0) → (n ≠ 8 ∨ off % 8 ≠ 0) →
    Reads s (List.replicate n 0#8))

/-- No flip reaches a page. -/
abbrev NoFlip (s : State) : Prop := s.module.flip = none

/-- HOST_MEM_READ, HOST_MEM_WRITE (R351, R352, R374, R375), HOST_SNOOP (R184, R355), EXTFENCE_READ (R366), HOST_LINK_DOWN,
HOST_LINK_UP (R354) and HDM_DECODER_WRITE (R351). What answers a host address below HDMBASE, and a write to a block that does not
open, is log entry 34 (DEDUCED); the fields of its record, ORIGIN among them, are log entry 25 (DEDUCED). -/
def HostMemory : Prop := ∀ s : State, s.answers = true →
  let base := s.module.hdmbase.toNat
  let top := s.module.hvtop * 2 ^ 30
  (∀ h n, s.event = .hostRead h n → NoFlip s →
    ((h < base ∨ top < h - base + n) → exec .hostMemRead s = .next { s with module := { s.module with reply := .error } }) ∧
    (base ≤ h → h - base + n ≤ top → s.opensAll 1#10 (h - base) n = false →
      exec .hostMemRead s = .next { s with module := { s.module with reply := .error } }) ∧
    (base ≤ h → h - base + n ≤ top → s.opensAll 1#10 (h - base) n = true → 0 < n → s.module.snooped.length + n < 1048576 →
      ∃ t, exec .hostMemRead s = .next t ∧ t.module.reply = .data (s.bytes (h - base) n) ∧
        (∃ may, ((h - base) / 64, may) ∈ t.module.snooped) ∧
        ((∀ line ∈ linesOf (h - base) n, s.lineWriters line = []) → t.mem = s.mem ∧ t.core = s.core))) ∧
  (∀ h data, s.event = .hostWrite h data → NoFlip s → base ≤ h → h - base + data.length ≤ top →
    let a := h - base
    s.module.hvtop ≤ 1279 → 0 < data.length → a % 64 + data.length ≤ 64 →
    (∀ k, (s.slot k).sheaf.held ≠ [] → (s.slot k).sheaf.snapshot.isSome = true) →
    (s.opens 1#10 a = true → (∀ k, (s.slot k).sheaf.solo = false) → ∃ t, exec .hostMemWrite s = .next t ∧
      t.module.reply = .done ∧ (∀ x, spaceOf x ≠ .lm → t.byte x = if a ≤ x ∧ x < a + data.length then data.getD (x - a) 0#8 else s.byte x) ∧
      (∀ i, i < data.length → t.granuleTag (a + i) = false) ∧ t.seal a = 2 ∧
      (s.remote a = false → ∀ k, (s.slot k).sheaf.touches (sectorsOf (a / 64 * 64) 64) = true → (t.slot k).sheaf.held = [])) ∧
    (s.opens 1#10 a = false → ∃ t, exec .hostMemWrite s = .next t ∧ t.module.reply = .error ∧ t.mem = s.mem ∧
      t.sys = (s.record { origin := s.core.id, source := 5, cause := 0x130, va := a }).sys)) ∧
  (∀ loc, s.event = .line loc → (∀ k, (s.slot k).sheaf.solo = false) →
    (∀ k, (s.slot k).sheaf.held ≠ [] → (s.slot k).sheaf.snapshot.isSome = true) →
    ∃ t, exec .hostSnoop s = .next t ∧ (∀ x, spaceOf x ≠ .lm → t.byte x = s.byte x) ∧
    (s.snoopable loc = false → t.core.slots = s.core.slots) ∧
    (s.snoopable loc = true → ∀ k, (s.slot k).sheaf.touches (sectorsOf (loc / 64 * 64) 64) = true → (t.slot k).sheaf.held = [])) ∧
  (∀ loc data, s.event = .snoop loc data → spaceOf loc = .host → (∀ k, (s.slot k).sheaf.solo = false) →
    (∀ k, (s.slot k).sheaf.held ≠ [] → (s.slot k).sheaf.snapshot.isSome = true) →
    ∃ t, exec .hostSnoop s = .next t ∧
    (∀ x, spaceOf x ≠ .lm → t.byte x = if loc ≤ x ∧ x < loc + data.length then data.getD (x - loc) 0#8 else s.byte x) ∧
    (s.snoopable loc = false → t.core.slots = s.core.slots) ∧
    (s.snoopable loc = true → ∀ k, (s.slot k).sheaf.touches (sectorsOf (loc / 64 * 64) 64) = true → (t.slot k).sheaf.held = [])) ∧
  (s.sectorBegun = false →
    exec .extfenceRead s = .next { s with module := { s.module with reply := .data (List.replicate 8 0#8) } }) ∧
  exec .hostLinkDown s = .next { s with module := { s.module with linkUp := false } } ∧
  exec .hostLinkUp s = .next { s with module := { s.module with linkUp := true } } ∧
  (∀ f o n v, s.event = .bar f o n v → exec .hdmDecoderWrite s = .next { s with module := { s.module with hdmbase := v } })

/-! ### Enclaves, the switch of a cluster, handovers -/

/-- ENCLAVE_CREATE and ENCLAVE_END (R376), CLUSTER_SWITCH (R377). -/
def EnclavesAndClusters : Prop := ∀ s : State,
  (∀ t meas, s.event = .enclave t meas → (∀ e ∈ s.module.enclaves, e.tenant ≠ t) → s.module.enclaves.length < 1022 →
    ∃ u e, exec .enclaveCreate s = .next u ∧ u.module.enclaves = s.module.enclaves ++ [e] ∧ e.tenant = t ∧ e.meas = meas ∧
      2 ≤ e.key.toNat ∧ (∀ x ∈ s.module.enclaves, x.key ≠ e.key) ∧ e.cluster = none ∧
      e.report = Config.signature s.module.aliasSeed meas ∧ u.mem = s.mem) ∧
  (∀ k, s.event = .key k → (∃ e ∈ s.module.enclaves, e.key = k) → ∃ u, exec .enclaveEnd s = .next u ∧
    (∀ e ∈ u.module.enclaves, e.key ≠ k) ∧ u.mem = s.mem ∧
    (∀ a key, spaceOf a = .hbm → s.seal a = 1 + k.toNat → u.opens key a = false) ∧
    (∀ a, s.seal a ≠ 1 + k.toNat → u.seal a = s.seal a)) ∧
  (∀ w owner, s.event = .windows w → windowOwner w = some owner → s.mayOwn owner = true → s.allFree = true →
    s.clusterQuiet = true → ∃ u, exec .clusterSwitch s = .next u ∧
    (∀ k r, (u.ctx k).reg r = Reg.null) ∧ (∀ p, u.port p = Port.free) ∧ (∀ h, u.handle h = Handle.reset) ∧ u.core.tlb = [] ∧
    u.core.stg = 0#4 ∧ u.core.pkey = 0#32 ∧ u.core.tenant = 0#12 ∧ u.core.drillOwner = none ∧
    (∀ i : Fin 16, u.core.pwin.get i = w.getD i.val 0#128 &&& BitVec.ofNat 128 windowMask) ∧
    u.cluster.tenant = none ∧ (∀ i : Fin 16, u.cluster.cores.get i = ⟨0#4, none, false, false⟩) ∧
    (∀ e ∈ u.module.enclaves, e.cluster = some s.clusterNo ↔ e.key.toNat = owner) ∧
    u.harrow.cells = [] ∧ u.harrow.flags = 0#6 ∧
    (∀ p, (u.harrow.slices.get p).active.valid = false ∧ (u.harrow.slices.get p).shadow.valid = false) ∧
    (∀ i off, i < 16 → off < 2 ^ 18 → u.byte (lmLoc (s.sibling i) off) = 0#8) ∧ (∀ off, off < 2 ^ 22 → u.byte (cmLoc s.core.id off) = 0#8) ∧
    ∀ a, spaceOf a = .hbm → u.byte a = s.byte a) ∧
  (∀ w, s.event = .windows w → (∀ owner, windowOwner w = some owner → s.mayOwn owner = false) →
    exec .clusterSwitch s = .next s) ∧
  (∀ w owner, s.event = .windows w → windowOwner w = some owner → s.mayOwn owner = true → s.allFree = false →
    exec .clusterSwitch s = .next s.tick)

/-- The handovers of Table 26.6 (R383, R387). -/
def Handovers : Prop := ∀ (s : State) (n : Nat) (h : Handover),
  (∀ p f, s.event = .transfer n p → s.frame n = some f → s.isMember p.val = true → s.handedOver n = false → s.keysHeld n = true →
    ∃ t, exec .handoverSeal s = .next t ∧
      (t.handover n).map (fun x => (x.state, x.peer, x.sealedFrame)) = some (.sealed, p, { f with spilled := false }) ∧ t.die = s.die) ∧
  (s.handover n = some h →
    (∀ p, s.event = .transfer n p →
      (h.state = .sealed → exec .handoverSent s = .next (s.setHandover n { h with state := .sent })) ∧
      (h.state ≠ .sealed → exec .handoverSent s = .next s) ∧
      (h.state = .sent → exec .handoverFail s = .next
        (s.setHandover n { h with state := if s.keysHeld n then .failedKeysHeld else .failedKeysErased })) ∧
      (h.state ≠ .sent → exec .handoverFail s = .next s) ∧
      (h.state = .failedKeysErased → ∃ t, exec .handoverRefuse s = .next t ∧ t.handover n = some { h with state := .lost } ∧
        t.frame n = none) ∧
      (h.state ≠ .failedKeysErased → exec .handoverRefuse s = .next s)) ∧
    (s.event = .signed n h.nonce true →
      (h.state = .sent → ∃ t, exec .handoverConfirm s = .next t ∧ t.handover n = some { h with state := .confirmed } ∧
        t.frame n = none) ∧
      (h.state ≠ .sent → exec .handoverConfirm s = .next s) ∧
      (∀ f, s.frame n = some f → { f with spilled := false } ≠ h.sealedFrame → exec .handoverAuthorise s = .next s) ∧
      (∀ f, s.frame n = some f → { f with spilled := false } = h.sealedFrame →
        h.state = .failedKeysErased → s.module.enclaves.length < 1022 →
        ∃ t e, exec .handoverAuthorise s = .next t ∧ t.handover n = some { h with state := .resumed } ∧
          t.module.enclaves = s.module.enclaves ++ [e] ∧ e.tenant = h.tenant ∧ e.meas = h.meas)) ∧
    (∀ nonce ok, s.event = .signed n nonce ok → (ok = false ∨ nonce ≠ h.nonce) →
      exec .handoverConfirm s = .next s ∧ exec .handoverAuthorise s = .next s))

/-! ### SPDM -/

/-- The responder's answer stands, and nothing else of the machine changes but the negotiation and the sessions. -/
def Answers (s : State) (i : Instr) (a : SpdmAnswer) (negotiated : Nat) (sessions : List Session) : Prop :=
  exec i s = .next { s with module := { s.module with spdm := some a, negotiated := negotiated, sessions := sessions } }

/-- The SPDM responder (R372). The order of its negotiation, GET_VERSION first, and the answer to a request for a signature
before the Alias key is computed, are the model's choice (log entry 21, PRESUMED). -/
def SpdmRequests : Prop := ∀ s : State, s.answers = true →
  let m := s.module
  let same := fun i a => Answers s i a m.negotiated m.sessions
  Answers s .spdmGetVersion .version 1 [] ∧
  (1 ≤ m.negotiated → Answers s .spdmGetCapabilities .capabilities 2 m.sessions) ∧
  (2 ≤ m.negotiated →
    Answers s .spdmNegotiateAlgorithms (.algorithms [.mlDsa44, .sha3, .mlKem768, .aes256Gcm]) 3 m.sessions) ∧
  (3 ≤ m.negotiated →
    same .spdmGetDigests (.digests (Config.sha3 m.chain)) ∧ same .spdmGetCertificate (.certificate m.chain) ∧
    (s.aliasKnown = false → same .spdmChallenge .unexpectedRequest ∧ same .spdmGetMeasurements .unexpectedRequest) ∧
    (∀ n, s.event = .nonce n → s.aliasKnown = true →
      let sg := Config.signature m.aliasSeed (Config.sha3 (((m.meas.toList.take 5).map fun v => leBytes 32 v.toNat).flatten ++ leBytes 32 n.toNat))
      same .spdmChallenge (.challengeAuth n sg) ∧ same .spdmGetMeasurements (.measurements (m.meas.toList.take 5) sg)) ∧
    (∃ t id, exec .spdmKeyExchange s = .next t ∧ t.module.spdm = some (.keyExchange id) ∧ ⟨id, false, 0⟩ ∈ t.module.sessions ∧
      t.mem = s.mem ∧ t.core = s.core) ∧
    (∀ id x, s.event = .session id → (m.sessions.find? fun y => y.id == id) = some x →
      Answers s .spdmFinish (.finish id) m.negotiated (m.sessions.map fun y => if y.id = id then { x with secured := true } else y) ∧
      (x.secured = true →
        Answers s .spdmKeyUpdate (.keyUpdate id) m.negotiated
          (m.sessions.map fun y => if y.id = id then { x with updates := x.updates + 1 } else y) ∧
        same .spdmHeartbeat (.heartbeat id) ∧
        Answers s .spdmEndSession (.endSession id) m.negotiated (m.sessions.filter fun y => y.id != id)))) ∧
  (∀ c, s.event = .request c → same .spdmUnsupportedRequest (.unsupportedRequest c))

/-- Measurement register 4 (R370): zero at reset, written once, reported as it stands. -/
def RegisterFour : Prop :=
  State.reset.module.register 4 = 0#256 ∧
  (∀ (s : State) (v : BitVec 256), s.event = .digest v →
    (s.module.phase = .released → s.module.meas4 = false →
      ∃ t, exec .measurementRegister4Write s = .next t ∧ t.module.register 4 = v ∧ t.module.meas4 = true) ∧
    (s.module.meas4 = true → exec .measurementRegister4Write s = .next s)) ∧
  (∀ (s t : State) (n : BitVec 256), s.event = .nonce n → s.answers = true → 3 ≤ s.module.negotiated → s.aliasKnown = true →
    exec .spdmGetMeasurements s = .next t →
      ∃ b sg, t.module.spdm = some (.measurements b sg) ∧ b[4]? = some (s.module.register 4))

/-! ### Traps (R116, R279, R280, R297) -/

/-- The conditions of the user-level local handler (R279). -/
abbrev goesLocal (c : Ctx) (cause : Nat) : Prop :=
  (cause = 0x080 ∨ cause = 0x142) ∧ c.level = .user ∧ c.uxvec.bits.getLsbD 0 = true ∧ c.uxact = false ∧ c.drill = none

/-- The level that handles a cause (R279): monitor causes, causes raised in the monitor, and causes raised while INTRAP of
the supervisor is set go to the monitor. -/
abbrev goesToMonitor (c : Ctx) (cause : Nat) : Prop :=
  cause = 0x006 ∨ cause = 0x124 ∨ c.level = .monitor ∨ c.sx.stat.getLsbD 2 = true

/-- `xcause` at an entry (Table 5.12). -/
def entryCause (k : SlotId) (i : TrapInfo) : BitVec 16 :=
  BitVec.ofNat 16 (k.val * 2 ^ 14 + (if i.len16 then 2 ^ 11 else 0) + (if i.guarded then 2 ^ 10 else 0) + i.cause)

/-- `xstat` at an entry (Table 5.13, R116): PPL, INTRAP, and of a replay DRILL, DPOS and DPASS. -/
def entryStatus (c : Ctx) : BitVec 22 :=
  match c.drill with
  | some d =>
    if d.live then BitVec.ofNat 22 (c.level.num + 4 + 8 + 16 * (d.pos % 16) + 256 * ((d.k - 1 - d.pass) % 2 ^ 14))
    else BitVec.ofNat 22 (c.level.num + 4)
  | none => BitVec.ofNat 22 (c.level.num + 4)

/-- A handler is entered at its vector (R279). -/
def AtVector (code vec : Reg) (cause : Nat) : Prop :=
  code.tag = vec.tag ∧ addrOf code.bits = (addrOf vec.bits / 2 ^ 9 * 2 ^ 9 + 64 * (cause / 128)) % 2 ^ 72 ∧
    bits code.bits 72 56 = bits vec.bits 72 56

/-- What a trap entry leaves as it was: general registers, floating-point registers, the other slots, memory. -/
def EntryKeeps (s t : State) (k : SlotId) : Prop :=
  (t.ctx k).regs = (s.ctx k).regs ∧ (t.ctx k).fstat = (s.ctx k).fstat ∧ (t.ctx k).frnd = (s.ctx k).frnd ∧
    (t.ctx k).firing = (s.ctx k).firing ∧ (∀ j, j ≠ k → t.slot j = s.slot j) ∧ t.mem = s.mem ∧ t.sys = s.sys ∧
    t.harrow = s.harrow ∧ t.die = s.die ∧ t.core.mode = s.core.mode

/-- Taking a trap (R279). The record of a core that is held (SOURCE 4) names the slot and the cause; that its VA, FRAME and other
fields are 0 is log entry 25 (DEDUCED). -/
def Delivers : Prop := ∀ (s : State) (k : SlotId) (i : TrapInfo), i.cause < 1024 →
  let c := s.ctx k
  let t := s.deliver k i
  let d := t.ctx k
  (goesLocal c i.cause → EntryKeeps s t k ∧ d.uxpc = c.code ∧ d.uxcause = entryCause k i ∧ d.uxval = i.val ∧ d.uxact = true ∧
    d.level = .user ∧ d.sx = c.sx ∧ d.mx = c.mx ∧ AtVector d.code c.uxvec 0) ∧
  (¬ goesLocal c i.cause → ¬ goesToMonitor c i.cause → EntryKeeps s t k ∧ d.level = .supervisor ∧
    d.sx = ⟨c.code, entryCause k i, i.val, i.val2, entryStatus c, c.sx.vec⟩ ∧ d.mx = c.mx ∧ d.uxpc = c.uxpc ∧
    AtVector d.code c.sx.vec i.cause) ∧
  (¬ goesLocal c i.cause → goesToMonitor c i.cause → c.mx.stat.getLsbD 2 = false → EntryKeeps s t k ∧ d.level = .monitor ∧
    d.mx = ⟨c.code, entryCause k i, i.val, i.val2, entryStatus c, c.mx.vec⟩ ∧ d.sx = c.sx ∧ d.uxpc = c.uxpc ∧
    AtVector d.code c.mx.vec i.cause) ∧
  (¬ goesLocal c i.cause → goesToMonitor c i.cause → c.mx.stat.getLsbD 2 = true →
    t.core.mode = .held ∧ t.core.heldCause = i.cause ∧ (∀ j, (t.slot j).grant = none) ∧
    t.ctx k = { c with guarded := none } ∧ (∀ j, j ≠ k → t.ctx j = s.ctx j) ∧ t.mem = s.mem ∧
    t.sys = (s.record { origin := s.core.id, slot := k.val, source := 4, cause := i.cause }).sys)

/-- A fault at the first fetch of a handler (R280). The cause recorded for a monitor handler is the model's reading (log
entry 29). -/
def HandlerFetches : Prop := ∀ (s : State) (k : SlotId) (cause : Nat),
  let c := s.ctx k
  let at_ := q (addrOf c.code.bits)
  (c.level = .supervisor → c.mx.stat.getLsbD 2 = false →
    let d := (s.handlerFetchFault k ⟨cause, false⟩).ctx k
    d.level = .monitor ∧ d.mx.cause.toNat % 2 ^ 10 = 0x006 ∧ d.mx.val = at_ ∧ d.mx.val2 = q cause ∧ d.sx = c.sx ∧ d.regs = c.regs) ∧
  (c.level = .supervisor → c.mx.stat.getLsbD 2 = true → (s.handlerFetchFault k ⟨cause, false⟩).core.mode = .held ∧
    (s.handlerFetchFault k ⟨cause, false⟩).core.heldCause = 0x006) ∧
  (c.level = .monitor → (s.handlerFetchFault k ⟨cause, false⟩).core.mode = .held ∧
    (s.handlerFetchFault k ⟨cause, false⟩).core.heldCause = cause) ∧
  (c.level = .user → c.sx.stat.getLsbD 2 = false →
    let d := (s.handlerFetchFault k ⟨cause, true⟩).ctx k
    d.level = .supervisor ∧ d.sx.cause.toNat % 2 ^ 10 = 0x006 ∧ d.sx.pc = c.uxpc ∧ d.sx.val = at_ ∧ d.sx.val2 = q cause ∧
      d.uxact = false ∧ d.uxpc = c.uxpc ∧ d.uxcause = c.uxcause ∧ d.uxval = c.uxval ∧ d.regs = c.regs)

/-! ### Units, slots, sheaves (R64, R113, R174, R176, R222) -/

/-- Where the slot goes on (R64, R113): past the guard and the instruction; in a replay to the next unit, to the first of
the next pass, or past the block with the buffer free. -/
def UnitsAdvance : Prop := ∀ (s : State) (k : SlotId) (len : Nat),
  let c := s.ctx k
  let t := s.advance k len .seq
  let d := t.ctx k
  let past := (addrOf c.code.bits + (if c.guarded.isSome then 2 else 0) + len) % 2 ^ 72
  d.guarded = none ∧ d.wait = none ∧ d.regs = c.regs ∧ (t.slot k).sheaf.count = (s.slot k).sheaf.count + 1 ∧
    (∀ j, j ≠ k → t.slot j = s.slot j) ∧ t.mem = s.mem ∧
  (c.drill = none → d.pc = past ∧ d.drill = none ∧ t.core.drillOwner = s.core.drillOwner) ∧
  (∀ x, c.drill = some x →
    (x.live = false → d.pc = past ∧ d.drill = some x) ∧
    (x.live = true → x.pos + 1 < x.n → d.pc = past ∧ d.drill = some { x with pos := x.pos + 1 }) ∧
    (x.live = true → x.n ≤ x.pos + 1 → x.pass + 1 < x.k →
      d.pc = x.origin % 2 ^ 72 ∧ d.drill = some { x with pos := 0, pass := x.pass + 1 }) ∧
    (x.live = true → x.n ≤ x.pos + 1 → x.k ≤ x.pass + 1 → d.pc = past ∧ d.drill = none ∧ t.core.drillOwner ≠ some k))

/-- The slot with the largest wait of those with a property, the lowest number of equals. -/
def LongestOf (s : State) (p : SlotId → Prop) (k : SlotId) : Prop :=
  p k ∧ ∀ j, p j → (s.slot j).waited ≤ (s.slot k).waited ∧ ((s.slot j).waited = (s.slot k).waited → k ≤ j)

/-- The slot that issues among the slots that are ready, and the cycles that the others have waited (R222); a slot in a
bubble is not ready (R248). -/
def SlotsAreChosen : Prop := ∀ (s : State) (p : SlotId → Bool),
  let l := slotIds.filter p
  let r : SlotId → Prop := fun k => p k = true
  let old : SlotId → Prop := fun k => r k ∧ 61 ≤ (s.slot k).waited
  ((∀ k, ¬ r k) → s.pick l = none) ∧
  ((∃ k, old k) → ∃ k, s.pick l = some k ∧ LongestOf s old k) ∧
  ((∀ k, ¬ old k) → s.core.ipol = false → r s.core.cur → s.core.yielded = false → s.pick l = some s.core.cur) ∧
  ((∀ k, ¬ old k) → s.core.ipol = false → (∃ k, r k) → (¬ r s.core.cur ∨ s.core.yielded = true) →
    ∃ k, s.pick l = some k ∧ LongestOf s r k) ∧
  ((∀ k, ¬ old k) → s.core.ipol = true → ∀ n : SlotId, r (s.core.last + 1 + n) → (∀ m, m < n → ¬ r (s.core.last + 1 + m)) →
    s.pick l = some (s.core.last + 1 + n)) ∧
  (∀ k j, ((s.accrue l k).turnTo k).slot j =
    { s.slot j with waited := if j = k then 0 else if p j then (s.slot j).waited + 1 else (s.slot j).waited }) ∧
  (∀ k, (s.slot k).bubble = true → s.ready k = false) ∧ (∀ k, (s.endBubbles.slot k).bubble = false)

/-- A sheaf of 256 instructions ends before the next (R174). That it commits in the step that ends it is log entry 12 (DEDUCED). -/
def FullSheavesEnd : Prop := ∀ (s : State) (i : Instr) (w : Nat), encode i = some w → isGuard i = false →
  256 ≤ (s.slot s.cur).sheaf.count → s.migrantComes = false → exec i s = exec i (s.commit s.cur)

/-- The commit of a sheaf that holds writes to LM and CM (R164, R176): memory then holds what the slot saw. -/
def CommitsStore : Prop := ∀ (s : State) (k : SlotId), s.onTheWay = [] → (∀ u ∈ s.core.unplaced, u.slot ≠ some k) →
  (∀ h ∈ (s.slot k).sheaf.held, ∃ loc data tag key, h = .write loc data tag key ∧ spaceOf loc ∈ [.lm, .cm]) →
  let t := s.commit k
  (∀ a, spaceOf a ∈ [.lm, .cm] → t.byte a = s.seenByte k a ∧ t.granuleTag a = s.seenTag k a) ∧
    (∀ a, spaceOf a ∈ [.hbm, .host, .peer] → t.byte a = s.byte a) ∧ (t.slot k).sheaf = Sheaf.empty ∧ t.ctx k = s.ctx k

/-- The tables of results that write one register (R91). -/
def resultTables : List (Ctx → Instr → Option Result) :=
  [arithmetic, division, logic, bitwork, moves, capability, float, vectors]

/-- An instruction of these tables leaves every register but d, every flag but its own, every other register of the slot but
the program counter and the replay, every other slot, memory, and every other unit as they were. -/
def OnlyTheDestination : Prop := ∀ f ∈ resultTables, ∀ (s : State) (i : Instr) (r : Result), Room s → f (here s) i = some r →
  Unbound s r.uses → (vectors (here s) i = some r → UnitsFree s) → ∃ t, exec i s = .next t ∧
    (∀ x, x ≠ r.d → (t.ctx s.cur).reg x = (here s).reg x) ∧
    (t.ctx s.cur).fstat = (here s).fstat ||| r.flags ∧
    (∃ rg cd dr, t.ctx s.cur =
      { here s with
        regs := rg, code := cd, drill := dr, fstat := (here s).fstat ||| r.flags, wait := none, guarded := none, run := none
        again := none }) ∧
    (∃ x sh, t.slot s.cur = { s.slot s.cur with ctx := x, sheaf := sh }) ∧
    (∀ j, j ≠ s.cur → t.slot j = s.slot j) ∧ (∀ a, t.byte a = s.byte a) ∧ (∀ a, t.granuleTag a = s.granuleTag a) ∧
    (∃ sl o, t.core = { s.core with slots := sl, drillOwner := o }) ∧
    t.harrow = s.harrow ∧ t.cluster = s.cluster ∧ t.die = s.die ∧ t.module = s.module ∧ t.sys = s.sys ∧ t.agenda = s.agenda

/-! ### Fault records (R305, R402) -/

/-- The fields of a record (Table 18.6): place, width and value. -/
def recordFields (r : FaultRecord) : List (Nat × Nat × Nat) :=
  [(511, 1, 1), (448, 2, r.kind), (384, 64, r.map), (320, 64, r.stopoff), (256, 64, r.missoff), (192, 64, r.done),
   (176, 16, r.frame), (160, 16, r.gen), (128, 32, r.handle), (112, 16, r.tag), (88, 13, r.origin.toNat), (86, 2, r.slot),
   (82, 4, r.source), (72, 10, r.cause), (0, 72, r.va)]

/-- A record is appended at FQTAIL, or, where the queue is full, dropped and counted (R305, R402). -/
def RecordsAreKept : Prop := ∀ (s : State) (d : Fin 8) (r : FaultRecord),
  let head := (s.sysReg (sysAddr d.val 0 0 3 0)).toNat
  let tail := (s.sysReg (sysAddr d.val 0 0 3 8)).toNat
  let lost := sysAddr d.val 0 0 3 0x10
  let t := s.recordAt d.val r
  head < 4096 → tail < 4096 →
  ((tail + 1) % 4096 ≠ head →
    (∀ f ∈ recordFields r, f.2.2 < 2 ^ f.2.1 → fld (t.readWords (sysAddr d.val 0 0 2 (64 * tail)) 8) f.1 f.2.1 = f.2.2) ∧
    (t.sysReg (sysAddr d.val 0 0 3 8)).toNat = (tail + 1) % 4096 ∧
    (∀ a, a ≠ sysAddr d.val 0 0 3 8 → (a < sysAddr d.val 0 0 2 (64 * tail) ∨ sysAddr d.val 0 0 2 (64 * tail) + 64 ≤ a) →
      t.sysReg a = s.sysReg a)) ∧
  ((tail + 1) % 4096 = head →
    (t.sysReg lost).toNat = Nat.min (2 ^ 64 - 1) ((s.sysReg lost).toNat + 1) ∧ ∀ a, a ≠ lost → t.sysReg a = s.sysReg a)

/-! ### Translation (R299, R300, R301) -/

/-- An entry of a table in this die's HBM: the host holds none of it (R352), it opens under key identifier 0 (R375) and is
`e`. -/
abbrev EntryIs (s : State) (pa e : Nat) : Prop :=
  pa + 8 ≤ hbmTop ∧ s.remote pa = false ∧ s.snoopLines pa 8 false = [] ∧ s.opens 0#10 pa = true ∧ ofBytes (s.bytes pa 8) = e

/-- A walk through tables of this die's HBM, from a table at page `base` down the levels listed: it comes to the leaf entry `e`
at level `l` (R300). -/
inductive Leads (s : State) (va : Nat) : Nat → List Nat → Nat → Nat → Prop where
  | leaf (base level : Nat) (rest : List Nat) (e : Nat) : EntryIs s (base * 2 ^ 12 + 8 * walkIndex va level) e → e % 2 = 1 →
      s.pteMalformed s.core.tenant e level = false → fld e 1 1 = 1 → Leads s va base (level :: rest) e level
  | table (base level : Nat) (rest : List Nat) (e e' l : Nat) : EntryIs s (base * 2 ^ 12 + 8 * walkIndex va level) e → e % 2 = 1 →
      s.pteMalformed s.core.tenant e level = false → fld e 1 1 = 0 → Leads s va (fld e 12 44) rest e' l →
      Leads s va base (level :: rest) e' l

/-- Nothing cached covers the address (R301). -/
abbrev Uncached (s : State) (va : Nat) : Prop := ∀ t ∈ s.core.tlb, t.covers s.view va = false

/-- The levels of a walk (R299). -/
def levels : List Nat := [6, 5, 4, 3, 2, 1, 0]

/-- A load through the page tables (R299 to R301): it reads its page, or faults with the level of its walk.
That 0x11C comes after the other checks of the entry is the model's order (log entry 23). -/
def TranslatedLoads : Prop := ∀ (s : State) (d a : RegIdx) (imm : BitVec 15), Room s → Unbound s [d, a] →
  let c := (here s).reg a
  let va := operand (here s) a imm.toInt
  capFault c [.load] va 8 = none → va % 8 = 0 → regionOf va < 0xC → Uncached s va →
  (s.rootEnabled = false → exec (.ldD d a imm) s = .next (trapped s 4 0x112 (q va) (faultVal2 6 .load (here s).level))) ∧
  (s.rootEnabled = true → hbmTop ≤ s.root * 2 ^ 12 →
    exec (.ldD d a imm) s = .next (trapped s 4 0x110 (q va) (faultVal2 6 .load (here s).level))) ∧
  (∀ e, s.rootEnabled = true → s.root * 2 ^ 12 < hbmTop → EntryIs s (s.root * 2 ^ 12 + 8 * walkIndex va 6) e →
    (e % 2 = 0 → exec (.ldD d a imm) s = .next (trapped s 4 0x112 (q va) (faultVal2 6 .load (here s).level))) ∧
    (e % 2 = 1 → s.pteMalformed s.core.tenant e 6 = true →
      exec (.ldD d a imm) s = .next (trapped s 4 0x110 (q va) (faultVal2 6 .load (here s).level)))) ∧
  (∀ e l, s.rootEnabled = true → s.root * 2 ^ 12 < hbmTop → Leads s va s.root levels e l →
    let pa := (if l = 0 ∧ fld e 6 1 = 0 then fld e 12 44 * 2 ^ 12 + va % 2 ^ 12
      else if l = 0 then (fld e 12 44 / 16 * 16 + va / 2 ^ 12 % 16) * 2 ^ 12 + va % 2 ^ 12
      else fld e 12 44 * 2 ^ 12 + va % 2 ^ (12 + 9 * l))
    (fld e 2 1 = 0 ∨ ((here s).level = .user ∧ fld e 5 1 = 0) →
      exec (.ldD d a imm) s = .next (trapped s 4 0x113 (q va) (faultVal2 l .load (here s).level))) ∧
    (fld e 2 1 = 1 → ((here s).level = .user → fld e 5 1 = 1) → fld e 7 1 = 1 → fld e 9 2 = 0 → pa < hbmTop → s.remote pa = false →
      s.hostOwns (pa / 2 ^ 12) = true →
      exec (.ldD d a imm) s = .next ({ s with core := { s.core with tlb :=
        ((⟨s.root, s.core.tenant, va / 2 ^ 12, l, BitVec.ofNat 64 e⟩ : TlbEntry) :: s.core.tlb.filter fun u => !u.covers s.view va).take 1088 } }.raise
          s.cur 4 0x11C (q va) (faultVal2 l .load (here s).level))) ∧
    (fld e 2 1 = 1 → ((here s).level = .user → fld e 5 1 = 1) → fld e 7 1 = 1 → fld e 9 2 = 0 → pa < hbmTop → s.remote pa = false →
      s.hostOwns (pa / 2 ^ 12) = false → s.module.flip = none → (∀ w ∈ s.core.pwin.toList, w.getLsbD 3 = false) →
      ((here s).level = .user ∨ hasPerm c.bits .system = false) →
      s.opens 1#10 pa = true → s.snoopLines pa 8 false = [] → Fits s pa 8 false → ∃ t, exec (.ldD d a imm) s = .next t ∧
        (t.ctx s.cur).reg d = (if d = 0 then Reg.null else Reg.data (sign 8 (ofBytes (s.seenBytes s.cur pa 8)))) ∧
        t.mem = s.mem ∧ ∃ x ∈ t.core.tlb, x.covers s.view va = true ∧ x.pte = BitVec.ofNat 64 e))

/-! ### Steps (R61 to R66, R222) -/

/-- The state after a cycle has passed, and the slots that are ready in it (R222, R248). -/
def cycled (s : State) : State × List SlotId := ({ s with eventTurn := true } : State).clock.candidates

/-- The same, with the cycle that the ready slots other than `k` have waited. -/
def waited (s : State) (k : SlotId) : State := (cycled s).1.accrue (cycled s).2 k

/-- The next step is a turn of the core in which slot `k` issues: no event is performed, no asynchronous cause is delivered, and
the system image serves nothing. -/
abbrev Turn (s : State) (k : SlotId) : Prop :=
  (s.eventTurn = false ∨ s.agenda = []) ∧ ({ s with eventTurn := true } : State).clock.issues = true ∧
  (cycled s).1.interrupted = none ∧ (cycled s).1.pick (cycled s).2 = some k ∧ ((waited s k).turnTo k).serving k = none

/-- The state in which the unit of slot `k` is fetched: the slot is the one that issues. -/
def turned (s : State) (k : SlotId) : State := ((waited s k).turnTo k).takeDrill k

/-- What a step comes to with the outcome of an instruction: where it has stalled nothing has issued, and its slot stands in
its wait (R222). -/
def issued (s : State) (k : SlotId) (o : Host.Outcome State Fault Refusal) : Host.Outcome State Fault Refusal :=
  match o with
  | .next t => .next (if t.core.stalled then (waited s k).unissued t k else t)
  | o => o

/-- The bytes at the program counter of a slot, `n` of them at `off` in the core's own LM, can be fetched (R61). -/
abbrev Fetches (t : State) (k : SlotId) (off n : Nat) : Prop :=
  (t.ctx k).drill = none ∧ (t.ctx k).pc = 0xD * 2 ^ 68 + off ∧ off % 2 = 0 ∧ off + n ≤ 2 ^ 18 ∧
    (∀ x, x < n → capFault (t.ctx k).code [.execute] ((t.ctx k).pc + x / 2 * 2) 2 = none) ∧ t.opensAll 0#10 (t.lm off) n = true

/-- A step runs the decoded instruction. -/
def StepsExecute : Prop := ∀ (s : State) (k : SlotId) (off n : Nat) (i : Instr), Turn s k → Fetches (turned s k) k off n →
  isGuard i = false → decodeBytes ((turned s k).seenBytes k ((turned s k).lm off) n) = some (i, []) →
  step s = issued s k (exec i ((turned s k).modCtx k fun c => { c with entering := none, guarded := none }))

/-- A guarded unit (R63, R64): the instruction runs where the bit has the value that the guard asks; else the slot goes on past
it with no other effect, and the unit counts toward its sheaf (R174). -/
def GuardedUnits : Prop := ∀ (s : State) (k : SlotId) (off n w : Nat) (r : RegIdx) (m : Fin 128) (pol : Bool) (i : Instr),
  Turn s k → Fetches (turned s k) k off n → (turned s k).streamed r = false → ((turned s k).ctx k).run = none →
  (((turned s k).ctx k).reg r).tag = false → encode (if pol then .whenSet r m else .unlessSet r m) = some w →
  let b := (turned s k).seenBytes k ((turned s k).lm off) n
  decodeBytes b = some (if pol then .whenSet r m else .unlessSet r m, b.drop 2) → decodeBytes (b.drop 2) = some (i, []) →
  isGuard i = false → isDrill i = false → (∀ v x, i ≠ .illegalInstruction v x) →
  let holds := (((turned s k).ctx k).reg r).bits.getLsbD m.val == pol
  let u := (turned s k).modCtx k fun c => { c with entering := none, guarded := some ⟨BitVec.ofNat 16 w, holds, n - 2⟩ }
  step s = issued s k (if holds then exec i u else .next (((u.endFull k).openSheaf k).advance k (n - 2) .seq))

/-- Events that are due take turns with the core; that they alternate is the model's choice (log entry 1). -/
def StepsPerformEvents : Prop := ∀ (s : State) (d : Due) (rest : List Due), s.eventTurn = true → s.agenda = d :: rest →
  step s = exec d.what { s with agenda := rest, event := d.detail, eventTurn := false }

/-- R96: a division by 0 traps with the dividend and the number of its operation. -/
def DivisionsByZero : Prop := ∀ (s : State) (d a b : RegIdx) (i : Instr) (op : Nat),
  (i, op) ∈ [(Instr.div d a b, 6), (.divn d a b, 7), (.rem d a b, 8), (.remn d a b, 9)] → Room s → Unbound s [a, b] →
  n64 ((here s).reg b).bits = 0 → exec i s = .next (trapped s 4 0x080 (wr64 (s64 ((here s).reg a).bits)) (q op))

/-- R109: what `yield` gives up is the greedy position alone. -/
def YieldsGiveUpThePosition : Prop := ∀ (s : State) (p : SlotId → Bool),
  let l := slotIds.filter p
  let t := s.modCore fun c => { c with yielded := true }
  (s.core.ipol = true → t.pick l = s.pick l) ∧
  (s.core.ipol = false → (∀ k, p k = true → (s.slot k).waited < 61) → (∃ k, p k = true) →
    ∃ k, t.pick l = some k ∧ LongestOf s (fun j => p j = true) k)

end Sys2Proof.Says

section

open Sys2Proof Sys2Proof.Machine Sys2Proof.Says

/-! ### Registers, scalar instructions, transfers, capabilities -/

/-- R50: g0 reads as 128 zero bits with tag 0 and discards what is written to it; the other registers hold what is written. -/
def Obligations.RegisterZeroIsHardWired : Prop :=
  ∀ (c : Ctx) (r x : RegIdx) (v : Reg), c.reg 0 = ⟨0#128, false⟩ ∧ c.setReg 0 v = c ∧
    (r ≠ 0 → (c.setReg r v).reg r = v) ∧ (x ≠ r → (c.setReg r v).reg x = c.reg x)

/-- R95, R97 to R102: the integer instructions, logic, shifts, bit fields, moves and compares. -/
def Obligations.IntegerResults : Prop :=
  ArithmeticResults ∧ LogicAndShiftResults ∧ BitFieldResults ∧ MoveAndCompareResults

/-- R96: a division writes its quotient or remainder, or traps where the divisor is 0. -/
def Obligations.DivisionsDivideOrTrap : Prop := DivisionResults ∧ DivisionsByZero

/-- R91: instructions that write one register change nothing else. -/
def Obligations.ResultsChangeOnlyTheirDestination : Prop := OnlyTheDestination

/-- R105 to R108: transfers go to their target, with its checks and their link. -/
def Obligations.TransfersGoToTheirTarget : Prop :=
  ImmediateTransfersGoToTheirTarget ∧ ImmediateTransfersCheckBounds ∧ UntakenBranchesGoOn ∧
    RegisterTransfersGoToTheirCapability

/-- R109: `nop` has no effect; `yield` only gives up the greedy position. -/
def Obligations.HintsHaveNoOtherEffect : Prop := Says.HintsHaveNoOtherEffect ∧ YieldsGiveUpThePosition

/-- R63, R64, R72, R113: guards read their bit, `drill` acquires the buffer, encodings that are no instruction trap. -/
def Obligations.GuardsDrillsAndIllegalEncodings : Prop := GuardsReadTheirBit ∧ DrillAcquiresTheBuffer ∧ IllegalEncodingsTrap

/-- R117 to R121: queries read a capability's fields; the derivations write the capability that their rule gives. -/
def Obligations.CapabilityResults : Prop := Says.CapabilityResults

/-- R117 to R121: no capability is forged, and a moved one keeps its bounds, permissions and type. -/
def Obligations.CapabilitiesAreNotForged : Prop := Says.CapabilitiesAreNotForged ∧ MovedCapabilitiesKeepTheirBounds

/-! ### Memory -/

/-- R124, R128, R129, R133: loads from CM and LM write what the slot sees, and capability loads bring the tag. -/
def Obligations.LoadsWriteWhatTheSlotSees : Prop := Says.LoadsWriteWhatTheSlotSees ∧ CapabilityLoadsBringTheTag

/-- R124, R128, R129, R133, R164, R176: stores to CM and LM are held in the sheaf and change only their bytes. -/
def Obligations.StoresChangeOnlyTheirBytes : Prop := StoresAreHeldInTheSheaf ∧ Says.StoresChangeOnlyTheirBytes

/-- R134, R136: an atomic on CM or LM reads and writes within its sheaf, and d takes the old value. -/
def Obligations.AtomicsReturnTheOldValue : Prop := Says.AtomicsReturnTheOldValue

/-- R138 to R141: fences order the sheaves of `.dev` and `.sys`; `sheaf` ends its sheaf; the commit in the same step is log
entry 12 (DEDUCED). -/
def Obligations.FencesEndTheirSheafAtWideScopes : Prop := Says.FencesEndTheirSheafAtWideScopes ∧ SheafEndsTheSheaf

/-- R60, R125: accesses are checked in order, and trap with the first cause. -/
def Obligations.AccessesAreChecked : Prop := Says.AccessesAreChecked

/-- R141, R142: cache maintenance and prefetches act on this die's copies of their lines. -/
def Obligations.CacheLinesAreMaintained : Prop := CacheMaintenanceActsOnItsLines ∧ PrefetchesBringTheirLineOrDoNothing

/-- R299 to R301: loads through the page tables. -/
def Obligations.LoadsAreTranslated : Prop := TranslatedLoads

/-- R164, R174, R176: sheaves of 256 instructions end, and a commit stores what the sheaf held. The commit in the step that
ends a sheaf is log entry 12 (DEDUCED). -/
def Obligations.SheavesEndAndCommit : Prop := FullSheavesEnd ∧ CommitsStore

/-! ### Streams, channels, engines -/

/-- R143 to R145, R150 to R153: ports are bound, unbound, moved past elements and read. -/
def Obligations.StreamPortsAreBound : Prop :=
  SbindBindsAPattern ∧ SbindchBindsAChannel ∧ SfreeUnbinds ∧ SskipPassesElements ∧ StreamStatusFields

/-- R53, R146 to R149: elements are fetched, popped and drained. -/
def Obligations.StreamElementsMove : Prop := StreamFetchesTheNextElement ∧ StreamDrainsOneElement ∧ BoundSourcesPop

/-- R155, R156, R227: channel handles are set up, waited on and passed on. -/
def Obligations.ChannelsPassSlots : Prop := CbinitSetsAHandleUp ∧ ChannelWaits ∧ ChannelSlotsArePassed

/-- R157 to R159, R163: elements enter the input queue of an engine, results its output queue. -/
def Obligations.EngineQueuesMove : Prop := EpushAddsAnElement ∧ EngineQueuesAreRead ∧ ResultsReturnInOrder

/-! ### Floating point, vectors, selection -/

/-- R188, R193 to R197: the floating-point instructions complete with the code or the number and the flags of their rule. -/
def Obligations.FloatResults : Prop := Says.FloatResults

/-- R199 to R205, R207: outside stream-run mode the vector instructions act lane by lane, or reduce, as their rule says. -/
def Obligations.VectorResults : Prop := Says.VectorResults

/-- R190, R191: a vector instruction of a run performs one iteration a step. -/
def Obligations.VectorRunsIterate : Prop := Says.VectorRunsIterate

/-- R206, R208, R209: `vtopk`, `vquant` and `vdeq` store what their whole run gives. -/
def Obligations.WholeRunsStoreTheirResult : Prop :=
  VtopkStoresTheRanking ∧ TheRankingIsOrdered ∧ VquantStoresCodesAndScales ∧ VdeqStoresTheValues

/-! ### Tasks, messages, the scheduler -/

/-- R224, R237, R238, R239, R245: messages are held until the sheaf commits; `spawn` waits for its answer and writes it. -/
def Obligations.MessagesWaitForTheCommit : Prop := Sends ∧ Spawns ∧ Decrements

/-- R240, R241: `tarm` writes COUNT and the marks of its record and queues or arms it; `tarm.sp` queues it as a spawn;
`tend` frees the slot and passes on what a channel task used. -/
def Obligations.TasksAreArmedAndEnd : Prop := Arms ∧ Ends ∧ EndsChannelTasks

/-- R232, R233, R242: `stage` appends to its stage queue or reports it full; `bar` arrives, waits for its phase and
departs, and is refused outside gangs; `wdog` clears the count. -/
def Obligations.StagesBarriersAndTheWatchdog : Prop := Stages ∧ BarriersAndWatchdog

/-- R243: `hlay` replaces the field-layout table by layouts within their limits; `hpack` and `hparse` move fields bit by
bit. -/
def Obligations.FieldLayouts : Prop := LoadsLayouts ∧ PacksAndParses

/-- R214, R218, R219, R221, R231, R232: what the dispatcher, a starting firing, the yoke, a completed phase, a solo grant,
an eviction and the end of a scrub do. -/
def Obligations.TheSchedulerActs : Prop := Dispatches ∧ FiringsStart ∧ YokeMoves ∧ SmallEvents

/-- R156, R213, R225, R228, R238, R239: what becomes of a message at the routers and at the core that it reaches. -/
def Obligations.MessagesAreHandledByTheirKind : Prop :=
  RoutersCheck ∧ TaskMessages ∧ SpawnMessages ∧ SpawnAnswers ∧ TdecMessages ∧ CreditMessages ∧ WindowMessages ∧
    DivertedMessages ∧ HeldMessages ∧ Launches

/-- R64, R113, R222: which slot issues, where a slot goes on after a unit, and what a guard lets run. -/
def Obligations.SlotsIssueInTurn : Prop := UnitsAdvance ∧ SlotsAreChosen ∧ GuardedUnits

/-! ### Traps, system instructions, contexts -/

/-- R116, R279, R280, R297: what taking a trap saves and where the slot goes; the held state, whose record's VA, FRAME and other
fields are log entry 25 (DEDUCED). -/
def Obligations.TrapsEnterTheirHandler : Prop := Delivers ∧ HandlerFetches

/-- R283, R285 to R287, R302, R394: `sys` and `brk` trap, `idle` waits, `halt` halts once no sheaf is open, `vfence` drops
translations; leave is asked for, granted within the budget, and returned. -/
def Obligations.SystemInstructionsAct : Prop := SoftwareCauses ∧ Idles ∧ Halts ∧ FencesTranslations ∧ PowerLeave

/-- R12, R74 to R76, R288, R289: every control register reads its value and takes the writable bits of what is written, at
the levels of Table 5.10. -/
def Obligations.ControlRegistersReadAndWrite : Prop := ControlRegisters

/-- R74 to R76: `crr`, `crw`, `crs` and `crc` complete for every register that the level may read, or write. -/
def Obligations.ControlRegisterInstructionsComplete : Prop := ControlRegistersComplete

/-- R282, R293, R294, R295: privileged instructions at the wrong level, or outside a handler, raise 0x009. -/
def Obligations.PrivilegedInstructionsAreChecked : Prop := PrivilegeTraps

/-- R116, R233, R281, R284, R296: asynchronous causes are delivered lowest first, and `xret` returns. -/
def Obligations.CausesAreDeliveredAndReturnedFrom : Prop := AsynchronousCauses ∧ Returns

/-- R290 to R295: contexts are saved, loaded and migrated; that the lowest free slot takes a migrant is log entry 62 (DEDUCED),
and that a context waits for its command's late writes is log entry 72 (DESIGN CHOICE). -/
def Obligations.ContextsMove : Prop := SavesContexts ∧ LoadsContexts ∧ Migrates ∧ MigrantsArrive

/-- R234, R235, R244: `succ` begins the handoff, and the successor takes over or is refused. -/
def Obligations.SuccessorsTakeTheirPlace : Prop := SuccessorsAreAsked ∧ SuccessorsTakeOver

/-- R305, R402: a record is appended to the fault queue, or dropped and counted where it is full. -/
def Obligations.FaultRecordsAreKept : Prop := RecordsAreKept

/-! ### Engines, the quern, the harrow, the windrow -/

/-- R159, R160, R304, R307: COPY, FILL, XCOPY, GATHER and SCATTER move their bytes and no others, and answer with what they
moved; a refused command moves nothing. -/
def Obligations.BulkCommandsMoveTheirBytes : Prop :=
  CopiesAndFills ∧ RefusedCommands ∧ CopiesFromStorage ∧ GathersAndScatters

/-- R161, R162, R362: mailbox entries pass in order and whole; collectives combine what their members bring. -/
def Obligations.MailboxesAndCollectives : Prop := Mailboxes ∧ Collectives

/-- R315 to R320: the quern binds its tables, merges text to tokens, releases bytes and masks a vocabulary; the MASK of a table
set of no states is log entry 26 (DEDUCED). -/
def Obligations.TheQuernTurnsTextAndTokens : Prop := QuernOpens ∧ QuernEncodes ∧ QuernSteps ∧ QuernMasks

/-- R256 to R263, R267 to R270: weight planes are loaded and swapped, operations take their order and make their rows
final, cells are read, written and zeroed. At which moment a sector of an operand is read is log entry 43 (DESIGN CHOICE). -/
def Obligations.TheHarrowComputes : Prop :=
  Planes ∧ OperationsStart ∧ OperationsProceed ∧ RowsBecomeFinal ∧ WaitsAndZeros ∧ CellsAndStatus

/-- R264, R276: a drain writes its rows to memory in order and then wakes. -/
def Obligations.DrainsWriteTheirRows : Prop := DrainsStart ∧ DrainsWrite

/-- R322 to R336: sequences are opened and closed, tokens and requests enter them, predictions are checked, rewound and
retired. -/
def Obligations.TheWindrowKeepsSequences : Prop :=
  SequencesOpenAndClose ∧ Predictions ∧ TokensAreAppended ∧ RequestsWait ∧ PredictionsAreChecked ∧ SequencesAreRead

/-! ### The module, the host, trust -/

/-- R369 to R371, R388, R389, R396, R309: the module's reset, release and start, its thermal limits, a memory error. What a
reset keeps, what unwritten memory reads and what a thermal trip resets are log entries 5, 6 (DESIGN CHOICE) and 36 (DEDUCED). -/
def Obligations.TheModuleComesUp : Prop :=
  ResetsTheModule ∧ ReleasesTheModule ∧ StartsTheStile ∧ ThermalLimits ∧ MemoryErrors

/-- R226, R286, R296 to R298, R339, R345, R353, R390, R392, R402: stores to registers of system space. -/
def Obligations.StoresReachSystemRegisters : Prop := RegisterStores ∧ ControlStores ∧ BindsTenants

/-- R351 to R355, R359 to R361, R365, R366, R374: what the host does, and pages that change their owner. The answers below
HDMBASE and for a bad block on a write, and the ORIGIN of its record, are log entries 34 and 25 (DEDUCED). -/
def Obligations.TheHostReachesTheModule : Prop := HostMailboxes ∧ HostMemory ∧ PagesChangeOwners

/-- R372, R376 to R383, R386, R387: the enclosure, its fabric, enclaves, handovers and the SPDM responder. -/
def Obligations.TrustIsKept : Prop := Rekeys ∧ FabricPackets ∧ EnclavesAndClusters ∧ Handovers ∧ SpdmRequests

/-- R370: register 4 is zero at reset, is written once, and is reported as it stands. -/
def Obligations.MeasurementRegisterFourIsWrittenOnce : Prop := RegisterFour

/-! ### Words, steps, invariants -/

/-- R61 to R66, R222: a step runs the instruction decoded at the program counter, or an event that is due. -/
def Obligations.StepRunsTheDecodedInstruction : Prop := StepsExecute ∧ StepsPerformEvents

/-- R66, R67, R282 and the encoding tables of every family: words of the spec, of 32 and of 16 bits, decode to the
instructions that they stand for. -/
def Obligations.WordsDecode : Prop :=
  (∀ p ∈ ([(0b0000000000_00111_00110_00101_000001_1, .add 5 6 7 .wrap), (0b0000010000_00111_00110_00101_000001_1, .sub 5 6 7 .wrap),
    (0x020E62CF, .fadd 5 6 7 .f32), (0x2A5062D1, .vcvt 5 6 .bf16 .f32), (0x1F7384D1, .vdot 9 24 25 .dm8), (0x14000055, .tend),
    (0x24C00055, .bar 3), (0x28000055, .wdog), (0x34000055, .hlay), (0x000E9355, .send 6 9 7), (0x00048057, .hload 8 2),
    (0x08000057, .hswap), (0x10269357, .hgo 6 9 true 3), (0x2020A3D7, .hdrain 7 10 true), (0x28205057, .hwait 5 true),
    (0x38005657, .haccRd 12 5), (0x40200057, .hsetDiscard), (0x000C5059, .sys 5 6), (0x04000059, .brk), (0x08000059, .xret),
    (0x0C007059, .idle 7), (0x10000059, .halt), (0x16005059, .vfence 5 .die .page), (0x18000059, .ctxsave),
    (0x1C005059, .ctxload 5), (0x20006259, .migr 4 6), (0x2400A059, .pwreq 10), (0x28000059, .pwrel),
    (0x020202DB, .crr 5 0x101#12), (0x6208605B, .crc 0 6 0x104#12), (0x000A84DD, .wopen 9 8 5), (0x0400905D, .wclose 9),
    (0x0810925D, .wcall 4 9 8), (0x0C0E935D, .wtok 6 9 7), (0x1490925D, .wcheck 4 9 8 2), (0x1800965D, .wretire 12 9),
    (0x1C54905D, .wrewind 9 10 1), (0x2100925D, .wstatP 4 9 2),
    (0xA5532E85, .addi 29 18 0x52A9#15), (0xB35D5F19, .bt 30 0xB35#12 85), (0xB3555F19, .bf 30 0xB35#12 85),
    (0xD2E1F39D, .jal 0x1A5C3E7#25), (0x04012E9F, .jalr 29 18), (0x468AA5A1, .drill 0x2345#15 0xA#4 0xB#4),
    (0x18172EA3, .csetaddr 29 18 11), (0x2C172EA3, .cseal 29 18 11), (0xA5532EA5, .cincaddri 29 18 0x52A9#15),
    (0xA5532EAD, .ldD 29 18 0x52A9#15), (0xA5532EB3, .ldzH 29 18 0x52A9#15), (0xA5532EB7, .ldC 29 18 0x52A9#15),
    (0xB51729BF, .stD 18 11 0x5A93#15), (0xB51729C3, .stC 18 11 0x5A93#15), (0x09012EC5, .lda 29 18 .q .sys),
    (0x27172EC5, .amoadd 29 18 11 .d .sys), (0x59172EC5, .amocasq 29 18 11 .sys), (0x05000047, .fence .rel .sys),
    (0x11000047, .fsc .sys), (0x20000047, .sheaf), (0x30D72047, .cinv 18 11), (0x50012047, .pfL1 18),
    (0x00352EC9, .sbind 29 18 true 10), (0x08352EC9, .sbindch 29 18 true 10), (0x2541A049, .sskip 26 42),
    (0x00152ECB, .cbinit 29 18 10), (0x10152ECB, .cbfree 29 18 10), (0x1815204B, .cbadv 18 10),
    (0x00E1204D, .epush 18 .e7), (0x08E00ECD, .epop 29 .e7), (0x18E00ECD, .estat 29 .e7)] : List (Nat × Instr)),
    decodeTableWord 32 p.1 = some p.2) ∧
  ∀ p ∈ ([(0x0BE8, .mov16 29 11), (0x2BE8, .add16 29 11), (0x2DEA, .addi16 29 0x2D#6), (0x6DEA, .movi16 29 0x2D#6),
    (0xADEA, .ldD16 29 0x2D#6), (0xEDEA, .stD16 29 0x2D#6), (0x2E1C, .jmp16 0x5C3#11), (0x4094, .jr16 18), (0x4194, .jalr16 18),
    (0x8014, .ret16), (0xABEE, .whenSet 30 85), (0xABE6, .unlessSet 30 85)] : List (Nat × Instr)),
    decodeTableWord 16 p.1 = some p.2

/-- Decoding an encoded well-formed instruction gives it back, with every operand at every value. -/
def Obligations.EncodedInstructionsDecode : Prop :=
  ∀ (i : Instr) (w : Nat), i.wf = true → (∀ v x, i ≠ .illegalInstruction v x) → encode i = some w →
    w < 2 ^ (8 * i.bytes) ∧ decodeBytes (leBytes i.bytes w) = some (i, [])

/-- R72: every word has one meaning: what decodes from a word encodes to it. -/
def Obligations.DecodedWordsEncode : Prop :=
  (∀ w, w < 2 ^ 32 → w % 2 = 1 → encode (decode32 w) = some w) ∧ (∀ h, h < 2 ^ 16 → h % 2 = 0 → encode (decode16 h) = some h)

/-- Every step keeps the canonical form of memory. -/
def Obligations.MemoryStaysCanonical : Prop :=
  ∀ s t : State, Memory.wf s.mem = true → step s = .next t → Memory.wf t.mem = true

/-- Memory at reset has its canonical form; that unwritten bytes read 0 is the model's choice (log entry 6). -/
def Obligations.ResetMemoryIsCanonical : Prop := Memory.wf State.reset.mem = true

/-- R50, R388 and the Reset columns of Tables 3.5, 3.6, 5.11 to 5.18, 16.7, 24.1, 24.2, 28.2: the machine right after reset. -/
def Obligations.ResetValues : Prop :=
  (∀ k, (State.reset.ctx k).frnd = 0#2 ∧ (State.reset.ctx k).fstat = 0#6 ∧ (State.reset.ctx k).hfmt = 0#8 ∧
    (State.reset.ctx k).uxcause = 0#16 ∧ (State.reset.ctx k).sx.stat = 0#22 ∧ (State.reset.ctx k).mx.stat = 0#22 ∧
    (State.reset.ctx k).sx.val = 0#128 ∧ (State.reset.ctx k).mx.vec.bits = 0#128) ∧
  State.reset.core.ipol = false ∧ State.reset.core.stg = 0#4 ∧ State.reset.core.tenant = 0#12 ∧ State.reset.core.pkey = 0#32 ∧
  State.reset.core.wdg.en = false ∧ (∀ n, State.reset.core.pwin.get n = 0#128) ∧
  (∀ n, (State.reset.opSlot n).oc = true ∧ (State.reset.opSlot n).done = true) ∧
  State.reset.module.phase = .inReset ∧ State.reset.serviceLevel = 0 ∧ State.reset.module.pcap = State.reset.module.fusecap ∧
  (∀ f m, (State.reset.inboxOf f m).entries = [] ∧ (State.reset.inboxOf f m).accepted = 0#32) ∧ State.reset.module.flip = none ∧
  (∀ p, State.reset.hostOwns p = false) ∧ (∀ a, State.reset.seal a = 0)

/-- Every instruction and every event answers a next state in every state: traps, waits and squashes are next states, and
no fault and no refusal is raised (log entry 38). -/
def Obligations.EveryInstructionGoesOn : Prop := (∀ (i : Instr) (s : State), ∃ t, exec i s = .next t) ∧ ∀ s, ∃ t, step s = .next t

end
end

