-- ==== Sys2Proof/Laws/State.lean ====
section
/-! SUPPORT. What each update of the state leaves in each part of it: one lemma per part and update, all by rfl, and
the reading of slots, contexts, ports and handles after an update. -/

namespace Sys2Proof.Machine

/-! ### Parts of the state -/

@[simp] theorem State.setSlot_harrow (s : State) (k : SlotId) (x : Slot) : (s.setSlot k x).harrow = s.harrow := rfl
@[simp] theorem State.setSlot_cluster (s : State) (k : SlotId) (x : Slot) : (s.setSlot k x).cluster = s.cluster := rfl
@[simp] theorem State.setSlot_die (s : State) (k : SlotId) (x : Slot) : (s.setSlot k x).die = s.die := rfl
@[simp] theorem State.setSlot_module (s : State) (k : SlotId) (x : Slot) : (s.setSlot k x).module = s.module := rfl
@[simp] theorem State.setSlot_mem (s : State) (k : SlotId) (x : Slot) : (s.setSlot k x).mem = s.mem := rfl
@[simp] theorem State.setSlot_tags (s : State) (k : SlotId) (x : Slot) : (s.setSlot k x).tags = s.tags := rfl
@[simp] theorem State.setSlot_seals (s : State) (k : SlotId) (x : Slot) : (s.setSlot k x).seals = s.seals := rfl
@[simp] theorem State.setSlot_bad (s : State) (k : SlotId) (x : Slot) : (s.setSlot k x).bad = s.bad := rfl
@[simp] theorem State.setSlot_sys (s : State) (k : SlotId) (x : Slot) : (s.setSlot k x).sys = s.sys := rfl
@[simp] theorem State.setSlot_agenda (s : State) (k : SlotId) (x : Slot) : (s.setSlot k x).agenda = s.agenda := rfl
@[simp] theorem State.setSlot_event (s : State) (k : SlotId) (x : Slot) : (s.setSlot k x).event = s.event := rfl
@[simp] theorem State.setSlot_eventTurn (s : State) (k : SlotId) (x : Slot) : (s.setSlot k x).eventTurn = s.eventTurn := rfl
@[simp] theorem State.setSlot_fresh (s : State) (k : SlotId) (x : Slot) : (s.setSlot k x).fresh = s.fresh := rfl

@[simp] theorem State.modSlot_harrow (s : State) (k : SlotId) (f : Slot → Slot) : (s.modSlot k f).harrow = s.harrow := rfl
@[simp] theorem State.modSlot_cluster (s : State) (k : SlotId) (f : Slot → Slot) : (s.modSlot k f).cluster = s.cluster := rfl
@[simp] theorem State.modSlot_die (s : State) (k : SlotId) (f : Slot → Slot) : (s.modSlot k f).die = s.die := rfl
@[simp] theorem State.modSlot_module (s : State) (k : SlotId) (f : Slot → Slot) : (s.modSlot k f).module = s.module := rfl
@[simp] theorem State.modSlot_mem (s : State) (k : SlotId) (f : Slot → Slot) : (s.modSlot k f).mem = s.mem := rfl
@[simp] theorem State.modSlot_tags (s : State) (k : SlotId) (f : Slot → Slot) : (s.modSlot k f).tags = s.tags := rfl
@[simp] theorem State.modSlot_seals (s : State) (k : SlotId) (f : Slot → Slot) : (s.modSlot k f).seals = s.seals := rfl
@[simp] theorem State.modSlot_bad (s : State) (k : SlotId) (f : Slot → Slot) : (s.modSlot k f).bad = s.bad := rfl
@[simp] theorem State.modSlot_sys (s : State) (k : SlotId) (f : Slot → Slot) : (s.modSlot k f).sys = s.sys := rfl
@[simp] theorem State.modSlot_agenda (s : State) (k : SlotId) (f : Slot → Slot) : (s.modSlot k f).agenda = s.agenda := rfl
@[simp] theorem State.modSlot_event (s : State) (k : SlotId) (f : Slot → Slot) : (s.modSlot k f).event = s.event := rfl
@[simp] theorem State.modSlot_eventTurn (s : State) (k : SlotId) (f : Slot → Slot) : (s.modSlot k f).eventTurn = s.eventTurn := rfl
@[simp] theorem State.modSlot_fresh (s : State) (k : SlotId) (f : Slot → Slot) : (s.modSlot k f).fresh = s.fresh := rfl

@[simp] theorem State.modCtx_harrow (s : State) (k : SlotId) (f : Ctx → Ctx) : (s.modCtx k f).harrow = s.harrow := rfl
@[simp] theorem State.modCtx_cluster (s : State) (k : SlotId) (f : Ctx → Ctx) : (s.modCtx k f).cluster = s.cluster := rfl
@[simp] theorem State.modCtx_die (s : State) (k : SlotId) (f : Ctx → Ctx) : (s.modCtx k f).die = s.die := rfl
@[simp] theorem State.modCtx_module (s : State) (k : SlotId) (f : Ctx → Ctx) : (s.modCtx k f).module = s.module := rfl
@[simp] theorem State.modCtx_mem (s : State) (k : SlotId) (f : Ctx → Ctx) : (s.modCtx k f).mem = s.mem := rfl
@[simp] theorem State.modCtx_tags (s : State) (k : SlotId) (f : Ctx → Ctx) : (s.modCtx k f).tags = s.tags := rfl
@[simp] theorem State.modCtx_seals (s : State) (k : SlotId) (f : Ctx → Ctx) : (s.modCtx k f).seals = s.seals := rfl
@[simp] theorem State.modCtx_bad (s : State) (k : SlotId) (f : Ctx → Ctx) : (s.modCtx k f).bad = s.bad := rfl
@[simp] theorem State.modCtx_sys (s : State) (k : SlotId) (f : Ctx → Ctx) : (s.modCtx k f).sys = s.sys := rfl
@[simp] theorem State.modCtx_agenda (s : State) (k : SlotId) (f : Ctx → Ctx) : (s.modCtx k f).agenda = s.agenda := rfl
@[simp] theorem State.modCtx_event (s : State) (k : SlotId) (f : Ctx → Ctx) : (s.modCtx k f).event = s.event := rfl
@[simp] theorem State.modCtx_eventTurn (s : State) (k : SlotId) (f : Ctx → Ctx) : (s.modCtx k f).eventTurn = s.eventTurn := rfl
@[simp] theorem State.modCtx_fresh (s : State) (k : SlotId) (f : Ctx → Ctx) : (s.modCtx k f).fresh = s.fresh := rfl

@[simp] theorem State.modSheaf_harrow (s : State) (k : SlotId) (f : Sheaf → Sheaf) : (s.modSheaf k f).harrow = s.harrow := rfl
@[simp] theorem State.modSheaf_cluster (s : State) (k : SlotId) (f : Sheaf → Sheaf) : (s.modSheaf k f).cluster = s.cluster := rfl
@[simp] theorem State.modSheaf_die (s : State) (k : SlotId) (f : Sheaf → Sheaf) : (s.modSheaf k f).die = s.die := rfl
@[simp] theorem State.modSheaf_module (s : State) (k : SlotId) (f : Sheaf → Sheaf) : (s.modSheaf k f).module = s.module := rfl
@[simp] theorem State.modSheaf_mem (s : State) (k : SlotId) (f : Sheaf → Sheaf) : (s.modSheaf k f).mem = s.mem := rfl
@[simp] theorem State.modSheaf_tags (s : State) (k : SlotId) (f : Sheaf → Sheaf) : (s.modSheaf k f).tags = s.tags := rfl
@[simp] theorem State.modSheaf_seals (s : State) (k : SlotId) (f : Sheaf → Sheaf) : (s.modSheaf k f).seals = s.seals := rfl
@[simp] theorem State.modSheaf_bad (s : State) (k : SlotId) (f : Sheaf → Sheaf) : (s.modSheaf k f).bad = s.bad := rfl
@[simp] theorem State.modSheaf_sys (s : State) (k : SlotId) (f : Sheaf → Sheaf) : (s.modSheaf k f).sys = s.sys := rfl
@[simp] theorem State.modSheaf_agenda (s : State) (k : SlotId) (f : Sheaf → Sheaf) : (s.modSheaf k f).agenda = s.agenda := rfl
@[simp] theorem State.modSheaf_event (s : State) (k : SlotId) (f : Sheaf → Sheaf) : (s.modSheaf k f).event = s.event := rfl
@[simp] theorem State.modSheaf_eventTurn (s : State) (k : SlotId) (f : Sheaf → Sheaf) : (s.modSheaf k f).eventTurn = s.eventTurn := rfl
@[simp] theorem State.modSheaf_fresh (s : State) (k : SlotId) (f : Sheaf → Sheaf) : (s.modSheaf k f).fresh = s.fresh := rfl

@[simp] theorem State.modCore_harrow (s : State) (f : Core → Core) : (s.modCore f).harrow = s.harrow := rfl
@[simp] theorem State.modCore_cluster (s : State) (f : Core → Core) : (s.modCore f).cluster = s.cluster := rfl
@[simp] theorem State.modCore_die (s : State) (f : Core → Core) : (s.modCore f).die = s.die := rfl
@[simp] theorem State.modCore_module (s : State) (f : Core → Core) : (s.modCore f).module = s.module := rfl
@[simp] theorem State.modCore_mem (s : State) (f : Core → Core) : (s.modCore f).mem = s.mem := rfl
@[simp] theorem State.modCore_tags (s : State) (f : Core → Core) : (s.modCore f).tags = s.tags := rfl
@[simp] theorem State.modCore_seals (s : State) (f : Core → Core) : (s.modCore f).seals = s.seals := rfl
@[simp] theorem State.modCore_bad (s : State) (f : Core → Core) : (s.modCore f).bad = s.bad := rfl
@[simp] theorem State.modCore_sys (s : State) (f : Core → Core) : (s.modCore f).sys = s.sys := rfl
@[simp] theorem State.modCore_agenda (s : State) (f : Core → Core) : (s.modCore f).agenda = s.agenda := rfl
@[simp] theorem State.modCore_event (s : State) (f : Core → Core) : (s.modCore f).event = s.event := rfl
@[simp] theorem State.modCore_eventTurn (s : State) (f : Core → Core) : (s.modCore f).eventTurn = s.eventTurn := rfl
@[simp] theorem State.modCore_fresh (s : State) (f : Core → Core) : (s.modCore f).fresh = s.fresh := rfl

@[simp] theorem State.modHarrow_core (s : State) (f : Harrow → Harrow) : (s.modHarrow f).core = s.core := rfl
@[simp] theorem State.modHarrow_cluster (s : State) (f : Harrow → Harrow) : (s.modHarrow f).cluster = s.cluster := rfl
@[simp] theorem State.modHarrow_die (s : State) (f : Harrow → Harrow) : (s.modHarrow f).die = s.die := rfl
@[simp] theorem State.modHarrow_module (s : State) (f : Harrow → Harrow) : (s.modHarrow f).module = s.module := rfl
@[simp] theorem State.modHarrow_mem (s : State) (f : Harrow → Harrow) : (s.modHarrow f).mem = s.mem := rfl
@[simp] theorem State.modHarrow_tags (s : State) (f : Harrow → Harrow) : (s.modHarrow f).tags = s.tags := rfl
@[simp] theorem State.modHarrow_seals (s : State) (f : Harrow → Harrow) : (s.modHarrow f).seals = s.seals := rfl
@[simp] theorem State.modHarrow_bad (s : State) (f : Harrow → Harrow) : (s.modHarrow f).bad = s.bad := rfl
@[simp] theorem State.modHarrow_sys (s : State) (f : Harrow → Harrow) : (s.modHarrow f).sys = s.sys := rfl
@[simp] theorem State.modHarrow_agenda (s : State) (f : Harrow → Harrow) : (s.modHarrow f).agenda = s.agenda := rfl
@[simp] theorem State.modHarrow_event (s : State) (f : Harrow → Harrow) : (s.modHarrow f).event = s.event := rfl
@[simp] theorem State.modHarrow_eventTurn (s : State) (f : Harrow → Harrow) : (s.modHarrow f).eventTurn = s.eventTurn := rfl
@[simp] theorem State.modHarrow_fresh (s : State) (f : Harrow → Harrow) : (s.modHarrow f).fresh = s.fresh := rfl

@[simp] theorem State.modDie_core (s : State) (f : Die → Die) : (s.modDie f).core = s.core := rfl
@[simp] theorem State.modDie_harrow (s : State) (f : Die → Die) : (s.modDie f).harrow = s.harrow := rfl
@[simp] theorem State.modDie_cluster (s : State) (f : Die → Die) : (s.modDie f).cluster = s.cluster := rfl
@[simp] theorem State.modDie_module (s : State) (f : Die → Die) : (s.modDie f).module = s.module := rfl
@[simp] theorem State.modDie_mem (s : State) (f : Die → Die) : (s.modDie f).mem = s.mem := rfl
@[simp] theorem State.modDie_tags (s : State) (f : Die → Die) : (s.modDie f).tags = s.tags := rfl
@[simp] theorem State.modDie_seals (s : State) (f : Die → Die) : (s.modDie f).seals = s.seals := rfl
@[simp] theorem State.modDie_bad (s : State) (f : Die → Die) : (s.modDie f).bad = s.bad := rfl
@[simp] theorem State.modDie_sys (s : State) (f : Die → Die) : (s.modDie f).sys = s.sys := rfl
@[simp] theorem State.modDie_agenda (s : State) (f : Die → Die) : (s.modDie f).agenda = s.agenda := rfl
@[simp] theorem State.modDie_event (s : State) (f : Die → Die) : (s.modDie f).event = s.event := rfl
@[simp] theorem State.modDie_eventTurn (s : State) (f : Die → Die) : (s.modDie f).eventTurn = s.eventTurn := rfl
@[simp] theorem State.modDie_fresh (s : State) (f : Die → Die) : (s.modDie f).fresh = s.fresh := rfl

@[simp] theorem State.modCluster_core (s : State) (f : Cluster → Cluster) : (s.modCluster f).core = s.core := rfl
@[simp] theorem State.modCluster_harrow (s : State) (f : Cluster → Cluster) : (s.modCluster f).harrow = s.harrow := rfl
@[simp] theorem State.modCluster_die (s : State) (f : Cluster → Cluster) : (s.modCluster f).die = s.die := rfl
@[simp] theorem State.modCluster_module (s : State) (f : Cluster → Cluster) : (s.modCluster f).module = s.module := rfl
@[simp] theorem State.modCluster_mem (s : State) (f : Cluster → Cluster) : (s.modCluster f).mem = s.mem := rfl
@[simp] theorem State.modCluster_tags (s : State) (f : Cluster → Cluster) : (s.modCluster f).tags = s.tags := rfl
@[simp] theorem State.modCluster_seals (s : State) (f : Cluster → Cluster) : (s.modCluster f).seals = s.seals := rfl
@[simp] theorem State.modCluster_bad (s : State) (f : Cluster → Cluster) : (s.modCluster f).bad = s.bad := rfl
@[simp] theorem State.modCluster_sys (s : State) (f : Cluster → Cluster) : (s.modCluster f).sys = s.sys := rfl
@[simp] theorem State.modCluster_agenda (s : State) (f : Cluster → Cluster) : (s.modCluster f).agenda = s.agenda := rfl
@[simp] theorem State.modCluster_event (s : State) (f : Cluster → Cluster) : (s.modCluster f).event = s.event := rfl
@[simp] theorem State.modCluster_eventTurn (s : State) (f : Cluster → Cluster) : (s.modCluster f).eventTurn = s.eventTurn := rfl
@[simp] theorem State.modCluster_fresh (s : State) (f : Cluster → Cluster) : (s.modCluster f).fresh = s.fresh := rfl

@[simp] theorem State.modModule_core (s : State) (f : Module → Module) : (s.modModule f).core = s.core := rfl
@[simp] theorem State.modModule_harrow (s : State) (f : Module → Module) : (s.modModule f).harrow = s.harrow := rfl
@[simp] theorem State.modModule_cluster (s : State) (f : Module → Module) : (s.modModule f).cluster = s.cluster := rfl
@[simp] theorem State.modModule_die (s : State) (f : Module → Module) : (s.modModule f).die = s.die := rfl
@[simp] theorem State.modModule_mem (s : State) (f : Module → Module) : (s.modModule f).mem = s.mem := rfl
@[simp] theorem State.modModule_tags (s : State) (f : Module → Module) : (s.modModule f).tags = s.tags := rfl
@[simp] theorem State.modModule_seals (s : State) (f : Module → Module) : (s.modModule f).seals = s.seals := rfl
@[simp] theorem State.modModule_bad (s : State) (f : Module → Module) : (s.modModule f).bad = s.bad := rfl
@[simp] theorem State.modModule_sys (s : State) (f : Module → Module) : (s.modModule f).sys = s.sys := rfl
@[simp] theorem State.modModule_agenda (s : State) (f : Module → Module) : (s.modModule f).agenda = s.agenda := rfl
@[simp] theorem State.modModule_event (s : State) (f : Module → Module) : (s.modModule f).event = s.event := rfl
@[simp] theorem State.modModule_eventTurn (s : State) (f : Module → Module) : (s.modModule f).eventTurn = s.eventTurn := rfl
@[simp] theorem State.modModule_fresh (s : State) (f : Module → Module) : (s.modModule f).fresh = s.fresh := rfl

@[simp] theorem State.setPort_harrow (s : State) (p : Fin 8) (x : Port) : (s.setPort p x).harrow = s.harrow := rfl
@[simp] theorem State.setPort_cluster (s : State) (p : Fin 8) (x : Port) : (s.setPort p x).cluster = s.cluster := rfl
@[simp] theorem State.setPort_die (s : State) (p : Fin 8) (x : Port) : (s.setPort p x).die = s.die := rfl
@[simp] theorem State.setPort_module (s : State) (p : Fin 8) (x : Port) : (s.setPort p x).module = s.module := rfl
@[simp] theorem State.setPort_mem (s : State) (p : Fin 8) (x : Port) : (s.setPort p x).mem = s.mem := rfl
@[simp] theorem State.setPort_tags (s : State) (p : Fin 8) (x : Port) : (s.setPort p x).tags = s.tags := rfl
@[simp] theorem State.setPort_seals (s : State) (p : Fin 8) (x : Port) : (s.setPort p x).seals = s.seals := rfl
@[simp] theorem State.setPort_bad (s : State) (p : Fin 8) (x : Port) : (s.setPort p x).bad = s.bad := rfl
@[simp] theorem State.setPort_sys (s : State) (p : Fin 8) (x : Port) : (s.setPort p x).sys = s.sys := rfl
@[simp] theorem State.setPort_agenda (s : State) (p : Fin 8) (x : Port) : (s.setPort p x).agenda = s.agenda := rfl
@[simp] theorem State.setPort_event (s : State) (p : Fin 8) (x : Port) : (s.setPort p x).event = s.event := rfl
@[simp] theorem State.setPort_eventTurn (s : State) (p : Fin 8) (x : Port) : (s.setPort p x).eventTurn = s.eventTurn := rfl
@[simp] theorem State.setPort_fresh (s : State) (p : Fin 8) (x : Port) : (s.setPort p x).fresh = s.fresh := rfl

@[simp] theorem State.setHandle_harrow (s : State) (h : Fin 16) (x : Handle) : (s.setHandle h x).harrow = s.harrow := rfl
@[simp] theorem State.setHandle_cluster (s : State) (h : Fin 16) (x : Handle) : (s.setHandle h x).cluster = s.cluster := rfl
@[simp] theorem State.setHandle_die (s : State) (h : Fin 16) (x : Handle) : (s.setHandle h x).die = s.die := rfl
@[simp] theorem State.setHandle_module (s : State) (h : Fin 16) (x : Handle) : (s.setHandle h x).module = s.module := rfl
@[simp] theorem State.setHandle_mem (s : State) (h : Fin 16) (x : Handle) : (s.setHandle h x).mem = s.mem := rfl
@[simp] theorem State.setHandle_tags (s : State) (h : Fin 16) (x : Handle) : (s.setHandle h x).tags = s.tags := rfl
@[simp] theorem State.setHandle_seals (s : State) (h : Fin 16) (x : Handle) : (s.setHandle h x).seals = s.seals := rfl
@[simp] theorem State.setHandle_bad (s : State) (h : Fin 16) (x : Handle) : (s.setHandle h x).bad = s.bad := rfl
@[simp] theorem State.setHandle_sys (s : State) (h : Fin 16) (x : Handle) : (s.setHandle h x).sys = s.sys := rfl
@[simp] theorem State.setHandle_agenda (s : State) (h : Fin 16) (x : Handle) : (s.setHandle h x).agenda = s.agenda := rfl
@[simp] theorem State.setHandle_event (s : State) (h : Fin 16) (x : Handle) : (s.setHandle h x).event = s.event := rfl
@[simp] theorem State.setHandle_eventTurn (s : State) (h : Fin 16) (x : Handle) : (s.setHandle h x).eventTurn = s.eventTurn := rfl
@[simp] theorem State.setHandle_fresh (s : State) (h : Fin 16) (x : Handle) : (s.setHandle h x).fresh = s.fresh := rfl

@[simp] theorem State.schedule_core (s : State) (w : Instr) (d : Detail) : (s.schedule w d).core = s.core := rfl
@[simp] theorem State.schedule_harrow (s : State) (w : Instr) (d : Detail) : (s.schedule w d).harrow = s.harrow := rfl
@[simp] theorem State.schedule_cluster (s : State) (w : Instr) (d : Detail) : (s.schedule w d).cluster = s.cluster := rfl
@[simp] theorem State.schedule_die (s : State) (w : Instr) (d : Detail) : (s.schedule w d).die = s.die := rfl
@[simp] theorem State.schedule_module (s : State) (w : Instr) (d : Detail) : (s.schedule w d).module = s.module := rfl
@[simp] theorem State.schedule_mem (s : State) (w : Instr) (d : Detail) : (s.schedule w d).mem = s.mem := rfl
@[simp] theorem State.schedule_tags (s : State) (w : Instr) (d : Detail) : (s.schedule w d).tags = s.tags := rfl
@[simp] theorem State.schedule_seals (s : State) (w : Instr) (d : Detail) : (s.schedule w d).seals = s.seals := rfl
@[simp] theorem State.schedule_bad (s : State) (w : Instr) (d : Detail) : (s.schedule w d).bad = s.bad := rfl
@[simp] theorem State.schedule_sys (s : State) (w : Instr) (d : Detail) : (s.schedule w d).sys = s.sys := rfl
@[simp] theorem State.schedule_event (s : State) (w : Instr) (d : Detail) : (s.schedule w d).event = s.event := rfl
@[simp] theorem State.schedule_eventTurn (s : State) (w : Instr) (d : Detail) : (s.schedule w d).eventTurn = s.eventTurn := rfl
@[simp] theorem State.schedule_fresh (s : State) (w : Instr) (d : Detail) : (s.schedule w d).fresh = s.fresh := rfl

@[simp] theorem State.tick_core (s : State) : (s.tick).core = s.core := rfl
@[simp] theorem State.tick_harrow (s : State) : (s.tick).harrow = s.harrow := rfl
@[simp] theorem State.tick_cluster (s : State) : (s.tick).cluster = s.cluster := rfl
@[simp] theorem State.tick_die (s : State) : (s.tick).die = s.die := rfl
@[simp] theorem State.tick_module (s : State) : (s.tick).module = s.module := rfl
@[simp] theorem State.tick_mem (s : State) : (s.tick).mem = s.mem := rfl
@[simp] theorem State.tick_tags (s : State) : (s.tick).tags = s.tags := rfl
@[simp] theorem State.tick_seals (s : State) : (s.tick).seals = s.seals := rfl
@[simp] theorem State.tick_bad (s : State) : (s.tick).bad = s.bad := rfl
@[simp] theorem State.tick_sys (s : State) : (s.tick).sys = s.sys := rfl
@[simp] theorem State.tick_agenda (s : State) : (s.tick).agenda = s.agenda := rfl
@[simp] theorem State.tick_event (s : State) : (s.tick).event = s.event := rfl
@[simp] theorem State.tick_eventTurn (s : State) : (s.tick).eventTurn = s.eventTurn := rfl

@[simp] theorem State.setSysReg_core (s : State) (a : Nat) (v : BitVec 64) : (s.setSysReg a v).core = s.core := rfl
@[simp] theorem State.setSysReg_harrow (s : State) (a : Nat) (v : BitVec 64) : (s.setSysReg a v).harrow = s.harrow := rfl
@[simp] theorem State.setSysReg_cluster (s : State) (a : Nat) (v : BitVec 64) : (s.setSysReg a v).cluster = s.cluster := rfl
@[simp] theorem State.setSysReg_die (s : State) (a : Nat) (v : BitVec 64) : (s.setSysReg a v).die = s.die := rfl
@[simp] theorem State.setSysReg_module (s : State) (a : Nat) (v : BitVec 64) : (s.setSysReg a v).module = s.module := rfl
@[simp] theorem State.setSysReg_mem (s : State) (a : Nat) (v : BitVec 64) : (s.setSysReg a v).mem = s.mem := rfl
@[simp] theorem State.setSysReg_tags (s : State) (a : Nat) (v : BitVec 64) : (s.setSysReg a v).tags = s.tags := rfl
@[simp] theorem State.setSysReg_seals (s : State) (a : Nat) (v : BitVec 64) : (s.setSysReg a v).seals = s.seals := rfl
@[simp] theorem State.setSysReg_bad (s : State) (a : Nat) (v : BitVec 64) : (s.setSysReg a v).bad = s.bad := rfl
@[simp] theorem State.setSysReg_agenda (s : State) (a : Nat) (v : BitVec 64) : (s.setSysReg a v).agenda = s.agenda := rfl
@[simp] theorem State.setSysReg_event (s : State) (a : Nat) (v : BitVec 64) : (s.setSysReg a v).event = s.event := rfl
@[simp] theorem State.setSysReg_eventTurn (s : State) (a : Nat) (v : BitVec 64) : (s.setSysReg a v).eventTurn = s.eventTurn := rfl
@[simp] theorem State.setSysReg_fresh (s : State) (a : Nat) (v : BitVec 64) : (s.setSysReg a v).fresh = s.fresh := rfl

@[simp] theorem State.setBubble_harrow (s : State) (k : SlotId) : (s.setBubble k).harrow = s.harrow := rfl
@[simp] theorem State.setBubble_cluster (s : State) (k : SlotId) : (s.setBubble k).cluster = s.cluster := rfl
@[simp] theorem State.setBubble_die (s : State) (k : SlotId) : (s.setBubble k).die = s.die := rfl
@[simp] theorem State.setBubble_module (s : State) (k : SlotId) : (s.setBubble k).module = s.module := rfl
@[simp] theorem State.setBubble_mem (s : State) (k : SlotId) : (s.setBubble k).mem = s.mem := rfl
@[simp] theorem State.setBubble_tags (s : State) (k : SlotId) : (s.setBubble k).tags = s.tags := rfl
@[simp] theorem State.setBubble_seals (s : State) (k : SlotId) : (s.setBubble k).seals = s.seals := rfl
@[simp] theorem State.setBubble_bad (s : State) (k : SlotId) : (s.setBubble k).bad = s.bad := rfl
@[simp] theorem State.setBubble_sys (s : State) (k : SlotId) : (s.setBubble k).sys = s.sys := rfl
@[simp] theorem State.setBubble_agenda (s : State) (k : SlotId) : (s.setBubble k).agenda = s.agenda := rfl
@[simp] theorem State.setBubble_event (s : State) (k : SlotId) : (s.setBubble k).event = s.event := rfl
@[simp] theorem State.setBubble_eventTurn (s : State) (k : SlotId) : (s.setBubble k).eventTurn = s.eventTurn := rfl
@[simp] theorem State.setBubble_fresh (s : State) (k : SlotId) : (s.setBubble k).fresh = s.fresh := rfl

@[simp] theorem State.modCore_core (s : State) (f : Core → Core) : (s.modCore f).core = f s.core := rfl
@[simp] theorem State.modHarrow_harrow (s : State) (f : Harrow → Harrow) : (s.modHarrow f).harrow = f s.harrow := rfl
@[simp] theorem State.modDie_die (s : State) (f : Die → Die) : (s.modDie f).die = f s.die := rfl
@[simp] theorem State.modCluster_cluster (s : State) (f : Cluster → Cluster) : (s.modCluster f).cluster = f s.cluster := rfl
@[simp] theorem State.modModule_module (s : State) (f : Module → Module) : (s.modModule f).module = f s.module := rfl
@[simp] theorem State.schedule_agenda (s : State) (w : Instr) (d : Detail) :
    (s.schedule w d).agenda = s.agenda ++ [⟨w, d⟩] := rfl
@[simp] theorem State.tick_fresh (s : State) : s.tick.fresh = s.fresh + 1 := rfl

/-! ### The core under an update of a slot, a port or a handle -/

@[simp] theorem State.setSlot_core_id (s : State) (k : SlotId) (x : Slot) : (s.setSlot k x).core.id = s.core.id := rfl
@[simp] theorem State.setSlot_core_cur (s : State) (k : SlotId) (x : Slot) : (s.setSlot k x).core.cur = s.core.cur := rfl
@[simp] theorem State.setSlot_core_last (s : State) (k : SlotId) (x : Slot) : (s.setSlot k x).core.last = s.core.last := rfl
@[simp] theorem State.setSlot_core_yielded (s : State) (k : SlotId) (x : Slot) : (s.setSlot k x).core.yielded = s.core.yielded := rfl
@[simp] theorem State.setSlot_core_stalled (s : State) (k : SlotId) (x : Slot) : (s.setSlot k x).core.stalled = s.core.stalled := rfl
@[simp] theorem State.setSlot_core_ipol (s : State) (k : SlotId) (x : Slot) : (s.setSlot k x).core.ipol = s.core.ipol := rfl
@[simp] theorem State.setSlot_core_cyc (s : State) (k : SlotId) (x : Slot) : (s.setSlot k x).core.cyc = s.core.cyc := rfl
@[simp] theorem State.setSlot_core_stg (s : State) (k : SlotId) (x : Slot) : (s.setSlot k x).core.stg = s.core.stg := rfl
@[simp] theorem State.setSlot_core_stgNext (s : State) (k : SlotId) (x : Slot) : (s.setSlot k x).core.stgNext = s.core.stgNext := rfl
@[simp] theorem State.setSlot_core_tenant (s : State) (k : SlotId) (x : Slot) : (s.setSlot k x).core.tenant = s.core.tenant := rfl
@[simp] theorem State.setSlot_core_pkey (s : State) (k : SlotId) (x : Slot) : (s.setSlot k x).core.pkey = s.core.pkey := rfl
@[simp] theorem State.setSlot_core_tmbase (s : State) (k : SlotId) (x : Slot) : (s.setSlot k x).core.tmbase = s.core.tmbase := rfl
@[simp] theorem State.setSlot_core_clsbase (s : State) (k : SlotId) (x : Slot) : (s.setSlot k x).core.clsbase = s.core.clsbase := rfl
@[simp] theorem State.setSlot_core_rrbase (s : State) (k : SlotId) (x : Slot) : (s.setSlot k x).core.rrbase = s.core.rrbase := rfl
@[simp] theorem State.setSlot_core_hlbase (s : State) (k : SlotId) (x : Slot) : (s.setSlot k x).core.hlbase = s.core.hlbase := rfl
@[simp] theorem State.setSlot_core_wdg (s : State) (k : SlotId) (x : Slot) : (s.setSlot k x).core.wdg = s.core.wdg := rfl
@[simp] theorem State.setSlot_core_pwin (s : State) (k : SlotId) (x : Slot) : (s.setSlot k x).core.pwin = s.core.pwin := rfl
@[simp] theorem State.setSlot_core_mode (s : State) (k : SlotId) (x : Slot) : (s.setSlot k x).core.mode = s.core.mode := rfl
@[simp] theorem State.setSlot_core_heldCause (s : State) (k : SlotId) (x : Slot) : (s.setSlot k x).core.heldCause = s.core.heldCause := rfl
@[simp] theorem State.setSlot_core_rerr (s : State) (k : SlotId) (x : Slot) : (s.setSlot k x).core.rerr = s.core.rerr := rfl
@[simp] theorem State.setSlot_core_kernel (s : State) (k : SlotId) (x : Slot) : (s.setSlot k x).core.kernel = s.core.kernel := rfl
@[simp] theorem State.setSlot_core_ran (s : State) (k : SlotId) (x : Slot) : (s.setSlot k x).core.ran = s.core.ran := rfl
@[simp] theorem State.setSlot_core_ring (s : State) (k : SlotId) (x : Slot) : (s.setSlot k x).core.ring = s.core.ring := rfl
@[simp] theorem State.setSlot_core_received (s : State) (k : SlotId) (x : Slot) : (s.setSlot k x).core.received = s.core.received := rfl
@[simp] theorem State.setSlot_core_armed (s : State) (k : SlotId) (x : Slot) : (s.setSlot k x).core.armed = s.core.armed := rfl
@[simp] theorem State.setSlot_core_farDecs (s : State) (k : SlotId) (x : Slot) : (s.setSlot k x).core.farDecs = s.core.farDecs := rfl
@[simp] theorem State.setSlot_core_cf (s : State) (k : SlotId) (x : Slot) : (s.setSlot k x).core.cf = s.core.cf := rfl
@[simp] theorem State.setSlot_core_runs (s : State) (k : SlotId) (x : Slot) : (s.setSlot k x).core.runs = s.core.runs := rfl
@[simp] theorem State.setSlot_core_localRuns (s : State) (k : SlotId) (x : Slot) : (s.setSlot k x).core.localRuns = s.core.localRuns := rfl
@[simp] theorem State.setSlot_core_handoff (s : State) (k : SlotId) (x : Slot) : (s.setSlot k x).core.handoff = s.core.handoff := rfl
@[simp] theorem State.setSlot_core_scrubbing (s : State) (k : SlotId) (x : Slot) : (s.setSlot k x).core.scrubbing = s.core.scrubbing := rfl
@[simp] theorem State.setSlot_core_ports (s : State) (k : SlotId) (x : Slot) : (s.setSlot k x).core.ports = s.core.ports := rfl
@[simp] theorem State.setSlot_core_handles (s : State) (k : SlotId) (x : Slot) : (s.setSlot k x).core.handles = s.core.handles := rfl
@[simp] theorem State.setSlot_core_drillOwner (s : State) (k : SlotId) (x : Slot) : (s.setSlot k x).core.drillOwner = s.core.drillOwner := rfl
@[simp] theorem State.setSlot_core_vectorHold (s : State) (k : SlotId) (x : Slot) : (s.setSlot k x).core.vectorHold = s.core.vectorHold := rfl
@[simp] theorem State.setSlot_core_specialHold (s : State) (k : SlotId) (x : Slot) : (s.setSlot k x).core.specialHold = s.core.specialHold := rfl
@[simp] theorem State.setSlot_core_layouts (s : State) (k : SlotId) (x : Slot) : (s.setSlot k x).core.layouts = s.core.layouts := rfl
@[simp] theorem State.setSlot_core_outgoing (s : State) (k : SlotId) (x : Slot) : (s.setSlot k x).core.outgoing = s.core.outgoing := rfl
@[simp] theorem State.setSlot_core_arrived (s : State) (k : SlotId) (x : Slot) : (s.setSlot k x).core.arrived = s.core.arrived := rfl
@[simp] theorem State.setSlot_core_barriers (s : State) (k : SlotId) (x : Slot) : (s.setSlot k x).core.barriers = s.core.barriers := rfl
@[simp] theorem State.setSlot_core_forwards (s : State) (k : SlotId) (x : Slot) : (s.setSlot k x).core.forwards = s.core.forwards := rfl
@[simp] theorem State.setSlot_core_spawned (s : State) (k : SlotId) (x : Slot) : (s.setSlot k x).core.spawned = s.core.spawned := rfl
@[simp] theorem State.setSlot_core_tlb (s : State) (k : SlotId) (x : Slot) : (s.setSlot k x).core.tlb = s.core.tlb := rfl
@[simp] theorem State.setSlot_core_soloAsked (s : State) (k : SlotId) (x : Slot) : (s.setSlot k x).core.soloAsked = s.core.soloAsked := rfl
@[simp] theorem State.setSlot_core_deferred (s : State) (k : SlotId) (x : Slot) : (s.setSlot k x).core.deferred = s.core.deferred := rfl
@[simp] theorem State.setSlot_core_births (s : State) (k : SlotId) (x : Slot) : (s.setSlot k x).core.births = s.core.births := rfl
@[simp] theorem State.setSlot_core_pushes (s : State) (k : SlotId) (x : Slot) : (s.setSlot k x).core.pushes = s.core.pushes := rfl
@[simp] theorem State.setSlot_core_l1 (s : State) (k : SlotId) (x : Slot) : (s.setSlot k x).core.l1 = s.core.l1 := rfl

@[simp] theorem State.modSlot_core_id (s : State) (k : SlotId) (f : Slot → Slot) : (s.modSlot k f).core.id = s.core.id := rfl
@[simp] theorem State.modSlot_core_cur (s : State) (k : SlotId) (f : Slot → Slot) : (s.modSlot k f).core.cur = s.core.cur := rfl
@[simp] theorem State.modSlot_core_last (s : State) (k : SlotId) (f : Slot → Slot) : (s.modSlot k f).core.last = s.core.last := rfl
@[simp] theorem State.modSlot_core_yielded (s : State) (k : SlotId) (f : Slot → Slot) : (s.modSlot k f).core.yielded = s.core.yielded := rfl
@[simp] theorem State.modSlot_core_stalled (s : State) (k : SlotId) (f : Slot → Slot) : (s.modSlot k f).core.stalled = s.core.stalled := rfl
@[simp] theorem State.modSlot_core_ipol (s : State) (k : SlotId) (f : Slot → Slot) : (s.modSlot k f).core.ipol = s.core.ipol := rfl
@[simp] theorem State.modSlot_core_cyc (s : State) (k : SlotId) (f : Slot → Slot) : (s.modSlot k f).core.cyc = s.core.cyc := rfl
@[simp] theorem State.modSlot_core_stg (s : State) (k : SlotId) (f : Slot → Slot) : (s.modSlot k f).core.stg = s.core.stg := rfl
@[simp] theorem State.modSlot_core_stgNext (s : State) (k : SlotId) (f : Slot → Slot) : (s.modSlot k f).core.stgNext = s.core.stgNext := rfl
@[simp] theorem State.modSlot_core_tenant (s : State) (k : SlotId) (f : Slot → Slot) : (s.modSlot k f).core.tenant = s.core.tenant := rfl
@[simp] theorem State.modSlot_core_pkey (s : State) (k : SlotId) (f : Slot → Slot) : (s.modSlot k f).core.pkey = s.core.pkey := rfl
@[simp] theorem State.modSlot_core_tmbase (s : State) (k : SlotId) (f : Slot → Slot) : (s.modSlot k f).core.tmbase = s.core.tmbase := rfl
@[simp] theorem State.modSlot_core_clsbase (s : State) (k : SlotId) (f : Slot → Slot) : (s.modSlot k f).core.clsbase = s.core.clsbase := rfl
@[simp] theorem State.modSlot_core_rrbase (s : State) (k : SlotId) (f : Slot → Slot) : (s.modSlot k f).core.rrbase = s.core.rrbase := rfl
@[simp] theorem State.modSlot_core_hlbase (s : State) (k : SlotId) (f : Slot → Slot) : (s.modSlot k f).core.hlbase = s.core.hlbase := rfl
@[simp] theorem State.modSlot_core_wdg (s : State) (k : SlotId) (f : Slot → Slot) : (s.modSlot k f).core.wdg = s.core.wdg := rfl
@[simp] theorem State.modSlot_core_pwin (s : State) (k : SlotId) (f : Slot → Slot) : (s.modSlot k f).core.pwin = s.core.pwin := rfl
@[simp] theorem State.modSlot_core_mode (s : State) (k : SlotId) (f : Slot → Slot) : (s.modSlot k f).core.mode = s.core.mode := rfl
@[simp] theorem State.modSlot_core_heldCause (s : State) (k : SlotId) (f : Slot → Slot) : (s.modSlot k f).core.heldCause = s.core.heldCause := rfl
@[simp] theorem State.modSlot_core_rerr (s : State) (k : SlotId) (f : Slot → Slot) : (s.modSlot k f).core.rerr = s.core.rerr := rfl
@[simp] theorem State.modSlot_core_kernel (s : State) (k : SlotId) (f : Slot → Slot) : (s.modSlot k f).core.kernel = s.core.kernel := rfl
@[simp] theorem State.modSlot_core_ran (s : State) (k : SlotId) (f : Slot → Slot) : (s.modSlot k f).core.ran = s.core.ran := rfl
@[simp] theorem State.modSlot_core_ring (s : State) (k : SlotId) (f : Slot → Slot) : (s.modSlot k f).core.ring = s.core.ring := rfl
@[simp] theorem State.modSlot_core_received (s : State) (k : SlotId) (f : Slot → Slot) : (s.modSlot k f).core.received = s.core.received := rfl
@[simp] theorem State.modSlot_core_armed (s : State) (k : SlotId) (f : Slot → Slot) : (s.modSlot k f).core.armed = s.core.armed := rfl
@[simp] theorem State.modSlot_core_farDecs (s : State) (k : SlotId) (f : Slot → Slot) : (s.modSlot k f).core.farDecs = s.core.farDecs := rfl
@[simp] theorem State.modSlot_core_cf (s : State) (k : SlotId) (f : Slot → Slot) : (s.modSlot k f).core.cf = s.core.cf := rfl
@[simp] theorem State.modSlot_core_runs (s : State) (k : SlotId) (f : Slot → Slot) : (s.modSlot k f).core.runs = s.core.runs := rfl
@[simp] theorem State.modSlot_core_localRuns (s : State) (k : SlotId) (f : Slot → Slot) : (s.modSlot k f).core.localRuns = s.core.localRuns := rfl
@[simp] theorem State.modSlot_core_handoff (s : State) (k : SlotId) (f : Slot → Slot) : (s.modSlot k f).core.handoff = s.core.handoff := rfl
@[simp] theorem State.modSlot_core_scrubbing (s : State) (k : SlotId) (f : Slot → Slot) : (s.modSlot k f).core.scrubbing = s.core.scrubbing := rfl
@[simp] theorem State.modSlot_core_ports (s : State) (k : SlotId) (f : Slot → Slot) : (s.modSlot k f).core.ports = s.core.ports := rfl
@[simp] theorem State.modSlot_core_handles (s : State) (k : SlotId) (f : Slot → Slot) : (s.modSlot k f).core.handles = s.core.handles := rfl
@[simp] theorem State.modSlot_core_drillOwner (s : State) (k : SlotId) (f : Slot → Slot) : (s.modSlot k f).core.drillOwner = s.core.drillOwner := rfl
@[simp] theorem State.modSlot_core_vectorHold (s : State) (k : SlotId) (f : Slot → Slot) : (s.modSlot k f).core.vectorHold = s.core.vectorHold := rfl
@[simp] theorem State.modSlot_core_specialHold (s : State) (k : SlotId) (f : Slot → Slot) : (s.modSlot k f).core.specialHold = s.core.specialHold := rfl
@[simp] theorem State.modSlot_core_layouts (s : State) (k : SlotId) (f : Slot → Slot) : (s.modSlot k f).core.layouts = s.core.layouts := rfl
@[simp] theorem State.modSlot_core_outgoing (s : State) (k : SlotId) (f : Slot → Slot) : (s.modSlot k f).core.outgoing = s.core.outgoing := rfl
@[simp] theorem State.modSlot_core_arrived (s : State) (k : SlotId) (f : Slot → Slot) : (s.modSlot k f).core.arrived = s.core.arrived := rfl
@[simp] theorem State.modSlot_core_barriers (s : State) (k : SlotId) (f : Slot → Slot) : (s.modSlot k f).core.barriers = s.core.barriers := rfl
@[simp] theorem State.modSlot_core_forwards (s : State) (k : SlotId) (f : Slot → Slot) : (s.modSlot k f).core.forwards = s.core.forwards := rfl
@[simp] theorem State.modSlot_core_spawned (s : State) (k : SlotId) (f : Slot → Slot) : (s.modSlot k f).core.spawned = s.core.spawned := rfl
@[simp] theorem State.modSlot_core_tlb (s : State) (k : SlotId) (f : Slot → Slot) : (s.modSlot k f).core.tlb = s.core.tlb := rfl
@[simp] theorem State.modSlot_core_soloAsked (s : State) (k : SlotId) (f : Slot → Slot) : (s.modSlot k f).core.soloAsked = s.core.soloAsked := rfl
@[simp] theorem State.modSlot_core_deferred (s : State) (k : SlotId) (f : Slot → Slot) : (s.modSlot k f).core.deferred = s.core.deferred := rfl
@[simp] theorem State.modSlot_core_births (s : State) (k : SlotId) (f : Slot → Slot) : (s.modSlot k f).core.births = s.core.births := rfl
@[simp] theorem State.modSlot_core_pushes (s : State) (k : SlotId) (f : Slot → Slot) : (s.modSlot k f).core.pushes = s.core.pushes := rfl
@[simp] theorem State.modSlot_core_l1 (s : State) (k : SlotId) (f : Slot → Slot) : (s.modSlot k f).core.l1 = s.core.l1 := rfl

@[simp] theorem State.modCtx_core_id (s : State) (k : SlotId) (f : Ctx → Ctx) : (s.modCtx k f).core.id = s.core.id := rfl
@[simp] theorem State.modCtx_core_cur (s : State) (k : SlotId) (f : Ctx → Ctx) : (s.modCtx k f).core.cur = s.core.cur := rfl
@[simp] theorem State.modCtx_core_last (s : State) (k : SlotId) (f : Ctx → Ctx) : (s.modCtx k f).core.last = s.core.last := rfl
@[simp] theorem State.modCtx_core_yielded (s : State) (k : SlotId) (f : Ctx → Ctx) : (s.modCtx k f).core.yielded = s.core.yielded := rfl
@[simp] theorem State.modCtx_core_stalled (s : State) (k : SlotId) (f : Ctx → Ctx) : (s.modCtx k f).core.stalled = s.core.stalled := rfl
@[simp] theorem State.modCtx_core_ipol (s : State) (k : SlotId) (f : Ctx → Ctx) : (s.modCtx k f).core.ipol = s.core.ipol := rfl
@[simp] theorem State.modCtx_core_cyc (s : State) (k : SlotId) (f : Ctx → Ctx) : (s.modCtx k f).core.cyc = s.core.cyc := rfl
@[simp] theorem State.modCtx_core_stg (s : State) (k : SlotId) (f : Ctx → Ctx) : (s.modCtx k f).core.stg = s.core.stg := rfl
@[simp] theorem State.modCtx_core_stgNext (s : State) (k : SlotId) (f : Ctx → Ctx) : (s.modCtx k f).core.stgNext = s.core.stgNext := rfl
@[simp] theorem State.modCtx_core_tenant (s : State) (k : SlotId) (f : Ctx → Ctx) : (s.modCtx k f).core.tenant = s.core.tenant := rfl
@[simp] theorem State.modCtx_core_pkey (s : State) (k : SlotId) (f : Ctx → Ctx) : (s.modCtx k f).core.pkey = s.core.pkey := rfl
@[simp] theorem State.modCtx_core_tmbase (s : State) (k : SlotId) (f : Ctx → Ctx) : (s.modCtx k f).core.tmbase = s.core.tmbase := rfl
@[simp] theorem State.modCtx_core_clsbase (s : State) (k : SlotId) (f : Ctx → Ctx) : (s.modCtx k f).core.clsbase = s.core.clsbase := rfl
@[simp] theorem State.modCtx_core_rrbase (s : State) (k : SlotId) (f : Ctx → Ctx) : (s.modCtx k f).core.rrbase = s.core.rrbase := rfl
@[simp] theorem State.modCtx_core_hlbase (s : State) (k : SlotId) (f : Ctx → Ctx) : (s.modCtx k f).core.hlbase = s.core.hlbase := rfl
@[simp] theorem State.modCtx_core_wdg (s : State) (k : SlotId) (f : Ctx → Ctx) : (s.modCtx k f).core.wdg = s.core.wdg := rfl
@[simp] theorem State.modCtx_core_pwin (s : State) (k : SlotId) (f : Ctx → Ctx) : (s.modCtx k f).core.pwin = s.core.pwin := rfl
@[simp] theorem State.modCtx_core_mode (s : State) (k : SlotId) (f : Ctx → Ctx) : (s.modCtx k f).core.mode = s.core.mode := rfl
@[simp] theorem State.modCtx_core_heldCause (s : State) (k : SlotId) (f : Ctx → Ctx) : (s.modCtx k f).core.heldCause = s.core.heldCause := rfl
@[simp] theorem State.modCtx_core_rerr (s : State) (k : SlotId) (f : Ctx → Ctx) : (s.modCtx k f).core.rerr = s.core.rerr := rfl
@[simp] theorem State.modCtx_core_kernel (s : State) (k : SlotId) (f : Ctx → Ctx) : (s.modCtx k f).core.kernel = s.core.kernel := rfl
@[simp] theorem State.modCtx_core_ran (s : State) (k : SlotId) (f : Ctx → Ctx) : (s.modCtx k f).core.ran = s.core.ran := rfl
@[simp] theorem State.modCtx_core_ring (s : State) (k : SlotId) (f : Ctx → Ctx) : (s.modCtx k f).core.ring = s.core.ring := rfl
@[simp] theorem State.modCtx_core_received (s : State) (k : SlotId) (f : Ctx → Ctx) : (s.modCtx k f).core.received = s.core.received := rfl
@[simp] theorem State.modCtx_core_armed (s : State) (k : SlotId) (f : Ctx → Ctx) : (s.modCtx k f).core.armed = s.core.armed := rfl
@[simp] theorem State.modCtx_core_farDecs (s : State) (k : SlotId) (f : Ctx → Ctx) : (s.modCtx k f).core.farDecs = s.core.farDecs := rfl
@[simp] theorem State.modCtx_core_cf (s : State) (k : SlotId) (f : Ctx → Ctx) : (s.modCtx k f).core.cf = s.core.cf := rfl
@[simp] theorem State.modCtx_core_runs (s : State) (k : SlotId) (f : Ctx → Ctx) : (s.modCtx k f).core.runs = s.core.runs := rfl
@[simp] theorem State.modCtx_core_localRuns (s : State) (k : SlotId) (f : Ctx → Ctx) : (s.modCtx k f).core.localRuns = s.core.localRuns := rfl
@[simp] theorem State.modCtx_core_handoff (s : State) (k : SlotId) (f : Ctx → Ctx) : (s.modCtx k f).core.handoff = s.core.handoff := rfl
@[simp] theorem State.modCtx_core_scrubbing (s : State) (k : SlotId) (f : Ctx → Ctx) : (s.modCtx k f).core.scrubbing = s.core.scrubbing := rfl
@[simp] theorem State.modCtx_core_ports (s : State) (k : SlotId) (f : Ctx → Ctx) : (s.modCtx k f).core.ports = s.core.ports := rfl
@[simp] theorem State.modCtx_core_handles (s : State) (k : SlotId) (f : Ctx → Ctx) : (s.modCtx k f).core.handles = s.core.handles := rfl
@[simp] theorem State.modCtx_core_drillOwner (s : State) (k : SlotId) (f : Ctx → Ctx) : (s.modCtx k f).core.drillOwner = s.core.drillOwner := rfl
@[simp] theorem State.modCtx_core_vectorHold (s : State) (k : SlotId) (f : Ctx → Ctx) : (s.modCtx k f).core.vectorHold = s.core.vectorHold := rfl
@[simp] theorem State.modCtx_core_specialHold (s : State) (k : SlotId) (f : Ctx → Ctx) : (s.modCtx k f).core.specialHold = s.core.specialHold := rfl
@[simp] theorem State.modCtx_core_layouts (s : State) (k : SlotId) (f : Ctx → Ctx) : (s.modCtx k f).core.layouts = s.core.layouts := rfl
@[simp] theorem State.modCtx_core_outgoing (s : State) (k : SlotId) (f : Ctx → Ctx) : (s.modCtx k f).core.outgoing = s.core.outgoing := rfl
@[simp] theorem State.modCtx_core_arrived (s : State) (k : SlotId) (f : Ctx → Ctx) : (s.modCtx k f).core.arrived = s.core.arrived := rfl
@[simp] theorem State.modCtx_core_barriers (s : State) (k : SlotId) (f : Ctx → Ctx) : (s.modCtx k f).core.barriers = s.core.barriers := rfl
@[simp] theorem State.modCtx_core_forwards (s : State) (k : SlotId) (f : Ctx → Ctx) : (s.modCtx k f).core.forwards = s.core.forwards := rfl
@[simp] theorem State.modCtx_core_spawned (s : State) (k : SlotId) (f : Ctx → Ctx) : (s.modCtx k f).core.spawned = s.core.spawned := rfl
@[simp] theorem State.modCtx_core_tlb (s : State) (k : SlotId) (f : Ctx → Ctx) : (s.modCtx k f).core.tlb = s.core.tlb := rfl
@[simp] theorem State.modCtx_core_soloAsked (s : State) (k : SlotId) (f : Ctx → Ctx) : (s.modCtx k f).core.soloAsked = s.core.soloAsked := rfl
@[simp] theorem State.modCtx_core_deferred (s : State) (k : SlotId) (f : Ctx → Ctx) : (s.modCtx k f).core.deferred = s.core.deferred := rfl
@[simp] theorem State.modCtx_core_births (s : State) (k : SlotId) (f : Ctx → Ctx) : (s.modCtx k f).core.births = s.core.births := rfl
@[simp] theorem State.modCtx_core_pushes (s : State) (k : SlotId) (f : Ctx → Ctx) : (s.modCtx k f).core.pushes = s.core.pushes := rfl
@[simp] theorem State.modCtx_core_l1 (s : State) (k : SlotId) (f : Ctx → Ctx) : (s.modCtx k f).core.l1 = s.core.l1 := rfl

@[simp] theorem State.modSheaf_core_id (s : State) (k : SlotId) (f : Sheaf → Sheaf) : (s.modSheaf k f).core.id = s.core.id := rfl
@[simp] theorem State.modSheaf_core_cur (s : State) (k : SlotId) (f : Sheaf → Sheaf) : (s.modSheaf k f).core.cur = s.core.cur := rfl
@[simp] theorem State.modSheaf_core_last (s : State) (k : SlotId) (f : Sheaf → Sheaf) : (s.modSheaf k f).core.last = s.core.last := rfl
@[simp] theorem State.modSheaf_core_yielded (s : State) (k : SlotId) (f : Sheaf → Sheaf) : (s.modSheaf k f).core.yielded = s.core.yielded := rfl
@[simp] theorem State.modSheaf_core_stalled (s : State) (k : SlotId) (f : Sheaf → Sheaf) : (s.modSheaf k f).core.stalled = s.core.stalled := rfl
@[simp] theorem State.modSheaf_core_ipol (s : State) (k : SlotId) (f : Sheaf → Sheaf) : (s.modSheaf k f).core.ipol = s.core.ipol := rfl
@[simp] theorem State.modSheaf_core_cyc (s : State) (k : SlotId) (f : Sheaf → Sheaf) : (s.modSheaf k f).core.cyc = s.core.cyc := rfl
@[simp] theorem State.modSheaf_core_stg (s : State) (k : SlotId) (f : Sheaf → Sheaf) : (s.modSheaf k f).core.stg = s.core.stg := rfl
@[simp] theorem State.modSheaf_core_stgNext (s : State) (k : SlotId) (f : Sheaf → Sheaf) : (s.modSheaf k f).core.stgNext = s.core.stgNext := rfl
@[simp] theorem State.modSheaf_core_tenant (s : State) (k : SlotId) (f : Sheaf → Sheaf) : (s.modSheaf k f).core.tenant = s.core.tenant := rfl
@[simp] theorem State.modSheaf_core_pkey (s : State) (k : SlotId) (f : Sheaf → Sheaf) : (s.modSheaf k f).core.pkey = s.core.pkey := rfl
@[simp] theorem State.modSheaf_core_tmbase (s : State) (k : SlotId) (f : Sheaf → Sheaf) : (s.modSheaf k f).core.tmbase = s.core.tmbase := rfl
@[simp] theorem State.modSheaf_core_clsbase (s : State) (k : SlotId) (f : Sheaf → Sheaf) : (s.modSheaf k f).core.clsbase = s.core.clsbase := rfl
@[simp] theorem State.modSheaf_core_rrbase (s : State) (k : SlotId) (f : Sheaf → Sheaf) : (s.modSheaf k f).core.rrbase = s.core.rrbase := rfl
@[simp] theorem State.modSheaf_core_hlbase (s : State) (k : SlotId) (f : Sheaf → Sheaf) : (s.modSheaf k f).core.hlbase = s.core.hlbase := rfl
@[simp] theorem State.modSheaf_core_wdg (s : State) (k : SlotId) (f : Sheaf → Sheaf) : (s.modSheaf k f).core.wdg = s.core.wdg := rfl
@[simp] theorem State.modSheaf_core_pwin (s : State) (k : SlotId) (f : Sheaf → Sheaf) : (s.modSheaf k f).core.pwin = s.core.pwin := rfl
@[simp] theorem State.modSheaf_core_mode (s : State) (k : SlotId) (f : Sheaf → Sheaf) : (s.modSheaf k f).core.mode = s.core.mode := rfl
@[simp] theorem State.modSheaf_core_heldCause (s : State) (k : SlotId) (f : Sheaf → Sheaf) : (s.modSheaf k f).core.heldCause = s.core.heldCause := rfl
@[simp] theorem State.modSheaf_core_rerr (s : State) (k : SlotId) (f : Sheaf → Sheaf) : (s.modSheaf k f).core.rerr = s.core.rerr := rfl
@[simp] theorem State.modSheaf_core_kernel (s : State) (k : SlotId) (f : Sheaf → Sheaf) : (s.modSheaf k f).core.kernel = s.core.kernel := rfl
@[simp] theorem State.modSheaf_core_ran (s : State) (k : SlotId) (f : Sheaf → Sheaf) : (s.modSheaf k f).core.ran = s.core.ran := rfl
@[simp] theorem State.modSheaf_core_ring (s : State) (k : SlotId) (f : Sheaf → Sheaf) : (s.modSheaf k f).core.ring = s.core.ring := rfl
@[simp] theorem State.modSheaf_core_received (s : State) (k : SlotId) (f : Sheaf → Sheaf) : (s.modSheaf k f).core.received = s.core.received := rfl
@[simp] theorem State.modSheaf_core_armed (s : State) (k : SlotId) (f : Sheaf → Sheaf) : (s.modSheaf k f).core.armed = s.core.armed := rfl
@[simp] theorem State.modSheaf_core_farDecs (s : State) (k : SlotId) (f : Sheaf → Sheaf) : (s.modSheaf k f).core.farDecs = s.core.farDecs := rfl
@[simp] theorem State.modSheaf_core_cf (s : State) (k : SlotId) (f : Sheaf → Sheaf) : (s.modSheaf k f).core.cf = s.core.cf := rfl
@[simp] theorem State.modSheaf_core_runs (s : State) (k : SlotId) (f : Sheaf → Sheaf) : (s.modSheaf k f).core.runs = s.core.runs := rfl
@[simp] theorem State.modSheaf_core_localRuns (s : State) (k : SlotId) (f : Sheaf → Sheaf) : (s.modSheaf k f).core.localRuns = s.core.localRuns := rfl
@[simp] theorem State.modSheaf_core_handoff (s : State) (k : SlotId) (f : Sheaf → Sheaf) : (s.modSheaf k f).core.handoff = s.core.handoff := rfl
@[simp] theorem State.modSheaf_core_scrubbing (s : State) (k : SlotId) (f : Sheaf → Sheaf) : (s.modSheaf k f).core.scrubbing = s.core.scrubbing := rfl
@[simp] theorem State.modSheaf_core_ports (s : State) (k : SlotId) (f : Sheaf → Sheaf) : (s.modSheaf k f).core.ports = s.core.ports := rfl
@[simp] theorem State.modSheaf_core_handles (s : State) (k : SlotId) (f : Sheaf → Sheaf) : (s.modSheaf k f).core.handles = s.core.handles := rfl
@[simp] theorem State.modSheaf_core_drillOwner (s : State) (k : SlotId) (f : Sheaf → Sheaf) : (s.modSheaf k f).core.drillOwner = s.core.drillOwner := rfl
@[simp] theorem State.modSheaf_core_vectorHold (s : State) (k : SlotId) (f : Sheaf → Sheaf) : (s.modSheaf k f).core.vectorHold = s.core.vectorHold := rfl
@[simp] theorem State.modSheaf_core_specialHold (s : State) (k : SlotId) (f : Sheaf → Sheaf) : (s.modSheaf k f).core.specialHold = s.core.specialHold := rfl
@[simp] theorem State.modSheaf_core_layouts (s : State) (k : SlotId) (f : Sheaf → Sheaf) : (s.modSheaf k f).core.layouts = s.core.layouts := rfl
@[simp] theorem State.modSheaf_core_outgoing (s : State) (k : SlotId) (f : Sheaf → Sheaf) : (s.modSheaf k f).core.outgoing = s.core.outgoing := rfl
@[simp] theorem State.modSheaf_core_arrived (s : State) (k : SlotId) (f : Sheaf → Sheaf) : (s.modSheaf k f).core.arrived = s.core.arrived := rfl
@[simp] theorem State.modSheaf_core_barriers (s : State) (k : SlotId) (f : Sheaf → Sheaf) : (s.modSheaf k f).core.barriers = s.core.barriers := rfl
@[simp] theorem State.modSheaf_core_forwards (s : State) (k : SlotId) (f : Sheaf → Sheaf) : (s.modSheaf k f).core.forwards = s.core.forwards := rfl
@[simp] theorem State.modSheaf_core_spawned (s : State) (k : SlotId) (f : Sheaf → Sheaf) : (s.modSheaf k f).core.spawned = s.core.spawned := rfl
@[simp] theorem State.modSheaf_core_tlb (s : State) (k : SlotId) (f : Sheaf → Sheaf) : (s.modSheaf k f).core.tlb = s.core.tlb := rfl
@[simp] theorem State.modSheaf_core_soloAsked (s : State) (k : SlotId) (f : Sheaf → Sheaf) : (s.modSheaf k f).core.soloAsked = s.core.soloAsked := rfl
@[simp] theorem State.modSheaf_core_deferred (s : State) (k : SlotId) (f : Sheaf → Sheaf) : (s.modSheaf k f).core.deferred = s.core.deferred := rfl
@[simp] theorem State.modSheaf_core_births (s : State) (k : SlotId) (f : Sheaf → Sheaf) : (s.modSheaf k f).core.births = s.core.births := rfl
@[simp] theorem State.modSheaf_core_pushes (s : State) (k : SlotId) (f : Sheaf → Sheaf) : (s.modSheaf k f).core.pushes = s.core.pushes := rfl
@[simp] theorem State.modSheaf_core_l1 (s : State) (k : SlotId) (f : Sheaf → Sheaf) : (s.modSheaf k f).core.l1 = s.core.l1 := rfl

@[simp] theorem State.setBubble_core_id (s : State) (k : SlotId) : (s.setBubble k).core.id = s.core.id := rfl
@[simp] theorem State.setBubble_core_cur (s : State) (k : SlotId) : (s.setBubble k).core.cur = s.core.cur := rfl
@[simp] theorem State.setBubble_core_last (s : State) (k : SlotId) : (s.setBubble k).core.last = s.core.last := rfl
@[simp] theorem State.setBubble_core_yielded (s : State) (k : SlotId) : (s.setBubble k).core.yielded = s.core.yielded := rfl
@[simp] theorem State.setBubble_core_stalled (s : State) (k : SlotId) : (s.setBubble k).core.stalled = s.core.stalled := rfl
@[simp] theorem State.setBubble_core_ipol (s : State) (k : SlotId) : (s.setBubble k).core.ipol = s.core.ipol := rfl
@[simp] theorem State.setBubble_core_cyc (s : State) (k : SlotId) : (s.setBubble k).core.cyc = s.core.cyc := rfl
@[simp] theorem State.setBubble_core_stg (s : State) (k : SlotId) : (s.setBubble k).core.stg = s.core.stg := rfl
@[simp] theorem State.setBubble_core_stgNext (s : State) (k : SlotId) : (s.setBubble k).core.stgNext = s.core.stgNext := rfl
@[simp] theorem State.setBubble_core_tenant (s : State) (k : SlotId) : (s.setBubble k).core.tenant = s.core.tenant := rfl
@[simp] theorem State.setBubble_core_pkey (s : State) (k : SlotId) : (s.setBubble k).core.pkey = s.core.pkey := rfl
@[simp] theorem State.setBubble_core_tmbase (s : State) (k : SlotId) : (s.setBubble k).core.tmbase = s.core.tmbase := rfl
@[simp] theorem State.setBubble_core_clsbase (s : State) (k : SlotId) : (s.setBubble k).core.clsbase = s.core.clsbase := rfl
@[simp] theorem State.setBubble_core_rrbase (s : State) (k : SlotId) : (s.setBubble k).core.rrbase = s.core.rrbase := rfl
@[simp] theorem State.setBubble_core_hlbase (s : State) (k : SlotId) : (s.setBubble k).core.hlbase = s.core.hlbase := rfl
@[simp] theorem State.setBubble_core_wdg (s : State) (k : SlotId) : (s.setBubble k).core.wdg = s.core.wdg := rfl
@[simp] theorem State.setBubble_core_pwin (s : State) (k : SlotId) : (s.setBubble k).core.pwin = s.core.pwin := rfl
@[simp] theorem State.setBubble_core_mode (s : State) (k : SlotId) : (s.setBubble k).core.mode = s.core.mode := rfl
@[simp] theorem State.setBubble_core_heldCause (s : State) (k : SlotId) : (s.setBubble k).core.heldCause = s.core.heldCause := rfl
@[simp] theorem State.setBubble_core_rerr (s : State) (k : SlotId) : (s.setBubble k).core.rerr = s.core.rerr := rfl
@[simp] theorem State.setBubble_core_kernel (s : State) (k : SlotId) : (s.setBubble k).core.kernel = s.core.kernel := rfl
@[simp] theorem State.setBubble_core_ran (s : State) (k : SlotId) : (s.setBubble k).core.ran = s.core.ran := rfl
@[simp] theorem State.setBubble_core_ring (s : State) (k : SlotId) : (s.setBubble k).core.ring = s.core.ring := rfl
@[simp] theorem State.setBubble_core_received (s : State) (k : SlotId) : (s.setBubble k).core.received = s.core.received := rfl
@[simp] theorem State.setBubble_core_armed (s : State) (k : SlotId) : (s.setBubble k).core.armed = s.core.armed := rfl
@[simp] theorem State.setBubble_core_farDecs (s : State) (k : SlotId) : (s.setBubble k).core.farDecs = s.core.farDecs := rfl
@[simp] theorem State.setBubble_core_cf (s : State) (k : SlotId) : (s.setBubble k).core.cf = s.core.cf := rfl
@[simp] theorem State.setBubble_core_runs (s : State) (k : SlotId) : (s.setBubble k).core.runs = s.core.runs := rfl
@[simp] theorem State.setBubble_core_localRuns (s : State) (k : SlotId) : (s.setBubble k).core.localRuns = s.core.localRuns := rfl
@[simp] theorem State.setBubble_core_handoff (s : State) (k : SlotId) : (s.setBubble k).core.handoff = s.core.handoff := rfl
@[simp] theorem State.setBubble_core_scrubbing (s : State) (k : SlotId) : (s.setBubble k).core.scrubbing = s.core.scrubbing := rfl
@[simp] theorem State.setBubble_core_ports (s : State) (k : SlotId) : (s.setBubble k).core.ports = s.core.ports := rfl
@[simp] theorem State.setBubble_core_handles (s : State) (k : SlotId) : (s.setBubble k).core.handles = s.core.handles := rfl
@[simp] theorem State.setBubble_core_drillOwner (s : State) (k : SlotId) : (s.setBubble k).core.drillOwner = s.core.drillOwner := rfl
@[simp] theorem State.setBubble_core_vectorHold (s : State) (k : SlotId) : (s.setBubble k).core.vectorHold = s.core.vectorHold := rfl
@[simp] theorem State.setBubble_core_specialHold (s : State) (k : SlotId) : (s.setBubble k).core.specialHold = s.core.specialHold := rfl
@[simp] theorem State.setBubble_core_layouts (s : State) (k : SlotId) : (s.setBubble k).core.layouts = s.core.layouts := rfl
@[simp] theorem State.setBubble_core_outgoing (s : State) (k : SlotId) : (s.setBubble k).core.outgoing = s.core.outgoing := rfl
@[simp] theorem State.setBubble_core_arrived (s : State) (k : SlotId) : (s.setBubble k).core.arrived = s.core.arrived := rfl
@[simp] theorem State.setBubble_core_barriers (s : State) (k : SlotId) : (s.setBubble k).core.barriers = s.core.barriers := rfl
@[simp] theorem State.setBubble_core_forwards (s : State) (k : SlotId) : (s.setBubble k).core.forwards = s.core.forwards := rfl
@[simp] theorem State.setBubble_core_spawned (s : State) (k : SlotId) : (s.setBubble k).core.spawned = s.core.spawned := rfl
@[simp] theorem State.setBubble_core_tlb (s : State) (k : SlotId) : (s.setBubble k).core.tlb = s.core.tlb := rfl
@[simp] theorem State.setBubble_core_soloAsked (s : State) (k : SlotId) : (s.setBubble k).core.soloAsked = s.core.soloAsked := rfl
@[simp] theorem State.setBubble_core_deferred (s : State) (k : SlotId) : (s.setBubble k).core.deferred = s.core.deferred := rfl
@[simp] theorem State.setBubble_core_births (s : State) (k : SlotId) : (s.setBubble k).core.births = s.core.births := rfl
@[simp] theorem State.setBubble_core_pushes (s : State) (k : SlotId) : (s.setBubble k).core.pushes = s.core.pushes := rfl
@[simp] theorem State.setBubble_core_l1 (s : State) (k : SlotId) : (s.setBubble k).core.l1 = s.core.l1 := rfl

@[simp] theorem State.setPort_core_id (s : State) (p : Fin 8) (x : Port) : (s.setPort p x).core.id = s.core.id := rfl
@[simp] theorem State.setPort_core_slots (s : State) (p : Fin 8) (x : Port) : (s.setPort p x).core.slots = s.core.slots := rfl
@[simp] theorem State.setPort_core_cur (s : State) (p : Fin 8) (x : Port) : (s.setPort p x).core.cur = s.core.cur := rfl
@[simp] theorem State.setPort_core_last (s : State) (p : Fin 8) (x : Port) : (s.setPort p x).core.last = s.core.last := rfl
@[simp] theorem State.setPort_core_yielded (s : State) (p : Fin 8) (x : Port) : (s.setPort p x).core.yielded = s.core.yielded := rfl
@[simp] theorem State.setPort_core_stalled (s : State) (p : Fin 8) (x : Port) : (s.setPort p x).core.stalled = s.core.stalled := rfl
@[simp] theorem State.setPort_core_ipol (s : State) (p : Fin 8) (x : Port) : (s.setPort p x).core.ipol = s.core.ipol := rfl
@[simp] theorem State.setPort_core_cyc (s : State) (p : Fin 8) (x : Port) : (s.setPort p x).core.cyc = s.core.cyc := rfl
@[simp] theorem State.setPort_core_stg (s : State) (p : Fin 8) (x : Port) : (s.setPort p x).core.stg = s.core.stg := rfl
@[simp] theorem State.setPort_core_stgNext (s : State) (p : Fin 8) (x : Port) : (s.setPort p x).core.stgNext = s.core.stgNext := rfl
@[simp] theorem State.setPort_core_tenant (s : State) (p : Fin 8) (x : Port) : (s.setPort p x).core.tenant = s.core.tenant := rfl
@[simp] theorem State.setPort_core_pkey (s : State) (p : Fin 8) (x : Port) : (s.setPort p x).core.pkey = s.core.pkey := rfl
@[simp] theorem State.setPort_core_tmbase (s : State) (p : Fin 8) (x : Port) : (s.setPort p x).core.tmbase = s.core.tmbase := rfl
@[simp] theorem State.setPort_core_clsbase (s : State) (p : Fin 8) (x : Port) : (s.setPort p x).core.clsbase = s.core.clsbase := rfl
@[simp] theorem State.setPort_core_rrbase (s : State) (p : Fin 8) (x : Port) : (s.setPort p x).core.rrbase = s.core.rrbase := rfl
@[simp] theorem State.setPort_core_hlbase (s : State) (p : Fin 8) (x : Port) : (s.setPort p x).core.hlbase = s.core.hlbase := rfl
@[simp] theorem State.setPort_core_wdg (s : State) (p : Fin 8) (x : Port) : (s.setPort p x).core.wdg = s.core.wdg := rfl
@[simp] theorem State.setPort_core_pwin (s : State) (p : Fin 8) (x : Port) : (s.setPort p x).core.pwin = s.core.pwin := rfl
@[simp] theorem State.setPort_core_mode (s : State) (p : Fin 8) (x : Port) : (s.setPort p x).core.mode = s.core.mode := rfl
@[simp] theorem State.setPort_core_heldCause (s : State) (p : Fin 8) (x : Port) : (s.setPort p x).core.heldCause = s.core.heldCause := rfl
@[simp] theorem State.setPort_core_rerr (s : State) (p : Fin 8) (x : Port) : (s.setPort p x).core.rerr = s.core.rerr := rfl
@[simp] theorem State.setPort_core_kernel (s : State) (p : Fin 8) (x : Port) : (s.setPort p x).core.kernel = s.core.kernel := rfl
@[simp] theorem State.setPort_core_ran (s : State) (p : Fin 8) (x : Port) : (s.setPort p x).core.ran = s.core.ran := rfl
@[simp] theorem State.setPort_core_ring (s : State) (p : Fin 8) (x : Port) : (s.setPort p x).core.ring = s.core.ring := rfl
@[simp] theorem State.setPort_core_received (s : State) (p : Fin 8) (x : Port) : (s.setPort p x).core.received = s.core.received := rfl
@[simp] theorem State.setPort_core_armed (s : State) (p : Fin 8) (x : Port) : (s.setPort p x).core.armed = s.core.armed := rfl
@[simp] theorem State.setPort_core_farDecs (s : State) (p : Fin 8) (x : Port) : (s.setPort p x).core.farDecs = s.core.farDecs := rfl
@[simp] theorem State.setPort_core_cf (s : State) (p : Fin 8) (x : Port) : (s.setPort p x).core.cf = s.core.cf := rfl
@[simp] theorem State.setPort_core_runs (s : State) (p : Fin 8) (x : Port) : (s.setPort p x).core.runs = s.core.runs := rfl
@[simp] theorem State.setPort_core_localRuns (s : State) (p : Fin 8) (x : Port) : (s.setPort p x).core.localRuns = s.core.localRuns := rfl
@[simp] theorem State.setPort_core_handoff (s : State) (p : Fin 8) (x : Port) : (s.setPort p x).core.handoff = s.core.handoff := rfl
@[simp] theorem State.setPort_core_scrubbing (s : State) (p : Fin 8) (x : Port) : (s.setPort p x).core.scrubbing = s.core.scrubbing := rfl
@[simp] theorem State.setPort_core_handles (s : State) (p : Fin 8) (x : Port) : (s.setPort p x).core.handles = s.core.handles := rfl
@[simp] theorem State.setPort_core_drillOwner (s : State) (p : Fin 8) (x : Port) : (s.setPort p x).core.drillOwner = s.core.drillOwner := rfl
@[simp] theorem State.setPort_core_vectorHold (s : State) (p : Fin 8) (x : Port) : (s.setPort p x).core.vectorHold = s.core.vectorHold := rfl
@[simp] theorem State.setPort_core_specialHold (s : State) (p : Fin 8) (x : Port) : (s.setPort p x).core.specialHold = s.core.specialHold := rfl
@[simp] theorem State.setPort_core_layouts (s : State) (p : Fin 8) (x : Port) : (s.setPort p x).core.layouts = s.core.layouts := rfl
@[simp] theorem State.setPort_core_outgoing (s : State) (p : Fin 8) (x : Port) : (s.setPort p x).core.outgoing = s.core.outgoing := rfl
@[simp] theorem State.setPort_core_arrived (s : State) (p : Fin 8) (x : Port) : (s.setPort p x).core.arrived = s.core.arrived := rfl
@[simp] theorem State.setPort_core_barriers (s : State) (p : Fin 8) (x : Port) : (s.setPort p x).core.barriers = s.core.barriers := rfl
@[simp] theorem State.setPort_core_forwards (s : State) (p : Fin 8) (x : Port) : (s.setPort p x).core.forwards = s.core.forwards := rfl
@[simp] theorem State.setPort_core_spawned (s : State) (p : Fin 8) (x : Port) : (s.setPort p x).core.spawned = s.core.spawned := rfl
@[simp] theorem State.setPort_core_tlb (s : State) (p : Fin 8) (x : Port) : (s.setPort p x).core.tlb = s.core.tlb := rfl
@[simp] theorem State.setPort_core_soloAsked (s : State) (p : Fin 8) (x : Port) : (s.setPort p x).core.soloAsked = s.core.soloAsked := rfl
@[simp] theorem State.setPort_core_deferred (s : State) (p : Fin 8) (x : Port) : (s.setPort p x).core.deferred = s.core.deferred := rfl
@[simp] theorem State.setPort_core_births (s : State) (p : Fin 8) (x : Port) : (s.setPort p x).core.births = s.core.births := rfl
@[simp] theorem State.setPort_core_pushes (s : State) (p : Fin 8) (x : Port) : (s.setPort p x).core.pushes = s.core.pushes := rfl
@[simp] theorem State.setPort_core_l1 (s : State) (p : Fin 8) (x : Port) : (s.setPort p x).core.l1 = s.core.l1 := rfl

@[simp] theorem State.setHandle_core_id (s : State) (h : Fin 16) (x : Handle) : (s.setHandle h x).core.id = s.core.id := rfl
@[simp] theorem State.setHandle_core_slots (s : State) (h : Fin 16) (x : Handle) : (s.setHandle h x).core.slots = s.core.slots := rfl
@[simp] theorem State.setHandle_core_cur (s : State) (h : Fin 16) (x : Handle) : (s.setHandle h x).core.cur = s.core.cur := rfl
@[simp] theorem State.setHandle_core_last (s : State) (h : Fin 16) (x : Handle) : (s.setHandle h x).core.last = s.core.last := rfl
@[simp] theorem State.setHandle_core_yielded (s : State) (h : Fin 16) (x : Handle) : (s.setHandle h x).core.yielded = s.core.yielded := rfl
@[simp] theorem State.setHandle_core_stalled (s : State) (h : Fin 16) (x : Handle) : (s.setHandle h x).core.stalled = s.core.stalled := rfl
@[simp] theorem State.setHandle_core_ipol (s : State) (h : Fin 16) (x : Handle) : (s.setHandle h x).core.ipol = s.core.ipol := rfl
@[simp] theorem State.setHandle_core_cyc (s : State) (h : Fin 16) (x : Handle) : (s.setHandle h x).core.cyc = s.core.cyc := rfl
@[simp] theorem State.setHandle_core_stg (s : State) (h : Fin 16) (x : Handle) : (s.setHandle h x).core.stg = s.core.stg := rfl
@[simp] theorem State.setHandle_core_stgNext (s : State) (h : Fin 16) (x : Handle) : (s.setHandle h x).core.stgNext = s.core.stgNext := rfl
@[simp] theorem State.setHandle_core_tenant (s : State) (h : Fin 16) (x : Handle) : (s.setHandle h x).core.tenant = s.core.tenant := rfl
@[simp] theorem State.setHandle_core_pkey (s : State) (h : Fin 16) (x : Handle) : (s.setHandle h x).core.pkey = s.core.pkey := rfl
@[simp] theorem State.setHandle_core_tmbase (s : State) (h : Fin 16) (x : Handle) : (s.setHandle h x).core.tmbase = s.core.tmbase := rfl
@[simp] theorem State.setHandle_core_clsbase (s : State) (h : Fin 16) (x : Handle) : (s.setHandle h x).core.clsbase = s.core.clsbase := rfl
@[simp] theorem State.setHandle_core_rrbase (s : State) (h : Fin 16) (x : Handle) : (s.setHandle h x).core.rrbase = s.core.rrbase := rfl
@[simp] theorem State.setHandle_core_hlbase (s : State) (h : Fin 16) (x : Handle) : (s.setHandle h x).core.hlbase = s.core.hlbase := rfl
@[simp] theorem State.setHandle_core_wdg (s : State) (h : Fin 16) (x : Handle) : (s.setHandle h x).core.wdg = s.core.wdg := rfl
@[simp] theorem State.setHandle_core_pwin (s : State) (h : Fin 16) (x : Handle) : (s.setHandle h x).core.pwin = s.core.pwin := rfl
@[simp] theorem State.setHandle_core_mode (s : State) (h : Fin 16) (x : Handle) : (s.setHandle h x).core.mode = s.core.mode := rfl
@[simp] theorem State.setHandle_core_heldCause (s : State) (h : Fin 16) (x : Handle) : (s.setHandle h x).core.heldCause = s.core.heldCause := rfl
@[simp] theorem State.setHandle_core_rerr (s : State) (h : Fin 16) (x : Handle) : (s.setHandle h x).core.rerr = s.core.rerr := rfl
@[simp] theorem State.setHandle_core_kernel (s : State) (h : Fin 16) (x : Handle) : (s.setHandle h x).core.kernel = s.core.kernel := rfl
@[simp] theorem State.setHandle_core_ran (s : State) (h : Fin 16) (x : Handle) : (s.setHandle h x).core.ran = s.core.ran := rfl
@[simp] theorem State.setHandle_core_ring (s : State) (h : Fin 16) (x : Handle) : (s.setHandle h x).core.ring = s.core.ring := rfl
@[simp] theorem State.setHandle_core_received (s : State) (h : Fin 16) (x : Handle) : (s.setHandle h x).core.received = s.core.received := rfl
@[simp] theorem State.setHandle_core_armed (s : State) (h : Fin 16) (x : Handle) : (s.setHandle h x).core.armed = s.core.armed := rfl
@[simp] theorem State.setHandle_core_farDecs (s : State) (h : Fin 16) (x : Handle) : (s.setHandle h x).core.farDecs = s.core.farDecs := rfl
@[simp] theorem State.setHandle_core_cf (s : State) (h : Fin 16) (x : Handle) : (s.setHandle h x).core.cf = s.core.cf := rfl
@[simp] theorem State.setHandle_core_runs (s : State) (h : Fin 16) (x : Handle) : (s.setHandle h x).core.runs = s.core.runs := rfl
@[simp] theorem State.setHandle_core_localRuns (s : State) (h : Fin 16) (x : Handle) : (s.setHandle h x).core.localRuns = s.core.localRuns := rfl
@[simp] theorem State.setHandle_core_handoff (s : State) (h : Fin 16) (x : Handle) : (s.setHandle h x).core.handoff = s.core.handoff := rfl
@[simp] theorem State.setHandle_core_scrubbing (s : State) (h : Fin 16) (x : Handle) : (s.setHandle h x).core.scrubbing = s.core.scrubbing := rfl
@[simp] theorem State.setHandle_core_ports (s : State) (h : Fin 16) (x : Handle) : (s.setHandle h x).core.ports = s.core.ports := rfl
@[simp] theorem State.setHandle_core_drillOwner (s : State) (h : Fin 16) (x : Handle) : (s.setHandle h x).core.drillOwner = s.core.drillOwner := rfl
@[simp] theorem State.setHandle_core_vectorHold (s : State) (h : Fin 16) (x : Handle) : (s.setHandle h x).core.vectorHold = s.core.vectorHold := rfl
@[simp] theorem State.setHandle_core_specialHold (s : State) (h : Fin 16) (x : Handle) : (s.setHandle h x).core.specialHold = s.core.specialHold := rfl
@[simp] theorem State.setHandle_core_layouts (s : State) (h : Fin 16) (x : Handle) : (s.setHandle h x).core.layouts = s.core.layouts := rfl
@[simp] theorem State.setHandle_core_outgoing (s : State) (h : Fin 16) (x : Handle) : (s.setHandle h x).core.outgoing = s.core.outgoing := rfl
@[simp] theorem State.setHandle_core_arrived (s : State) (h : Fin 16) (x : Handle) : (s.setHandle h x).core.arrived = s.core.arrived := rfl
@[simp] theorem State.setHandle_core_barriers (s : State) (h : Fin 16) (x : Handle) : (s.setHandle h x).core.barriers = s.core.barriers := rfl
@[simp] theorem State.setHandle_core_forwards (s : State) (h : Fin 16) (x : Handle) : (s.setHandle h x).core.forwards = s.core.forwards := rfl
@[simp] theorem State.setHandle_core_spawned (s : State) (h : Fin 16) (x : Handle) : (s.setHandle h x).core.spawned = s.core.spawned := rfl
@[simp] theorem State.setHandle_core_tlb (s : State) (h : Fin 16) (x : Handle) : (s.setHandle h x).core.tlb = s.core.tlb := rfl
@[simp] theorem State.setHandle_core_soloAsked (s : State) (h : Fin 16) (x : Handle) : (s.setHandle h x).core.soloAsked = s.core.soloAsked := rfl
@[simp] theorem State.setHandle_core_deferred (s : State) (h : Fin 16) (x : Handle) : (s.setHandle h x).core.deferred = s.core.deferred := rfl
@[simp] theorem State.setHandle_core_births (s : State) (h : Fin 16) (x : Handle) : (s.setHandle h x).core.births = s.core.births := rfl
@[simp] theorem State.setHandle_core_pushes (s : State) (h : Fin 16) (x : Handle) : (s.setHandle h x).core.pushes = s.core.pushes := rfl
@[simp] theorem State.setHandle_core_l1 (s : State) (h : Fin 16) (x : Handle) : (s.setHandle h x).core.l1 = s.core.l1 := rfl

/-! ### Reading what was written -/

theorem vector_get_set_self {α : Type} {n : Nat} (v : Vector α n) (k : Fin n) (x : α) :
    (v.set k.val x k.isLt).get k = x := by simp [Vector.get_eq_getElem]

theorem vector_get_set_ne {α : Type} {n : Nat} (v : Vector α n) {j k : Fin n} (h : j ≠ k) (x : α) :
    (v.set k.val x k.isLt).get j = v.get j := by
  simp only [Vector.get_eq_getElem]
  exact Vector.getElem_set_ne k.isLt j.isLt fun e => h (Fin.ext e.symm)

@[simp] theorem State.slot_setSlot_self (s : State) (k : SlotId) (x : Slot) : (s.setSlot k x).slot k = x :=
   vector_get_set_self s.core.slots k x

theorem State.slot_setSlot_ne (s : State) {j k : SlotId} (h : j ≠ k) (x : Slot) :
    (s.setSlot k x).slot j = s.slot j := vector_get_set_ne s.core.slots h x

@[simp] theorem State.slot_modSlot_self (s : State) (k : SlotId) (f : Slot → Slot) :
    (s.modSlot k f).slot k = f (s.slot k) := by simp [State.modSlot]

theorem State.slot_modSlot_ne (s : State) {j k : SlotId} (h : j ≠ k) (f : Slot → Slot) :
    (s.modSlot k f).slot j = s.slot j := by simp [State.modSlot, State.slot_setSlot_ne s h]

@[simp] theorem State.slot_modCtx_self (s : State) (k : SlotId) (f : Ctx → Ctx) :
    (s.modCtx k f).slot k = { s.slot k with ctx := f (s.slot k).ctx } := by simp [State.modCtx]

theorem State.slot_modCtx_ne (s : State) {j k : SlotId} (h : j ≠ k) (f : Ctx → Ctx) :
    (s.modCtx k f).slot j = s.slot j := by simp [State.modCtx, State.slot_modSlot_ne s h]

@[simp] theorem State.slot_modSheaf_self (s : State) (k : SlotId) (f : Sheaf → Sheaf) :
    (s.modSheaf k f).slot k = { s.slot k with sheaf := f (s.slot k).sheaf } := by simp [State.modSheaf]

theorem State.slot_modSheaf_ne (s : State) {j k : SlotId} (h : j ≠ k) (f : Sheaf → Sheaf) :
    (s.modSheaf k f).slot j = s.slot j := by simp [State.modSheaf, State.slot_modSlot_ne s h]

@[simp] theorem State.ctx_modCtx_self (s : State) (k : SlotId) (f : Ctx → Ctx) :
    (s.modCtx k f).ctx k = f (s.ctx k) := by simp [State.ctx]

theorem State.ctx_modCtx_ne (s : State) {j k : SlotId} (h : j ≠ k) (f : Ctx → Ctx) :
    (s.modCtx k f).ctx j = s.ctx j := by simp [State.ctx, State.slot_modCtx_ne s h]

@[simp] theorem State.ctx_modSheaf (s : State) (j k : SlotId) (f : Sheaf → Sheaf) :
    (s.modSheaf k f).ctx j = s.ctx j := by
  by_cases h : j = k
  · subst h; simp [State.ctx]
  · simp [State.ctx, State.slot_modSheaf_ne s h]

@[simp] theorem State.slot_setBubble_self (s : State) (k : SlotId) :
    (s.setBubble k).slot k = { s.slot k with bubble := true } := by simp [State.setBubble]

theorem State.slot_setBubble_ne (s : State) {j k : SlotId} (h : j ≠ k) : (s.setBubble k).slot j = s.slot j := by
  simp [State.setBubble, State.slot_modSlot_ne s h]

@[simp] theorem State.ctx_setBubble (s : State) (j k : SlotId) : (s.setBubble k).ctx j = s.ctx j := by
  by_cases h : j = k
  · subst h; simp [State.ctx]
  · simp [State.ctx, State.slot_setBubble_ne s h]

@[simp] theorem State.port_setPort_self (s : State) (p : Fin 8) (x : Port) : (s.setPort p x).port p = x :=
  vector_get_set_self s.core.ports p x

theorem State.port_setPort_ne (s : State) {p r : Fin 8} (h : r ≠ p) (x : Port) : (s.setPort p x).port r = s.port r :=
  vector_get_set_ne s.core.ports h x

@[simp] theorem State.handle_setHandle_self (s : State) (h : Fin 16) (x : Handle) :
    (s.setHandle h x).handle h = x :=
  vector_get_set_self s.core.handles h x

theorem State.handle_setHandle_ne (s : State) {g h : Fin 16} (n : g ≠ h) (x : Handle) :
    (s.setHandle h x).handle g = s.handle g :=
  vector_get_set_ne s.core.handles n x

@[simp] theorem State.setSlot_cur (s : State) (k : SlotId) (x : Slot) : (s.setSlot k x).cur = s.cur := rfl
@[simp] theorem State.setSlot_port (s : State) (k : SlotId) (x : Slot) (j : Fin 8) : (s.setSlot k x).port j = s.port j := rfl
@[simp] theorem State.setSlot_handle (s : State) (k : SlotId) (x : Slot) (j : Fin 16) : (s.setSlot k x).handle j = s.handle j := rfl
@[simp] theorem State.modSlot_cur (s : State) (k : SlotId) (f : Slot → Slot) : (s.modSlot k f).cur = s.cur := rfl
@[simp] theorem State.modSlot_port (s : State) (k : SlotId) (f : Slot → Slot) (j : Fin 8) : (s.modSlot k f).port j = s.port j := rfl
@[simp] theorem State.modSlot_handle (s : State) (k : SlotId) (f : Slot → Slot) (j : Fin 16) : (s.modSlot k f).handle j = s.handle j := rfl
@[simp] theorem State.modCtx_cur (s : State) (k : SlotId) (f : Ctx → Ctx) : (s.modCtx k f).cur = s.cur := rfl
@[simp] theorem State.modCtx_port (s : State) (k : SlotId) (f : Ctx → Ctx) (j : Fin 8) : (s.modCtx k f).port j = s.port j := rfl
@[simp] theorem State.modCtx_handle (s : State) (k : SlotId) (f : Ctx → Ctx) (j : Fin 16) : (s.modCtx k f).handle j = s.handle j := rfl
@[simp] theorem State.modSheaf_cur (s : State) (k : SlotId) (f : Sheaf → Sheaf) : (s.modSheaf k f).cur = s.cur := rfl
@[simp] theorem State.modSheaf_port (s : State) (k : SlotId) (f : Sheaf → Sheaf) (j : Fin 8) : (s.modSheaf k f).port j = s.port j := rfl
@[simp] theorem State.modSheaf_handle (s : State) (k : SlotId) (f : Sheaf → Sheaf) (j : Fin 16) : (s.modSheaf k f).handle j = s.handle j := rfl
@[simp] theorem State.modHarrow_cur (s : State) (f : Harrow → Harrow) : (s.modHarrow f).cur = s.cur := rfl
@[simp] theorem State.modHarrow_slot (s : State) (f : Harrow → Harrow) (j : SlotId) : (s.modHarrow f).slot j = s.slot j := rfl
@[simp] theorem State.modHarrow_ctx (s : State) (f : Harrow → Harrow) (j : SlotId) : (s.modHarrow f).ctx j = s.ctx j := rfl
@[simp] theorem State.modHarrow_port (s : State) (f : Harrow → Harrow) (j : Fin 8) : (s.modHarrow f).port j = s.port j := rfl
@[simp] theorem State.modHarrow_handle (s : State) (f : Harrow → Harrow) (j : Fin 16) : (s.modHarrow f).handle j = s.handle j := rfl
@[simp] theorem State.modDie_cur (s : State) (f : Die → Die) : (s.modDie f).cur = s.cur := rfl
@[simp] theorem State.modDie_slot (s : State) (f : Die → Die) (j : SlotId) : (s.modDie f).slot j = s.slot j := rfl
@[simp] theorem State.modDie_ctx (s : State) (f : Die → Die) (j : SlotId) : (s.modDie f).ctx j = s.ctx j := rfl
@[simp] theorem State.modDie_port (s : State) (f : Die → Die) (j : Fin 8) : (s.modDie f).port j = s.port j := rfl
@[simp] theorem State.modDie_handle (s : State) (f : Die → Die) (j : Fin 16) : (s.modDie f).handle j = s.handle j := rfl
@[simp] theorem State.modCluster_cur (s : State) (f : Cluster → Cluster) : (s.modCluster f).cur = s.cur := rfl
@[simp] theorem State.modCluster_slot (s : State) (f : Cluster → Cluster) (j : SlotId) : (s.modCluster f).slot j = s.slot j := rfl
@[simp] theorem State.modCluster_ctx (s : State) (f : Cluster → Cluster) (j : SlotId) : (s.modCluster f).ctx j = s.ctx j := rfl
@[simp] theorem State.modCluster_port (s : State) (f : Cluster → Cluster) (j : Fin 8) : (s.modCluster f).port j = s.port j := rfl
@[simp] theorem State.modCluster_handle (s : State) (f : Cluster → Cluster) (j : Fin 16) : (s.modCluster f).handle j = s.handle j := rfl
@[simp] theorem State.modModule_cur (s : State) (f : Module → Module) : (s.modModule f).cur = s.cur := rfl
@[simp] theorem State.modModule_slot (s : State) (f : Module → Module) (j : SlotId) : (s.modModule f).slot j = s.slot j := rfl
@[simp] theorem State.modModule_ctx (s : State) (f : Module → Module) (j : SlotId) : (s.modModule f).ctx j = s.ctx j := rfl
@[simp] theorem State.modModule_port (s : State) (f : Module → Module) (j : Fin 8) : (s.modModule f).port j = s.port j := rfl
@[simp] theorem State.modModule_handle (s : State) (f : Module → Module) (j : Fin 16) : (s.modModule f).handle j = s.handle j := rfl
@[simp] theorem State.setPort_cur (s : State) (p : Fin 8) (x : Port) : (s.setPort p x).cur = s.cur := rfl
@[simp] theorem State.setPort_slot (s : State) (p : Fin 8) (x : Port) (j : SlotId) : (s.setPort p x).slot j = s.slot j := rfl
@[simp] theorem State.setPort_ctx (s : State) (p : Fin 8) (x : Port) (j : SlotId) : (s.setPort p x).ctx j = s.ctx j := rfl
@[simp] theorem State.setPort_handle (s : State) (p : Fin 8) (x : Port) (j : Fin 16) : (s.setPort p x).handle j = s.handle j := rfl
@[simp] theorem State.setHandle_cur (s : State) (h : Fin 16) (x : Handle) : (s.setHandle h x).cur = s.cur := rfl
@[simp] theorem State.setHandle_slot (s : State) (h : Fin 16) (x : Handle) (j : SlotId) : (s.setHandle h x).slot j = s.slot j := rfl
@[simp] theorem State.setHandle_ctx (s : State) (h : Fin 16) (x : Handle) (j : SlotId) : (s.setHandle h x).ctx j = s.ctx j := rfl
@[simp] theorem State.setHandle_port (s : State) (h : Fin 16) (x : Handle) (j : Fin 8) : (s.setHandle h x).port j = s.port j := rfl
@[simp] theorem State.schedule_cur (s : State) (w : Instr) (d : Detail) : (s.schedule w d).cur = s.cur := rfl
@[simp] theorem State.schedule_slot (s : State) (w : Instr) (d : Detail) (j : SlotId) : (s.schedule w d).slot j = s.slot j := rfl
@[simp] theorem State.schedule_ctx (s : State) (w : Instr) (d : Detail) (j : SlotId) : (s.schedule w d).ctx j = s.ctx j := rfl
@[simp] theorem State.schedule_port (s : State) (w : Instr) (d : Detail) (j : Fin 8) : (s.schedule w d).port j = s.port j := rfl
@[simp] theorem State.schedule_handle (s : State) (w : Instr) (d : Detail) (j : Fin 16) : (s.schedule w d).handle j = s.handle j := rfl
@[simp] theorem State.tick_cur (s : State) : (s.tick).cur = s.cur := rfl
@[simp] theorem State.tick_slot (s : State) (j : SlotId) : (s.tick).slot j = s.slot j := rfl
@[simp] theorem State.tick_ctx (s : State) (j : SlotId) : (s.tick).ctx j = s.ctx j := rfl
@[simp] theorem State.tick_port (s : State) (j : Fin 8) : (s.tick).port j = s.port j := rfl
@[simp] theorem State.tick_handle (s : State) (j : Fin 16) : (s.tick).handle j = s.handle j := rfl
@[simp] theorem State.setSysReg_cur (s : State) (a : Nat) (v : BitVec 64) : (s.setSysReg a v).cur = s.cur := rfl
@[simp] theorem State.setSysReg_slot (s : State) (a : Nat) (v : BitVec 64) (j : SlotId) : (s.setSysReg a v).slot j = s.slot j := rfl
@[simp] theorem State.setSysReg_ctx (s : State) (a : Nat) (v : BitVec 64) (j : SlotId) : (s.setSysReg a v).ctx j = s.ctx j := rfl
@[simp] theorem State.setSysReg_port (s : State) (a : Nat) (v : BitVec 64) (j : Fin 8) : (s.setSysReg a v).port j = s.port j := rfl
@[simp] theorem State.setSysReg_handle (s : State) (a : Nat) (v : BitVec 64) (j : Fin 16) : (s.setSysReg a v).handle j = s.handle j := rfl

/-! ### General registers and the program counter (R50, R61) -/

@[simp] theorem Ctx.reg_zero (c : Ctx) : c.reg 0 = Reg.null := by simp [Ctx.reg]

@[simp] theorem Ctx.setReg_zero (c : Ctx) (v : Reg) : c.setReg 0 v = c := by simp [Ctx.setReg]

theorem Ctx.reg_setReg_self (c : Ctx) {d : RegIdx} (h : d ≠ 0) (v : Reg) : (c.setReg d v).reg d = v := by
  simp only [Ctx.reg, Ctx.setReg, h, if_false]
  exact vector_get_set_self c.regs d v

theorem Ctx.reg_setReg_ne (c : Ctx) {d r : RegIdx} (h : r ≠ d) (v : Reg) : (c.setReg d v).reg r = c.reg r := by
  by_cases hd : d = 0
  · simp [Ctx.setReg, hd]
  · simp only [Ctx.reg, Ctx.setReg, hd, if_false, vector_get_set_ne c.regs h v]

end Sys2Proof.Machine
end

