-- ==== Sys2Proof/Laws/Acts.lean ====
section
/-! SUPPORT. How acts run, what opening a sheaf and reading and writing a register come to, and how an instruction that
completes, traps or waits ends. -/

namespace Sys2Proof.Machine

/-! ### Acts -/

@[simp] theorem act_pure {α : Type} (a : α) (s : State) : (pure a : Act α) s = .ok a s := rfl

@[simp] theorem act_bind {α β : Type} (x : Act α) (f : α → Act β) (s : State) :
    (x >>= f) s = match x s with
      | .ok a t => f a t
      | .error e t => .error e t := by
  show EStateM.bind x f s = _
  unfold EStateM.bind
  cases x s <;> rfl

@[simp] theorem act_map {α β : Type} (x : Act α) (f : α → β) (s : State) :
    (f <$> x) s = match x s with
      | .ok a t => .ok (f a) t
      | .error e t => .error e t := by
  show EStateM.map f x s = _
  unfold EStateM.map
  cases x s <;> rfl

@[simp] theorem act_get (s : State) : (get : Act State) s = .ok s s := rfl

@[simp] theorem act_modify (f : State → State) (s : State) : (modify f : Act Unit) s = .ok () (f s) := rfl

@[simp] theorem act_trap {α : Type} (cause : Nat) (val val2 : Q) (s : State) :
    (trap cause val val2 : Act α) s = .error (.trap cause val val2) s := rfl

@[simp] theorem act_stall {α : Type} (w : Wait) (s : State) : (stall w : Act α) s = .error (.wait w) s := rfl

@[simp] theorem act_trapIf_false (cause : Nat) (val val2 : Q) (s : State) :
    trapIf false cause val val2 s = .ok () s := rfl

@[simp] theorem act_trapIf_true (cause : Nat) (val val2 : Q) (s : State) :
    trapIf true cause val val2 s = .error (.trap cause val val2) s := rfl

@[simp] theorem act_issuer (s : State) : issuer s = .ok s.cur s := rfl
@[simp] theorem act_myCtx (s : State) : myCtx s = .ok (s.ctx s.cur) s := rfl
@[simp] theorem act_mySlot (s : State) : mySlot s = .ok (s.slot s.cur) s := rfl
@[simp] theorem act_modMyCtx (f : Ctx → Ctx) (s : State) : modMyCtx f s = .ok () (s.modCtx s.cur f) := rfl
@[simp] theorem act_modMySlot (f : Slot → Slot) (s : State) : modMySlot f s = .ok () (s.modSlot s.cur f) := rfl
@[simp] theorem act_holdBack (h : Held) (s : State) : holdBack h s = .ok () (s.hold s.cur h) := rfl
@[simp] theorem act_noteUndo (u : Undo) (s : State) : noteUndo u s = .ok () (s.note s.cur u) := rfl
@[simp] theorem act_next (s : State) : next s = .ok (.go .seq) s := rfl

@[simp] theorem act_setFlags (f : Flags) (s : State) :
    setFlags f s = .ok () (s.modCtx s.cur fun c => c.raiseFlags f) := rfl

/-! ### Registers (R50, R53) -/

@[simp] theorem State.streamed_modSlot (s : State) (k : SlotId) (f : Slot → Slot) (r : RegIdx) :
    (s.modSlot k f).streamed r = s.streamed r := rfl

@[simp] theorem State.streamed_modCtx (s : State) (k : SlotId) (f : Ctx → Ctx) (r : RegIdx) :
    (s.modCtx k f).streamed r = s.streamed r := rfl

@[simp] theorem State.streamed_modSheaf (s : State) (k : SlotId) (f : Sheaf → Sheaf) (r : RegIdx) :
    (s.modSheaf k f).streamed r = s.streamed r := rfl

/-- A register below g24 is no stream register (R144). -/
theorem State.streamed_low (s : State) {r : RegIdx} (h : r.val < 24) : s.streamed r = false := by
  simp [State.streamed, isPort, Nat.not_le.mpr h]

@[simp] theorem act_readReg {s : State} {r : RegIdx} (h : s.streamed r = false) :
    readReg r s = .ok ((s.ctx s.cur).reg r) s := by
  simp [readReg, h]

@[simp] theorem act_readBits {s : State} {r : RegIdx} (h : s.streamed r = false) :
    readBits r s = .ok ((s.ctx s.cur).reg r).bits s := by
  simp [readBits, h]

@[simp] theorem act_writeReg {s : State} {d : RegIdx} (h : s.streamed d = false) (v : Reg) :
    writeReg d v s = .ok () (s.modCtx s.cur fun c => c.setReg d v) := by
  simp [writeReg, h]

@[simp] theorem act_write64 {s : State} {d : RegIdx} (h : s.streamed d = false) (v : Int) :
    write64 d v s = .ok () (s.modCtx s.cur fun c => c.setReg d (Reg.data (wr64 v))) := act_writeReg h _

@[simp] theorem act_writeNat {s : State} {d : RegIdx} (h : s.streamed d = false) (v : Nat) :
    writeNat d v s = .ok () (s.modCtx s.cur fun c => c.setReg d (Reg.data (wr64 v))) := act_write64 h _

@[simp] theorem act_write128 {s : State} {d : RegIdx} (h : s.streamed d = false) (v : Q) :
    write128 d v s = .ok () (s.modCtx s.cur fun c => c.setReg d (Reg.data v)) := act_writeReg h _

/-! ### Updates after updates -/

theorem vector_set_get_self {α : Type} {n : Nat} (v : Vector α n) (k : Fin n) : v.set k.val (v.get k) k.isLt = v := by
  simp [Vector.get_eq_getElem]

theorem State.modSlot_eq_self (s : State) (k : SlotId) {f : Slot → Slot} (h : f (s.slot k) = s.slot k) :
    s.modSlot k f = s := by
  unfold State.modSlot State.setSlot
  rw [h]
  show { s with core := { s.core with slots := s.core.slots.set k.val (s.core.slots.get k) k.isLt } } = s
  rw [vector_set_get_self]

theorem vector_set_set {α : Type} {n : Nat} (v : Vector α n) (k : Fin n) (x y : α) :
    (v.set k.val x k.isLt).set k.val y k.isLt = v.set k.val y k.isLt := by simp

theorem State.setSlot_setSlot (s : State) (k : SlotId) (x y : Slot) : (s.setSlot k x).setSlot k y = s.setSlot k y := by
  simp [State.setSlot]

theorem State.modSlot_modSlot (s : State) (k : SlotId) (f g : Slot → Slot) :
    (s.modSlot k f).modSlot k g = s.modSlot k (g ∘ f) := by
  simp [State.modSlot, State.setSlot_setSlot]

theorem State.modCtx_modCtx (s : State) (k : SlotId) (f g : Ctx → Ctx) :
    (s.modCtx k f).modCtx k g = s.modCtx k (g ∘ f) := by
  simp only [State.modCtx, State.modSlot_modSlot]
  rfl

theorem State.modSheaf_modCtx (s : State) (k : SlotId) (f : Sheaf → Sheaf) (g : Ctx → Ctx) :
    (s.modSheaf k f).modCtx k g = (s.modCtx k g).modSheaf k f := by
  simp only [State.modCtx, State.modSheaf, State.modSlot_modSlot]
  rfl

/-! ### What a stop leaves (R300, R301) -/

/-- A state keeps itself. -/
@[simp] theorem State.keep_self (s : State) : s.keep s = s := rfl

@[simp] theorem State.keep_modSheaf (s : State) (k : SlotId) (f : Sheaf → Sheaf) : s.keep (s.modSheaf k f) = s := rfl

@[simp] theorem State.keep_modCtx (s t : State) (k : SlotId) (f : Ctx → Ctx) : s.keep (t.modCtx k f) = s.keep t := rfl

/-! ### Opening a sheaf (R115, R174) -/

/-- The state to which a squash of the slot's sheaf returns, once the sheaf is open. -/
def State.opening (s : State) (k : SlotId) : Snapshot :=
  (s.slot k).sheaf.snapshot.getD
    ⟨{ (s.slot k).ctx with guarded := none }, (s.slot k).grant, fifos.map fun f => ((s.slot k).engine f).input, s.core.ports⟩

/-- Opening a sheaf only takes its snapshot, where it has none. -/
theorem State.openSheaf_eq (s : State) (k : SlotId) :
    s.openSheaf k = s.modSheaf k fun sh => { sh with snapshot := some (s.opening k) } := by
  unfold State.openSheaf State.opening
  cases hs : (s.slot k).sheaf.snapshot with
  | none => simp
  | some x =>
    refine (State.modSlot_eq_self s k ?_).symm
    show ({ s.slot k with sheaf := { (s.slot k).sheaf with snapshot := some x } } : Slot) = s.slot k
    rw [← hs]

section
variable {s : State} {k : SlotId}

@[simp] theorem State.openSheaf_ctx (j : SlotId) : (s.openSheaf k).ctx j = s.ctx j := by
  rw [State.openSheaf_eq, State.ctx_modSheaf]

@[simp] theorem State.openSheaf_cur : (s.openSheaf k).cur = s.cur := by rw [State.openSheaf_eq, State.modSheaf_cur]

@[simp] theorem State.openSheaf_streamed (r : RegIdx) : (s.openSheaf k).streamed r = s.streamed r := by
  rw [State.openSheaf_eq, State.streamed_modSheaf]

@[simp] theorem State.openSheaf_port (p : Fin 8) : (s.openSheaf k).port p = s.port p := by
  rw [State.openSheaf_eq, State.modSheaf_port]

@[simp] theorem State.openSheaf_handle (x : Fin 16) : (s.openSheaf k).handle x = s.handle x := by
  rw [State.openSheaf_eq, State.modSheaf_handle]

theorem State.openSheaf_slot_ne {j : SlotId} (n : j ≠ k) : (s.openSheaf k).slot j = s.slot j := by
  rw [State.openSheaf_eq, State.slot_modSheaf_ne s n]

@[simp] theorem State.openSheaf_slot_self :
    (s.openSheaf k).slot k =
      { s.slot k with sheaf := { (s.slot k).sheaf with snapshot := some (s.opening k) } } := by
  rw [State.openSheaf_eq, State.slot_modSheaf_self]

@[simp] theorem State.keep_openSheaf : s.keep (s.openSheaf k) = s := by
  rw [State.openSheaf_eq, State.keep_modSheaf]

@[simp] theorem State.openSheaf_harrow : (s.openSheaf k).harrow = s.harrow := by rw [State.openSheaf_eq]; rfl
@[simp] theorem State.openSheaf_cluster : (s.openSheaf k).cluster = s.cluster := by rw [State.openSheaf_eq]; rfl
@[simp] theorem State.openSheaf_die : (s.openSheaf k).die = s.die := by rw [State.openSheaf_eq]; rfl
@[simp] theorem State.openSheaf_module : (s.openSheaf k).module = s.module := by rw [State.openSheaf_eq]; rfl
@[simp] theorem State.openSheaf_mem : (s.openSheaf k).mem = s.mem := by rw [State.openSheaf_eq]; rfl
@[simp] theorem State.openSheaf_tags : (s.openSheaf k).tags = s.tags := by rw [State.openSheaf_eq]; rfl
@[simp] theorem State.openSheaf_seals : (s.openSheaf k).seals = s.seals := by rw [State.openSheaf_eq]; rfl
@[simp] theorem State.openSheaf_bad : (s.openSheaf k).bad = s.bad := by rw [State.openSheaf_eq]; rfl
@[simp] theorem State.openSheaf_sys : (s.openSheaf k).sys = s.sys := by rw [State.openSheaf_eq]; rfl
@[simp] theorem State.openSheaf_agenda : (s.openSheaf k).agenda = s.agenda := by rw [State.openSheaf_eq]; rfl
@[simp] theorem State.openSheaf_event : (s.openSheaf k).event = s.event := by rw [State.openSheaf_eq]; rfl
@[simp] theorem State.openSheaf_eventTurn : (s.openSheaf k).eventTurn = s.eventTurn := by rw [State.openSheaf_eq]; rfl
@[simp] theorem State.openSheaf_fresh : (s.openSheaf k).fresh = s.fresh := by rw [State.openSheaf_eq]; rfl

@[simp] theorem State.openSheaf_core_id : (s.openSheaf k).core.id = s.core.id := by rw [State.openSheaf_eq]; rfl
@[simp] theorem State.openSheaf_core_cur : (s.openSheaf k).core.cur = s.core.cur := by rw [State.openSheaf_eq]; rfl
@[simp] theorem State.openSheaf_core_last : (s.openSheaf k).core.last = s.core.last := by rw [State.openSheaf_eq]; rfl
@[simp] theorem State.openSheaf_core_yielded : (s.openSheaf k).core.yielded = s.core.yielded := by rw [State.openSheaf_eq]; rfl
@[simp] theorem State.openSheaf_core_stalled : (s.openSheaf k).core.stalled = s.core.stalled := by rw [State.openSheaf_eq]; rfl
@[simp] theorem State.openSheaf_core_ipol : (s.openSheaf k).core.ipol = s.core.ipol := by rw [State.openSheaf_eq]; rfl
@[simp] theorem State.openSheaf_core_cyc : (s.openSheaf k).core.cyc = s.core.cyc := by rw [State.openSheaf_eq]; rfl
@[simp] theorem State.openSheaf_core_stg : (s.openSheaf k).core.stg = s.core.stg := by rw [State.openSheaf_eq]; rfl
@[simp] theorem State.openSheaf_core_stgNext : (s.openSheaf k).core.stgNext = s.core.stgNext := by rw [State.openSheaf_eq]; rfl
@[simp] theorem State.openSheaf_core_tenant : (s.openSheaf k).core.tenant = s.core.tenant := by rw [State.openSheaf_eq]; rfl
@[simp] theorem State.openSheaf_core_pkey : (s.openSheaf k).core.pkey = s.core.pkey := by rw [State.openSheaf_eq]; rfl
@[simp] theorem State.openSheaf_core_tmbase : (s.openSheaf k).core.tmbase = s.core.tmbase := by rw [State.openSheaf_eq]; rfl
@[simp] theorem State.openSheaf_core_clsbase : (s.openSheaf k).core.clsbase = s.core.clsbase := by rw [State.openSheaf_eq]; rfl
@[simp] theorem State.openSheaf_core_rrbase : (s.openSheaf k).core.rrbase = s.core.rrbase := by rw [State.openSheaf_eq]; rfl
@[simp] theorem State.openSheaf_core_hlbase : (s.openSheaf k).core.hlbase = s.core.hlbase := by rw [State.openSheaf_eq]; rfl
@[simp] theorem State.openSheaf_core_wdg : (s.openSheaf k).core.wdg = s.core.wdg := by rw [State.openSheaf_eq]; rfl
@[simp] theorem State.openSheaf_core_pwin : (s.openSheaf k).core.pwin = s.core.pwin := by rw [State.openSheaf_eq]; rfl
@[simp] theorem State.openSheaf_core_mode : (s.openSheaf k).core.mode = s.core.mode := by rw [State.openSheaf_eq]; rfl
@[simp] theorem State.openSheaf_core_heldCause : (s.openSheaf k).core.heldCause = s.core.heldCause := by rw [State.openSheaf_eq]; rfl
@[simp] theorem State.openSheaf_core_rerr : (s.openSheaf k).core.rerr = s.core.rerr := by rw [State.openSheaf_eq]; rfl
@[simp] theorem State.openSheaf_core_kernel : (s.openSheaf k).core.kernel = s.core.kernel := by rw [State.openSheaf_eq]; rfl
@[simp] theorem State.openSheaf_core_ran : (s.openSheaf k).core.ran = s.core.ran := by rw [State.openSheaf_eq]; rfl
@[simp] theorem State.openSheaf_core_ring : (s.openSheaf k).core.ring = s.core.ring := by rw [State.openSheaf_eq]; rfl
@[simp] theorem State.openSheaf_core_received : (s.openSheaf k).core.received = s.core.received := by rw [State.openSheaf_eq]; rfl
@[simp] theorem State.openSheaf_core_armed : (s.openSheaf k).core.armed = s.core.armed := by rw [State.openSheaf_eq]; rfl
@[simp] theorem State.openSheaf_core_farDecs : (s.openSheaf k).core.farDecs = s.core.farDecs := by rw [State.openSheaf_eq]; rfl
@[simp] theorem State.openSheaf_core_cf : (s.openSheaf k).core.cf = s.core.cf := by rw [State.openSheaf_eq]; rfl
@[simp] theorem State.openSheaf_core_runs : (s.openSheaf k).core.runs = s.core.runs := by rw [State.openSheaf_eq]; rfl
@[simp] theorem State.openSheaf_core_localRuns : (s.openSheaf k).core.localRuns = s.core.localRuns := by rw [State.openSheaf_eq]; rfl
@[simp] theorem State.openSheaf_core_handoff : (s.openSheaf k).core.handoff = s.core.handoff := by rw [State.openSheaf_eq]; rfl
@[simp] theorem State.openSheaf_core_scrubbing : (s.openSheaf k).core.scrubbing = s.core.scrubbing := by rw [State.openSheaf_eq]; rfl
@[simp] theorem State.openSheaf_core_ports : (s.openSheaf k).core.ports = s.core.ports := by rw [State.openSheaf_eq]; rfl
@[simp] theorem State.openSheaf_core_handles : (s.openSheaf k).core.handles = s.core.handles := by rw [State.openSheaf_eq]; rfl
@[simp] theorem State.openSheaf_core_drillOwner : (s.openSheaf k).core.drillOwner = s.core.drillOwner := by rw [State.openSheaf_eq]; rfl
@[simp] theorem State.openSheaf_core_vectorHold : (s.openSheaf k).core.vectorHold = s.core.vectorHold := by rw [State.openSheaf_eq]; rfl
@[simp] theorem State.openSheaf_core_specialHold : (s.openSheaf k).core.specialHold = s.core.specialHold := by rw [State.openSheaf_eq]; rfl
@[simp] theorem State.openSheaf_core_layouts : (s.openSheaf k).core.layouts = s.core.layouts := by rw [State.openSheaf_eq]; rfl
@[simp] theorem State.openSheaf_core_outgoing : (s.openSheaf k).core.outgoing = s.core.outgoing := by rw [State.openSheaf_eq]; rfl
@[simp] theorem State.openSheaf_core_arrived : (s.openSheaf k).core.arrived = s.core.arrived := by rw [State.openSheaf_eq]; rfl
@[simp] theorem State.openSheaf_core_barriers : (s.openSheaf k).core.barriers = s.core.barriers := by rw [State.openSheaf_eq]; rfl
@[simp] theorem State.openSheaf_core_forwards : (s.openSheaf k).core.forwards = s.core.forwards := by rw [State.openSheaf_eq]; rfl
@[simp] theorem State.openSheaf_core_spawned : (s.openSheaf k).core.spawned = s.core.spawned := by rw [State.openSheaf_eq]; rfl
@[simp] theorem State.openSheaf_core_tlb : (s.openSheaf k).core.tlb = s.core.tlb := by rw [State.openSheaf_eq]; rfl
@[simp] theorem State.openSheaf_core_soloAsked : (s.openSheaf k).core.soloAsked = s.core.soloAsked := by rw [State.openSheaf_eq]; rfl
@[simp] theorem State.openSheaf_core_deferred : (s.openSheaf k).core.deferred = s.core.deferred := by rw [State.openSheaf_eq]; rfl
@[simp] theorem State.openSheaf_core_births : (s.openSheaf k).core.births = s.core.births := by rw [State.openSheaf_eq]; rfl
@[simp] theorem State.openSheaf_core_pushes : (s.openSheaf k).core.pushes = s.core.pushes := by rw [State.openSheaf_eq]; rfl
@[simp] theorem State.openSheaf_core_l1 : (s.openSheaf k).core.l1 = s.core.l1 := by rw [State.openSheaf_eq]; rfl

end

/-! ### Ends -/

/-- Below 256 instructions no sheaf ends before the instruction. -/
theorem State.endFull_room {s : State} {k : SlotId} (r : (s.slot k).sheaf.count < 256) : s.endFull k = s := by
  simp [State.endFull, r]

/-- An instruction that pushes nothing through the remote window leaves its sheaf open. -/
theorem State.finish_go {s t : State} {k : SlotId} {len : Nat} {g : Go} (w : t.windowsHeld k ≤ s.windowsHeld k) :
    s.finish t k len (.go g) = t.advance k len g := by
  simp [State.finish, Nat.not_lt.mpr w]

theorem perform_ok {s t : State} {act : Act After} {a : After} (r : (s.slot s.cur).sheaf.count < 256)
    (h : act (s.openSheaf s.cur) = .ok a t) :
    perform s act = .next (s.finish t s.cur 4 a) := by
  simp [perform, State.perform, State.endFull_room r, h]

theorem perform16_ok {s t : State} {act : Act After} {a : After} (r : (s.slot s.cur).sheaf.count < 256)
    (h : act (s.openSheaf s.cur) = .ok a t) :
    perform16 s act = .next (s.finish t s.cur 2 a) := by
  simp [perform16, State.perform, State.endFull_room r, h]

theorem perform_go {s t : State} {act : Act After} {g : Go} (r : (s.slot s.cur).sheaf.count < 256)
    (w : t.windowsHeld s.cur ≤ s.windowsHeld s.cur) (h : act (s.openSheaf s.cur) = .ok (.go g) t) :
    perform s act = .next (t.advance s.cur 4 g) := by
  rw [perform_ok r h, State.finish_go w]

theorem perform16_go {s t : State} {act : Act After} {g : Go} (r : (s.slot s.cur).sheaf.count < 256)
    (w : t.windowsHeld s.cur ≤ s.windowsHeld s.cur) (h : act (s.openSheaf s.cur) = .ok (.go g) t) :
    perform16 s act = .next (t.advance s.cur 2 g) := by
  rw [perform16_ok r h, State.finish_go w]

/-- A trap leaves what walks leave, and is then taken. -/
theorem perform_trap {s t : State} {act : Act After} {c : Nat} {v w : Q}
    (r : (s.slot s.cur).sheaf.count < 256)
    (h : act (s.openSheaf s.cur) = .error (.trap c v w) t) :
    perform s act = .next ((s.keep t).raise s.cur 4 c v w) := by
  simp [perform, State.perform, State.endFull_room r, h, State.stopped]

theorem perform16_trap {s t : State} {act : Act After} {c : Nat} {v w : Q}
    (r : (s.slot s.cur).sheaf.count < 256)
    (h : act (s.openSheaf s.cur) = .error (.trap c v w) t) :
    perform16 s act = .next ((s.keep t).raise s.cur 2 c v w) := by
  simp [perform16, State.perform, State.endFull_room r, h, State.stopped]

/-- A wait leaves what walks leave, and the slot stands in its instruction. -/
theorem perform_wait {s t : State} {act : Act After} {w : Wait} (r : (s.slot s.cur).sheaf.count < 256)
    (h : act (s.openSheaf s.cur) = .error (.wait w) t) :
    perform s act = .next ((s.keep t).beginWait s.cur w) := by
  simp [perform, State.perform, State.endFull_room r, h, State.stopped]

end Sys2Proof.Machine
end

