-- ==== Sys2Proof/Laws/Memory.lean ====
section
/-! SUPPORT. Sparse tables and memory: reading after a write, and that every write keeps the canonical form. -/

namespace Sys2Proof.Machine

/-! ### Reading a table after an update -/

theorem Table.get_erase {α : Type} (d : α) (t : Table α) (a b : Nat) :
    Table.get d (t.erase a) b = if b = a then d else Table.get d t b := by
  induction t with
  | nil => simp [Table.erase, Table.get]
  | cons e t ih =>
    by_cases h : e.1 = a <;> simp_all [Table.erase, Table.get] <;> split_ifs <;> simp_all

theorem Table.get_insert {α : Type} (d : α) (t : Table α) (a b : Nat) (x : α) (h : ∀ e ∈ t, e.1 ≠ a) :
    Table.get d (t.insert a x) b = if b = a then x else Table.get d t b := by
  induction t with
  | nil => simp [Table.insert, Table.get, eq_comm]
  | cons e t ih =>
    have he : e.1 ≠ a := h e (by simp)
    have ih := ih fun f hf => h f (by simp [hf])
    by_cases hl : a < e.1
    · simp only [Table.insert, hl, if_true, Table.get, eq_comm (a := a) (b := b)]
    · simp only [Table.insert, hl, if_false, Table.get, ih]
      split_ifs with h1 h2 h2
      · exact absurd (h1.trans h2) he
      all_goals rfl

theorem Table.not_mem_erase {α : Type} (t : Table α) (a : Nat) : ∀ e ∈ t.erase a, e.1 ≠ a := by
  simp [Table.erase, List.mem_filter]

/-- Reading a table after a write. -/
theorem Table.get_set {α : Type} [DecidableEq α] (d : α) (t : Table α) (a b : Nat) (x : α) :
    Table.get d (Table.set d t a x) b = if b = a then x else Table.get d t b := by
  unfold Table.set
  by_cases hx : x = d
  · rw [if_pos hx, Table.get_erase, hx]
  · rw [if_neg hx, Table.get_insert d _ a b x (Table.not_mem_erase t a), Table.get_erase]
    split_ifs <;> rfl

theorem Table.get_clear {α : Type} (d : α) (t : Table α) (lo hi a : Nat) :
    Table.get d (t.clear lo hi) a = if lo ≤ a ∧ a < hi then d else Table.get d t a := by
  induction t with
  | nil => simp [Table.clear, Table.get]
  | cons e t ih =>
    rw [Table.clear] at *
    by_cases h : (decide (e.1 < lo) || decide (hi ≤ e.1)) = true
    · rw [List.filter_cons_of_pos (by simpa using h), Table.get, Table.get, ih]
      simp only [Bool.or_eq_true, decide_eq_true_eq] at h
      split_ifs <;> first | rfl | omega
    · rw [List.filter_cons_of_neg (by simpa using h), ih, Table.get]
      simp only [Bool.or_eq_true, decide_eq_true_eq, not_or, not_lt, not_le] at h
      split_ifs <;> first | rfl | omega

/-! ### The canonical form -/

/-- Rising keys, as a relation of every two entries. -/
theorem Table.rising_iff {α : Type} (t : Table α) : t.rising = true ↔ t.Pairwise fun e f => e.1 < f.1 := by
  induction t with
  | nil => simp [Table.rising]
  | cons e t ih =>
    cases t with
    | nil => simp [Table.rising]
    | cons f t =>
      simp only [Table.rising, Bool.and_eq_true, decide_eq_true_eq, ih, List.pairwise_cons, List.mem_cons]
      constructor
      · rintro ⟨h, hf, ht⟩
        exact ⟨fun g hg => hg.elim (fun e => e ▸ h) fun hg => h.trans (hf g hg), hf, ht⟩
      · rintro ⟨h, hf, ht⟩
        exact ⟨h f (.inl rfl), hf, ht⟩

theorem Table.wf_iff {α : Type} [DecidableEq α] (d : α) (t : Table α) :
    Table.wf d t = true ↔ (t.Pairwise fun e f => e.1 < f.1) ∧ ∀ e ∈ t, e.2 ≠ d := by
  simp [Table.wf, Table.rising_iff]

theorem Table.wf_nil {α : Type} [DecidableEq α] (d : α) : Table.wf d ([] : Table α) = true := rfl

/-- Entries taken out leave the form. -/
theorem Table.wf_filter {α : Type} [DecidableEq α] (d : α) (t : Table α) (p : Nat × α → Bool) (h : Table.wf d t = true) :
    Table.wf d (t.filter p) = true := by
  rw [Table.wf_iff] at *
  exact ⟨h.1.filter p, fun e he => h.2 e (List.mem_filter.1 he).1⟩

theorem Table.wf_erase {α : Type} [DecidableEq α] (d : α) (t : Table α) (a : Nat) (h : Table.wf d t = true) :
    Table.wf d (t.erase a) = true := Table.wf_filter d t _ h

theorem Table.wf_clear {α : Type} [DecidableEq α] (d : α) (t : Table α) (lo hi : Nat) (h : Table.wf d t = true) :
    Table.wf d (t.clear lo hi) = true := Table.wf_filter d t _ h

theorem Table.mem_insert {α : Type} (t : Table α) (a : Nat) (x : α) (e : Nat × α) :
    e ∈ t.insert a x ↔ e = (a, x) ∨ e ∈ t := by
  induction t with
  | nil => simp [Table.insert]
  | cons f t ih =>
    by_cases h : a < f.1 <;> simp [Table.insert, h, ih]
    tauto

theorem Table.pairwise_insert {α : Type} (t : Table α) (a : Nat) (x : α) (h : t.Pairwise fun e f => e.1 < f.1)
    (ha : ∀ e ∈ t, e.1 ≠ a) : (t.insert a x).Pairwise fun e f => e.1 < f.1 := by
  induction t with
  | nil => simp [Table.insert]
  | cons f t ih =>
    rw [List.pairwise_cons] at h
    by_cases hl : a < f.1
    · simp only [Table.insert, hl, if_true, List.pairwise_cons, List.mem_cons]
      exact ⟨fun g hg => hg.elim (fun e => e ▸ hl) fun hg => hl.trans (h.1 g hg), h⟩
    · simp only [Table.insert, hl, if_false, List.pairwise_cons, Table.mem_insert]
      have hf : f.1 ≠ a := ha f (by simp)
      refine ⟨fun g hg => hg.elim (fun e => ?_) (h.1 g), ih h.2 fun e he => ha e (by simp [he])⟩
      rw [e]
      show f.1 < a
      omega

/-- Every write of a table keeps the canonical form. -/
theorem Table.wf_set {α : Type} [DecidableEq α] (d : α) (t : Table α) (a : Nat) (x : α) (h : Table.wf d t = true) :
    Table.wf d (Table.set d t a x) = true := by
  unfold Table.set
  have he := Table.wf_erase d t a h
  split_ifs with hx
  · exact he
  · rw [Table.wf_iff] at *
    refine ⟨Table.pairwise_insert _ a x he.1 (Table.not_mem_erase t a), fun e hm => ?_⟩
    rcases (Table.mem_insert _ a x e).1 hm with rfl | hm
    · exact hx
    · exact he.2 e hm

/-- Tables in canonical form that read alike are equal. -/
theorem Table.ext {α : Type} [DecidableEq α] (d : α) (t u : Table α) (ht : Table.wf d t = true) (hu : Table.wf d u = true)
    (h : ∀ a, Table.get d t a = Table.get d u a) : t = u := by
  have above : ∀ (t : Table α) (a : Nat), (∀ e ∈ t, a < e.1) → Table.get d t a = d := by
    intro t a ha
    induction t with
    | nil => rfl
    | cons e t ih =>
      have := ha e (by simp)
      rw [Table.get, if_neg (by omega)]
      exact ih fun f hf => ha f (by simp [hf])
  induction t generalizing u with
  | nil =>
    cases u with
    | nil => rfl
    | cons f u =>
      have := h f.1
      rw [Table.wf_iff] at hu
      simp [Table.get] at this
      exact absurd this.symm (hu.2 f (by simp))
  | cons e t ih =>
    rw [Table.wf_iff] at ht
    have ht' := ht.1
    rw [List.pairwise_cons] at ht'
    cases u with
    | nil =>
      have := h e.1
      simp [Table.get] at this
      exact absurd this (ht.2 e (by simp))
    | cons f u =>
      rw [Table.wf_iff] at hu
      have hu' := hu.1
      rw [List.pairwise_cons] at hu'
      have key : e.1 = f.1 := by
        rcases lt_trichotomy e.1 f.1 with hl | hl | hl
        · have := h e.1
          rw [Table.get, if_pos rfl, Table.get, if_neg (by omega), above u e.1 fun g hg => hl.trans (hu'.1 g hg)] at this
          exact absurd this (ht.2 e (by simp))
        · exact hl
        · have := h f.1
          rw [Table.get, if_neg (by omega), above t f.1 fun g hg => hl.trans (ht'.1 g hg), Table.get, if_pos rfl] at this
          exact absurd this.symm (hu.2 f (by simp))
      have val : e.2 = f.2 := by
        have := h e.1
        rw [Table.get, if_pos rfl, Table.get, if_pos key.symm] at this
        exact this
      have tail : t = u := by
        refine ih u ((Table.wf_iff d t).2 ⟨ht'.2, fun g hg => ht.2 g (by simp [hg])⟩)
          ((Table.wf_iff d u).2 ⟨hu'.2, fun g hg => hu.2 g (by simp [hg])⟩) fun a => ?_
        by_cases ha : e.1 = a
        · rw [above t a fun g hg => ha ▸ ht'.1 g hg, above u a fun g hg => (key ▸ ha) ▸ hu'.1 g hg]
        · have := h a
          rwa [Table.get, if_neg ha, Table.get, if_neg (key ▸ ha)] at this
      rw [Prod.ext key val, tail]

/-! ### Memory -/

theorem Memory.wf_write (m : List Host.Cell) (loc : Nat) (data : List Byte) (h : Memory.wf m = true) :
    Memory.wf (Memory.write m loc data) = true := by
  induction data generalizing m loc with
  | nil => exact h
  | cons b t ih => exact ih _ _ (Table.wf_set 0#8 m loc b h)

/-- Reading a byte after a write of several. -/
theorem Memory.get_write (m : List Host.Cell) (loc : Nat) (data : List Byte) (a : Nat) :
    Table.get 0#8 (Memory.write m loc data) a =
      if loc ≤ a ∧ a < loc + data.length then data.getD (a - loc) 0#8 else Table.get 0#8 m a := by
  induction data generalizing m loc with
  | nil => rw [if_neg (by simp)]; rfl
  | cons b t ih =>
    rw [Memory.write, ih, Table.get_set]
    by_cases h1 : a = loc
    · subst h1
      simp
    · by_cases h2 : loc ≤ a ∧ a < loc + (b :: t).length
      · rw [List.length_cons] at h2
        rw [if_pos (by omega), if_pos (by rw [List.length_cons]; omega),
          show a - loc = a - (loc + 1) + 1 by omega, List.getD_cons_succ]
      · rw [List.length_cons] at h2
        rw [if_neg (by omega), if_neg h1, if_neg (by rw [List.length_cons]; omega)]

theorem State.poke_wf (s : State) (loc : Nat) (data : List Byte) (tag : Bool) (h : Memory.wf s.mem = true) :
    Memory.wf (s.poke loc data tag).mem = true := Memory.wf_write s.mem loc data h

theorem State.zero_wf (s : State) (lo hi : Nat) (h : Memory.wf s.mem = true) : Memory.wf (s.zero lo hi).mem = true :=
  Table.wf_clear 0#8 s.mem lo hi h

/-- What a byte reads after a store of bytes. -/
theorem State.poke_byte (s : State) (loc : Nat) (data : List Byte) (tag : Bool) (a : Nat) :
    (s.poke loc data tag).byte a = if loc ≤ a ∧ a < loc + data.length then data.getD (a - loc) 0#8 else s.byte a :=
  Memory.get_write s.mem loc data a

/-- What a byte reads after a range is zeroed. -/
theorem State.zero_byte (s : State) (lo hi a : Nat) :
    (s.zero lo hi).byte a = if lo ≤ a ∧ a < hi then 0#8 else s.byte a :=
  Table.get_clear 0#8 s.mem lo hi a

theorem State.writeWords_mem (s : State) (a v n : Nat) : (s.writeWords a v n).mem = s.mem := by
  induction n generalizing s a v with
  | zero => rfl
  | succ n ih =>
    rw [State.writeWords, ih]
    rfl

theorem State.record_mem (s : State) (r : FaultRecord) : (s.record r).mem = s.mem := by
  have h (u : State) : (u.ringAdvance s.dieNo faultRing).mem = u.mem := rfl
  unfold State.record State.recordAt
  dsimp only
  split_ifs
  · rfl
  · rfl
  · rw [h, State.writeWords_mem]

theorem State.sealWrite_wf (s : State) (key : BitVec 10) (loc : Nat) (data : List Byte) (tag : Bool)
    (h : Memory.wf s.mem = true) : Memory.wf (s.sealWrite key loc data tag).mem = true := by
  unfold State.sealWrite State.recordError
  split_ifs
  · exact State.poke_wf s loc data tag h
  · exact State.poke_wf s loc data tag h
  · rw [State.record_mem]
    exact h

theorem State.homeWrite_wf (s : State) (key : BitVec 10) (loc : Nat) (data : List Byte) (tag : Bool) (fuel : Nat)
    (h : Memory.wf s.mem = true) : Memory.wf (s.homeWrite key loc data tag fuel).mem = true := by
  induction fuel generalizing s loc data with
  | zero => exact h
  | succ n ih =>
    unfold State.homeWrite
    split_ifs
    · exact h
    · exact ih _ _ _ (State.sealWrite_wf s key loc (data.take (256 - loc % 256)) tag h)

theorem State.recordError_wf (s : State) (loc : Nat) (h : Memory.wf s.mem = true) : Memory.wf (s.recordError loc).mem = true := by
  rw [State.recordError, State.record_mem]
  exact h

theorem State.writeBackBytes_wf (s : State) (sec : Nat) (c : Copy) (l : List Nat) (h : Memory.wf s.mem = true) :
    Memory.wf (s.writeBackBytes sec c l).mem = true := by
  induction l generalizing s with
  | nil => exact h
  | cons i t ih =>
    unfold State.writeBackBytes
    refine ih _ ?_
    split_ifs
    · exact State.sealWrite_wf s _ _ _ _ h
    · exact h

/-- What keeps the canonical form at each of a list keeps it along the list. -/
theorem State.foldl_wf {α : Type} {f : State → α → State} (l : List α) (s : State)
    (hf : ∀ s x, Memory.wf s.mem = true → Memory.wf (f s x).mem = true) (h : Memory.wf s.mem = true) :
    Memory.wf (l.foldl f s).mem = true := by
  induction l generalizing s with
  | nil => exact h
  | cons a l ih => exact ih _ (hf s a h)

theorem State.backSnoop_wf (write : Bool) (s : State) (line : Nat) (h : Memory.wf s.mem = true) :
    Memory.wf (s.backSnoop write line).mem = true := by
  have e (u : State) (f : Module → Module) : Memory.wf u.mem = true → Memory.wf (u.modModule f).mem = true := id
  unfold State.backSnoop
  refine e _ _ ?_
  split
  · split
    · exact State.sealWrite_wf s _ _ _ _ h
    · exact h
  · exact h

/-- Lines taken from the host keep the canonical form, with the data that the host has changed merged. -/
theorem State.unsnoop_wf (s : State) (loc n : Nat) (write : Bool) (h : Memory.wf s.mem = true) :
    Memory.wf (s.unsnoop loc n write).mem = true := State.foldl_wf _ s (State.backSnoop_wf write) h

theorem State.writeBack_wf (s : State) (sec : Nat) (h : Memory.wf s.mem = true) : Memory.wf (s.writeBack sec).mem = true := by
  unfold State.writeBack
  dsimp only
  split_ifs
  · exact h
  · exact State.writeBackBytes_wf _ sec _ _ (State.unsnoop_wf s _ _ _ h)
  · exact State.recordError_wf _ _ (State.unsnoop_wf s _ _ _ h)

theorem State.flushSector_wf (s : State) (sec : Nat) (h : Memory.wf s.mem = true) :
    Memory.wf (s.flushSector sec).mem = true := State.writeBack_wf s sec h

theorem State.evictSector_wf (s : State) (sec : Nat) (h : Memory.wf s.mem = true) :
    Memory.wf (s.evictSector sec).mem = true := by
  unfold State.evictSector
  split
  · exact State.writeBack_wf s sec h
  · exact State.flushSector_wf s sec h

theorem State.flushLine_wf (s : State) (line : Nat) (h : Memory.wf s.mem = true) : Memory.wf (s.flushLine line).mem = true :=
  State.foldl_wf _ s State.evictSector_wf h

/-- Making room in a slice keeps the canonical form: a line that leaves is written back. -/
theorem State.l2Room_wf (s : State) (loc : Nat) (h : Memory.wf s.mem = true) : Memory.wf (s.l2Room loc).mem = true := by
  have e (u : State) : Memory.wf u.mem = true → Memory.wf u.tick.mem = true := id
  unfold State.l2Room
  dsimp only
  split
  · exact h
  · split
    · exact e _ (State.flushLine_wf s _ h)
    · exact h

theorem State.copyWrite_wf (s : State) (key : BitVec 10) (loc : Nat) (data : List Byte) (tag : Bool) (fuel : Nat)
    (h : Memory.wf s.mem = true) : Memory.wf (s.copyWrite key loc data tag fuel).mem = true := by
  induction fuel generalizing s loc data with
  | zero => exact h
  | succ n ih =>
    have hr := State.l2Room_wf s loc h
    unfold State.copyWrite
    generalize s.l2Room loc = u at hr
    split
    · exact h
    · refine ih _ _ _ ?_
      change Memory.wf (if _ then _ else _ : State).mem = true
      split
      · exact State.writeBack_wf u (loc / 32) hr
      · exact hr

theorem State.writeBackAll_wf (s : State) (h : Memory.wf s.mem = true) : Memory.wf s.writeBackAll.mem = true :=
  State.foldl_wf _ s State.writeBack_wf h

/-- Every store keeps the canonical form of memory. -/
theorem State.store_wf (s : State) (key : BitVec 10) (loc : Nat) (data : List Byte) (tag : Bool) (h : Memory.wf s.mem = true) :
    Memory.wf (s.store key loc data tag).mem = true := by
  unfold State.store
  split
  · split_ifs
    · exact State.copyWrite_wf _ _ _ _ _ _ h
    · exact State.homeWrite_wf _ _ _ _ _ _ (State.unsnoop_wf s _ _ _ h)
  · exact State.poke_wf s loc data tag h

end Sys2Proof.Machine
end

