-- ==== Sys2Proof/Laws/Scalar.lean ====
section
/-! SUPPORT. What the shared shapes of the scalar instructions do on registers that are bound to no port. -/

namespace Sys2Proof.Machine

section
variable {s : State} {d a b : RegIdx}

/-- Reading a and b and writing d by wr64, with flags. -/
theorem binary_run (ha : s.streamed a = false) (hb : s.streamed b = false) (hd : s.streamed d = false)
    (f : Q → Q → Int × Flags) :
    binary d a b f s = .ok (.go .seq) (s.modCtx s.cur fun c =>
      let r := f ((s.ctx s.cur).reg a).bits ((s.ctx s.cur).reg b).bits
      (c.raiseFlags r.2).setReg d (Reg.data (wr64 r.1))) := by
  simp [binary, ha, hb, hd, State.modCtx_modCtx, Function.comp_def]

theorem unary_run (ha : s.streamed a = false) (hd : s.streamed d = false) (f : Q → Int × Flags) :
    unary d a f s = .ok (.go .seq) (s.modCtx s.cur fun c =>
      let r := f ((s.ctx s.cur).reg a).bits
      (c.raiseFlags r.2).setReg d (Reg.data (wr64 r.1))) := by
  simp [unary, ha, hd, State.modCtx_modCtx, Function.comp_def]

theorem combine_run (ha : s.streamed a = false) (hb : s.streamed b = false) (hd : s.streamed d = false)
    (f : Q → Q → Q) :
    combine d a b f s = .ok (.go .seq) (s.modCtx s.cur fun c =>
      c.setReg d (Reg.data (f ((s.ctx s.cur).reg a).bits ((s.ctx s.cur).reg b).bits))) := by
  simp [combine, ha, hb, hd]

theorem move_run (ha : s.streamed a = false) (hd : s.streamed d = false) :
    move d a s = .ok (.go .seq) (s.modCtx s.cur fun c => c.setReg d ((s.ctx s.cur).reg a)) := by
  simp [move, ha, hd]

theorem constant_run (hd : s.streamed d = false) (v : Int) :
    constant d v s = .ok (.go .seq) (s.modCtx s.cur fun c => c.setReg d (Reg.data (wr64 v))) := by
  simp [constant, hd]

/-- A division by another value than 0 (R96). -/
theorem divide_run (ha : s.streamed a = false) (hb : s.streamed b = false) (hd : s.streamed d = false)
    (h : n64 ((s.ctx s.cur).reg b).bits ≠ 0) (op : Nat) (f : Q → Q → Int) :
    divide d a b op f s = .ok (.go .seq) (s.modCtx s.cur fun c =>
      c.setReg d (Reg.data (wr64 (f ((s.ctx s.cur).reg a).bits ((s.ctx s.cur).reg b).bits)))) := by
  have e : (n64 ((s.ctx s.cur).reg b).bits == 0) = false := by simpa using h
  simp [divide, ha, hb, hd, e]

/-- A division by 0 traps with the dividend and the op number (R96). -/
theorem divide_zero (ha : s.streamed a = false) (hb : s.streamed b = false)
    (h : n64 ((s.ctx s.cur).reg b).bits = 0) (op : Nat) (f : Q → Q → Int) :
    divide d a b op f s = .error (.trap 0x080 (wr64 (s64 ((s.ctx s.cur).reg a).bits)) (q op)) s := by
  simp [divide, ha, hb, h]

end

end Sys2Proof.Machine
end

