-- ==== Sys2Proof/Tests/Slice0.lean ====
section
/-! SUPPORT. Tests: words of the spec's encodings that decode to their instructions, terms that are no instructions, and,
for each statement that has hypotheses, states and operands that meet them. The states are the reset state of a
started module with a few fields changed; the expected words are built from the match words and fields of the opcode table. -/

namespace Sys2Proof.Tests

open Sys2Proof.Machine Sys2Proof.Says

set_option Elab.async false
set_option maxRecDepth 20000

/-! ### Words of the spec's encodings -/

/-- The bytes of a word, as long as its instruction, decode to the instruction and leave nothing. -/
def reads (x : Nat × Nat × Instr) : Bool := decodeBytes (leBytes x.1 x.2.1) == some (x.2.2, [])

theorem test_decode_integer_register_1 : ([(4, 0x00972E83, .add 29 18 11 .unsigned),
    (4, 0x04972E83, .sub 29 18 11 .unsigned),
    (4, 0x08412E83, .neg 29 18 .signed),
    (4, 0x0C972E83, .mul 29 18 11 .unsigned),
    (4, 0x10172E83, .mulh 29 18 11),
    (4, 0x14172E83, .mulhn 29 18 11),
    (4, 0x18172E83, .div 29 18 11),
    (4, 0x1C172E83, .divn 29 18 11),
    (4, 0x20172E83, .rem 29 18 11),
    (4, 0x24172E83, .remn 29 18 11),
    (4, 0x28172E83, .min 29 18 11),
    (4, 0x2C172E83, .max 29 18 11),
    (4, 0x30172E83, .minn 29 18 11),
    (4, 0x34172E83, .maxn 29 18 11),
    (4, 0x38412E83, .abs 29 18 .signed),
    (4, 0x3C172E83, .and 29 18 11),
    (4, 0x40172E83, .or 29 18 11),
    (4, 0x44172E83, .xor 29 18 11),
    (4, 0x48012E83, .not 29 18),
    (4, 0x4C172E83, .shl 29 18 11),
    (4, 0x50172E83, .shr 29 18 11),
    (4, 0x54172E83, .sar 29 18 11)] : List (Nat × Nat × Instr)).all reads = true := by decide

theorem test_decode_integer_register_2 : ([(4, 0x58172E83, .rotl 29 18 11),
    (4, 0x5C012E83, .clz 29 18),
    (4, 0x60012E83, .ctz 29 18),
    (4, 0x64012E83, .popc 29 18),
    (4, 0x68012E83, .brev 29 18),
    (4, 0x6C172E83, .bext 29 18 11),
    (4, 0x70172E83, .bins 29 18 11),
    (4, 0x74172E83, .bset 29 18 11),
    (4, 0x78172E83, .bclr 29 18 11),
    (4, 0x7C172E83, .bflip 29 18 11),
    (4, 0x80812E83, .sext 29 18 .w),
    (4, 0x84812E83, .zext 29 18 .w),
    (4, 0x88012E83, .mov 29 18),
    (4, 0x8C172E83, .cmp 29 18 11),
    (4, 0x90172E83, .pand 29 18 11),
    (4, 0x94172E83, .por 29 18 11),
    (4, 0x98172E83, .pxor 29 18 11)] : List (Nat × Nat × Instr)).all reads = true := by decide

theorem test_decode_immediate : ([(4, 0xA5532E85, .addi 29 18 0x52A9#15),
    (4, 0xA5532E87, .andi 29 18 0x52A9#15),
    (4, 0xA5532E89, .ori 29 18 0x52A9#15),
    (4, 0xA5532E8B, .xori 29 18 0x52A9#15),
    (4, 0x005B2E8D, .shli 29 18 0x2D#15),
    (4, 0x005B2E8F, .shri 29 18 0x2D#15),
    (4, 0x005B2E91, .sari 29 18 0x2D#15),
    (4, 0xA5532E93, .cmpi 29 18 0x52A9#15),
    (4, 0xA5C31E95, .movi 29 0xA5C31#20),
    (4, 0xA5C31E97, .movhi 29 0xA5C31#20)] : List (Nat × Nat × Instr)).all reads = true := by decide

theorem test_decode_branch : ([(4, 0xB35D5F19, .bt 30 0xB35#12 85),
    (4, 0xB3555F19, .bf 30 0xB35#12 85),
    (4, 0xD2E1F39B, .jmp 0x1A5C3E7#25),
    (4, 0xD2E1F39D, .jal 0x1A5C3E7#25),
    (4, 0x0001201F, .jr 18),
    (4, 0x04012E9F, .jalr 29 18),
    (4, 0x0800001F, .ret),
    (4, 0x0C00001F, .yield),
    (4, 0x1000001F, .nop)] : List (Nat × Nat × Instr)).all reads = true := by decide

theorem test_decode_drill : ([(4, 0x468AA5A1, .drill 0x2345#15 0xA#4 0xB#4)] : List (Nat × Nat × Instr)).all reads = true
    := by decide

theorem test_decode_capability : ([(4, 0x00012EA3, .cgetaddr 29 18),
    (4, 0x04012EA3, .cgetbase 29 18),
    (4, 0x08012EA3, .cgetlen 29 18),
    (4, 0x0C012EA3, .cgetperm 29 18),
    (4, 0x10012EA3, .cgettype 29 18),
    (4, 0x14012EA3, .cgettag 29 18),
    (4, 0x18172EA3, .csetaddr 29 18 11),
    (4, 0x1C172EA3, .cincaddr 29 18 11),
    (4, 0x20172EA3, .csetbounds 29 18 11),
    (4, 0x24172EA3, .csetboundsx 29 18 11),
    (4, 0x28172EA3, .candperm 29 18 11),
    (4, 0x2C172EA3, .cseal 29 18 11),
    (4, 0x30172EA3, .cunseal 29 18 11),
    (4, 0x34012EA3, .cclrtag 29 18),
    (4, 0x38172EA3, .ctestsub 29 18 11),
    (4, 0x3C172EA3, .cbuild 29 18 11),
    (4, 0xA5532EA5, .cincaddri 29 18 0x52A9#15)] : List (Nat × Nat × Instr)).all reads = true := by decide

theorem test_decode_load : ([(4, 0xA5532EA7, .ldB 29 18 0x52A9#15),
    (4, 0xA5532EA9, .ldH 29 18 0x52A9#15),
    (4, 0xA5532EAB, .ldW 29 18 0x52A9#15),
    (4, 0xA5532EAD, .ldD 29 18 0x52A9#15),
    (4, 0xA5532EAF, .ldQ 29 18 0x52A9#15),
    (4, 0xA5532EB1, .ldzB 29 18 0x52A9#15),
    (4, 0xA5532EB3, .ldzH 29 18 0x52A9#15)] : List (Nat × Nat × Instr)).all reads = true := by decide

theorem test_decode_store : ([(4, 0xA5532EB5, .ldzW 29 18 0x52A9#15),
    (4, 0xA5532EB7, .ldC 29 18 0x52A9#15),
    (4, 0xB51729B9, .stB 18 11 0x5A93#15),
    (4, 0xB51729BB, .stH 18 11 0x5A93#15),
    (4, 0xB51729BD, .stW 18 11 0x5A93#15),
    (4, 0xB51729BF, .stD 18 11 0x5A93#15),
    (4, 0xB51729C1, .stQ 18 11 0x5A93#15),
    (4, 0xB51729C3, .stC 18 11 0x5A93#15)] : List (Nat × Nat × Instr)).all reads = true := by decide

theorem test_decode_atomic : ([(4, 0x09012EC5, .lda 29 18 .q .sys),
    (4, 0x19172045, .strl 18 11 .q .sys),
    (4, 0x27172EC5, .amoadd 29 18 11 .d .sys),
    (4, 0x37172EC5, .amoswap 29 18 11 .d .sys),
    (4, 0x47172EC5, .amocas 29 18 11 .d .sys),
    (4, 0x59172EC5, .amocasq 29 18 11 .sys),
    (4, 0x67172EC5, .amomin 29 18 11 .d .sys),
    (4, 0x77172EC5, .amomax 29 18 11 .d .sys),
    (4, 0x87172EC5, .amominn 29 18 11 .d .sys),
    (4, 0x97172EC5, .amomaxn 29 18 11 .d .sys),
    (4, 0xA7172EC5, .amoand 29 18 11 .d .sys),
    (4, 0xB7172EC5, .amoor 29 18 11 .d .sys),
    (4, 0xC7172EC5, .amoxor 29 18 11 .d .sys)] : List (Nat × Nat × Instr)).all reads = true := by decide

theorem test_decode_fence : ([(4, 0x05000047, .fence .rel .sys),
    (4, 0x11000047, .fsc .sys),
    (4, 0x20000047, .sheaf),
    (4, 0x30D72047, .cinv 18 11),
    (4, 0x32C00047, .cinvAll),
    (4, 0x40D72047, .cwb 18 11),
    (4, 0x42C00047, .cwbAll),
    (4, 0x50012047, .pfL1 18),
    (4, 0x52012047, .pfL2 18)] : List (Nat × Nat × Instr)).all reads = true := by decide

theorem test_decode_stream : ([(4, 0x00352EC9, .sbind 29 18 true 10),
    (4, 0x08352EC9, .sbindch 29 18 true 10),
    (4, 0x1001A049, .sfree 26),
    (4, 0x1801AEC9, .sstat 29 26),
    (4, 0x18340EC9, .sstatCh 29 10),
    (4, 0x2541A049, .sskip 26 42)] : List (Nat × Nat × Instr)).all reads = true := by decide

theorem test_decode_channel : ([(4, 0x00152ECB, .cbinit 29 18 10),
    (4, 0x08152ECB, .cbwait 29 18 10),
    (4, 0x10152ECB, .cbfree 29 18 10),
    (4, 0x1815204B, .cbadv 18 10),
    (4, 0x2015204B, .cbcomm 18 10)] : List (Nat × Nat × Instr)).all reads = true := by decide

theorem test_decode_engine : ([(4, 0x00E1204D, .epush 18 .e7),
    (4, 0x08E00ECD, .epop 29 .e7),
    (4, 0x10E00ECD, .epeek 29 .e7),
    (4, 0x18E00ECD, .estat 29 .e7)] : List (Nat × Nat × Instr)).all reads = true := by decide

theorem test_decode_float : ([(4, 0x02572ECF, .fadd 29 18 11 .bf16),
    (4, 0x06572ECF, .fsub 29 18 11 .bf16),
    (4, 0x0A572ECF, .fmul 29 18 11 .bf16),
    (4, 0x0E572ECF, .fma 29 18 11 .bf16),
    (4, 0x12572ECF, .fms 29 18 11 .bf16),
    (4, 0x16572ECF, .fnma 29 18 11 .bf16),
    (4, 0x1A572ECF, .fmin 29 18 11 .bf16),
    (4, 0x1E572ECF, .fmax 29 18 11 .bf16),
    (4, 0x22412ECF, .fabs 29 18 .bf16),
    (4, 0x26412ECF, .fneg 29 18 .bf16),
    (4, 0x2A572ECF, .fdiv 29 18 11 .bf16),
    (4, 0x2E412ECF, .fsqrt 29 18 .bf16),
    (4, 0x32572ECF, .fcmp 29 18 11 .bf16),
    (4, 0x36412ECF, .fclass 29 18 .bf16),
    (4, 0x3B572ECF, .fcvt 29 18 .dm8 .e5m2),
    (4, 0x3DFB2ECF, .fcvti 29 18 .n64 true .dm8),
    (4, 0x434F2ECF, .icvtf 29 18 .dm8 .n64)] : List (Nat × Nat × Instr)).all reads = true := by decide

theorem test_decode_vector_1 : ([(4, 0x02572ED1, .vadd 29 18 11 .bf16),
    (4, 0x06572ED1, .vsub 29 18 11 .bf16),
    (4, 0x0A572ED1, .vmul 29 18 11 .bf16),
    (4, 0x0E572ED1, .vfma 29 18 11 .bf16),
    (4, 0x12572ED1, .vmin 29 18 11 .bf16),
    (4, 0x16572ED1, .vmax 29 18 11 .bf16),
    (4, 0x1A572ED1, .vscale 29 18 11 .bf16),
    (4, 0x1F572ED1, .vdot 29 18 11 .dm8),
    (4, 0x22412ED1, .vsum 29 18 .bf16),
    (4, 0x26412ED1, .vrmax 29 18 .bf16),
    (4, 0x2B572ED1, .vcvt 29 18 .dm8 .e5m2),
    (4, 0x2F572ED1, .vpack 29 18 11 .dm8),
    (4, 0x327B2ED1, .vunpack 29 18 .bf16 true .dm8),
    (4, 0x34D72ED1, .vsel 29 18 11 .i64),
    (4, 0x3A572ED1, .vcmp 29 18 11 .bf16),
    (4, 0x3CD72ED1, .vshuf 29 18 11 .i64),
    (4, 0x40C12ED1, .vbcast 29 18 .i64),
    (4, 0x02412ED3, .vexp2 29 18 .bf16),
    (4, 0x06412ED3, .vlog2 29 18 .bf16),
    (4, 0x0A412ED3, .vrcp 29 18 .bf16),
    (4, 0x0E412ED3, .vrsqrt 29 18 .bf16),
    (4, 0x12412ED3, .vtanh 29 18 .bf16)] : List (Nat × Nat × Instr)).all reads = true := by decide

theorem test_decode_vector_2 : ([(4, 0x16412ED3, .vsin 29 18 .bf16),
    (4, 0x1A172ED3, .vtopk 29 18 11),
    (4, 0x1E412ED3, .vamax 29 18 .bf16),
    (4, 0x23572ED3, .vquant 29 18 11 .dm8),
    (4, 0x27572ED3, .vdeq 29 18 11 .dm8)] : List (Nat × Nat × Instr)).all reads = true := by decide

theorem test_decode_task : ([(4, 0x00172F55, .send 30 18 11),
    (4, 0x04172F55, .sendv 30 18 11),
    (4, 0x08172ED5, .spawn 29 18 11),
    (4, 0x0C172055, .tdec 18 11),
    (4, 0x10172055, .tarm 18 11),
    (4, 0x10412055, .tarmSp 18),
    (4, 0x14000055, .tend),
    (4, 0x18000ED5, .tself 29),
    (4, 0x1C172ED5, .stageTask 29 18 11),
    (4, 0x20172055, .succ 18 11),
    (4, 0x24800055, .bar 2),
    (4, 0x28000055, .wdog),
    (4, 0x2D412ED5, .hpack 29 18 5),
    (4, 0x31412ED5, .hparse 29 18 5),
    (4, 0x34000055, .hlay)] : List (Nat × Nat × Instr)).all reads = true := by decide

theorem test_decode_harrow : ([(4, 0x00152057, .hload 18 10),
    (4, 0x08000057, .hswap),
    (4, 0x10352ED7, .hgo 29 18 true 10),
    (4, 0x18012057, .hzero 18),
    (4, 0x20212ED7, .hdrain 29 18 true),
    (4, 0x28212057, .hwait 18 true),
    (4, 0x30000ED7, .hstat 29),
    (4, 0x38012ED7, .haccRd 29 18),
    (4, 0x38212ED7, .haccWr 29 18),
    (4, 0x40012057, .hsetClr 18),
    (4, 0x40200057, .hsetDiscard)] : List (Nat × Nat × Instr)).all reads = true := by decide

theorem test_decode_system : ([(4, 0x00172059, .sys 18 11),
    (4, 0x04000059, .brk),
    (4, 0x08000059, .xret),
    (4, 0x0C012059, .idle 18),
    (4, 0x10000059, .halt),
    (4, 0x17812059, .vfence 18 .dev .all),
    (4, 0x18000059, .ctxsave),
    (4, 0x1C012059, .ctxload 18),
    (4, 0x20012ED9, .migr 29 18),
    (4, 0x24012059, .pwreq 18),
    (4, 0x28000059, .pwrel)] : List (Nat × Nat × Instr)).all reads = true := by decide

theorem test_decode_control_register : ([(4, 0x020A0EDB, .crr 29 0x105#12),
    (4, 0x220B2EDB, .crw 29 18 0x105#12),
    (4, 0x420B2EDB, .crs 29 18 0x105#12),
    (4, 0x620B2EDB, .crc 29 18 0x105#12)] : List (Nat × Nat × Instr)).all reads = true := by decide

theorem test_decode_windrow : ([(4, 0x00172EDD, .wopen 29 18 11),
    (4, 0x0401205D, .wclose 18),
    (4, 0x08172EDD, .wcall 29 18 11),
    (4, 0x0C1726DD, .wtok 13 18 11),
    (4, 0x105726DD, .wreq 13 18 11 true),
    (4, 0x14972EDD, .wcheck 29 18 11 2),
    (4, 0x18012EDD, .wretire 29 18),
    (4, 0x1C97205D, .wrewind 18 11 2),
    (4, 0x20012EDD, .wstat 29 18),
    (4, 0x20412EDD, .wstatSmp 29 18),
    (4, 0x21412EDD, .wstatP 29 18 3)] : List (Nat × Nat × Instr)).all reads = true := by decide

theorem test_decode_compact : ([(2, 0x0BE8, .mov16 29 11),
    (2, 0x2BE8, .add16 29 11),
    (2, 0x4BE8, .sub16 29 11),
    (2, 0x6BE8, .and16 29 11),
    (2, 0x8BE8, .or16 29 11),
    (2, 0xABE8, .xor16 29 11),
    (2, 0xCBE8, .shl16 29 11),
    (2, 0xEBE8, .shr16 29 11),
    (2, 0x2DEA, .addi16 29 0x2D#6),
    (2, 0x6DEA, .movi16 29 0x2D#6),
    (2, 0xADEA, .ldD16 29 0x2D#6),
    (2, 0xEDEA, .stD16 29 0x2D#6),
    (2, 0x2E1C, .jmp16 0x5C3#11),
    (2, 0x4094, .jr16 18),
    (2, 0x4194, .jalr16 18),
    (2, 0x8004, .nop16),
    (2, 0x800C, .yield16),
    (2, 0x8014, .ret16),
    (2, 0xABEE, .whenSet 30 85),
    (2, 0xABE6, .unlessSet 30 85)] : List (Nat × Nat × Instr)).all reads = true := by decide

/-! ### Terms that are no instructions -/

/-- No term of the list is well-formed. -/
def refused (l : List Instr) : Bool := l.all fun i => !i.wf

theorem test_wf_refuses_modifiers : refused [.neg 5 6 .unsigned, .abs 5 6 .unsigned, .shli 5 6 64#15, .shri 5 6 64#15,
    .sari 5 6 32767#15, .drill 0#15 1 2, .drill 16384#15 1 2] = true := by decide

theorem test_wf_refuses_atomics : refused [.amoadd 5 6 7 .b .sys, .amoswap 5 6 7 .h .sys, .amocas 5 6 7 .q .sys,
    .amomin 5 6 7 .w .core, .amomax 5 6 7 .d .core, .amominn 5 6 7 .b .clu, .amomaxn 5 6 7 .q .die, .amoand 5 6 7 .h .dev,
    .amoor 5 6 7 .d .core, .amoxor 5 6 7 .w .core, .amocasq 5 6 7 .core, .fsc .core] = true := by decide

theorem test_wf_refuses_ports : refused [.sbind 23 6 true 3, .sbindch 0 6 false 3, .sfree 23, .sstat 5 23, .sskip 7 1] =
    true := by
  decide

theorem test_wf_refuses_float_types : refused [.fadd 5 6 7 .i8, .fsub 5 6 7 .e4m3, .fmul 5 6 7 .dm8, .fma 5 6 7 .n64,
    .fms 5 6 7 .mxf4, .fnma 5 6 7 .e5m2, .fmin 5 6 7 .i32, .fmax 5 6 7 .n32, .fabs 5 6 .i16, .fneg 5 6 .e4m3, .fdiv 5 6 7 .dm8,
    .fsqrt 5 6 .i64, .fcmp 5 6 7 .n8, .fclass 5 6 .mxf4, .fcvt 5 6 .f32 .f32, .fcvt 5 6 .f32 .i32, .fcvt 5 6 .mxf4 .f32,
    .fcvti 5 6 .f32 true .f32, .fcvti 5 6 .i32 false .i32, .icvtf 5 6 .i32 .i32, .icvtf 5 6 .f32 .bf16] = true := by decide

theorem test_wf_refuses_vector_types : refused [.vadd 5 6 7 .e4m3, .vsub 5 6 7 .mxf4, .vmul 5 6 7 .dm8, .vfma 5 6 7 .e5m2,
    .vmin 5 6 7 .dm8, .vmax 5 6 7 .mxf4, .vcmp 5 6 7 .e4m3, .vscale 5 6 7 .i32, .vdot 5 6 7 .i16, .vsum 5 6 .i64, .vrmax 5
    6 .i8,
    .vcvt 5 6 .i8 .i16, .vcvt 5 6 .f32 .f32, .vpack 5 6 7 .i64, .vpack 5 6 7 .f32, .vunpack 5 6 .i32 true .i8,
    .vunpack 5 6 .f32 true .f32, .vsel 5 6 7 .f32, .vshuf 5 6 7 .n8, .vbcast 5 6 .bf16, .vexp2 5 6 .i8, .vlog2 5 6 .e4m3,
    .vrcp 5 6 .dm8, .vrsqrt 5 6 .i32, .vtanh 5 6 .e5m2, .vsin 5 6 .n64, .vamax 5 6 .i8, .vquant 5 6 7 .bf16,
    .vdeq 5 6 7 .e4m3] = true := by decide

theorem test_wf_refuses_control_registers : refused [.crr 5 0x00D#12, .crw 5 6 0x10C#12, .crs 5 6 0x206#12, .crc 5 6 0x220#12,
    .crr 5 0x20F#12] = true := by decide

theorem test_wf_refuses_short_forms : refused [.mov16 0 6, .add16 0 6, .sub16 0 6, .and16 0 6, .or16 0 6, .xor16 0 6,
    .shl16 0 6,
    .shr16 0 6, .addi16 0 1#6, .movi16 0 1#6] = true := by decide

/-! ### States -/

def kern : Kernel :=
  { code := (lmCode 0x100).bits, slots := 4, lmsize := 2 ^ 18, harrow := true, gang := 0, gw := 1, gh := 1, tenant := 5#12,
    entry := 0, origin := 16#13, rank := 0, members := 1 }

/-- A started module whose tenant 5 has all the cores, and a kernel of 4 slots that runs a firing in slot 0. -/
def user : State :=
  let s := State.reset.modModule fun m => { m with phase := .started, hvtop := 1279 }
  let s := s.modSlot 0 fun x => { x with ctx := { x.ctx with code := lmCode 0x100, firing := some ⟨0#128, false, none, 0, false⟩ } }
  (s.setSysReg (sysAddr 0 0 0 10 40) (BitVec.ofNat 64 (2 ^ 18 + 15 * 2 ^ 14 + 31 * 2 ^ 9))).modCore fun c =>
    { c with tenant := 5#12, kernel := some kern }

def put (l : List (RegIdx × Reg)) (s : State := user) : State :=
  s.modCtx s.cur fun c => l.foldl (fun c x => c.setReg x.1 x.2) c

def dat (n : Nat) : Reg := Reg.data (q n)
def lmCap (off len : Nat) : Reg := makeCap 0xFFF (0xD * 2 ^ 68 + off) (0xD * 2 ^ 68 + off + len)
def farCap (core off len : Nat) : Reg := makeCap 0xFFF (0xE * 2 ^ 68 + core * 2 ^ 55 + off) (0xE * 2 ^ 68 + core * 2 ^ 55 +
    off + len)
def pk (off : Nat) (l : List Byte) (s : State := user) : State := s.poke (s.lm off) l false
def ev (e : Detail) (s : State := user) : State := { s with event := e }
def ofCore (f : Core → Core) (s : State := user) : State := s.modCore f
def ofCtx (f : Ctx → Ctx) (s : State := user) : State := s.modCtx s.cur f

/-- The number of a stream map (R143): BASE, ESIZE and, innermost first, the sizes and strides of its dimensions. -/
def mapOf (base esize : Int) (dims : List (Nat × Int)) : Nat :=
  (base % 2 ^ 64).toNat + esize.toNat * 2 ^ 64 + (dims.length - 1) * 2 ^ 68 +
    (dims.zipIdx.map fun x => x.1.1 * 2 ^ (128 + 64 * x.2) + (x.1.2 % 2 ^ 32).toNat * 2 ^ (160 + 64 * x.2)).sum

/-- Four elements of 16 bytes of LM. -/
def pat : Pattern := mapPattern (mapOf 0 4 [(4, 16)]) (lmCap 0x4000 0x1000).bits

def onPort (f : Port → Port) (s : State := user) : State :=
  s.setPort 0 (f { Port.free with owner := some 0, bound := some (.pattern pat), trip := 4 })

def onHandle (f : Handle → Handle) (s : State := user) : State :=
  s.setHandle 3 (f { Handle.reset with init := true, peer := 33#13, countlog := 4, slotlog := 5 })

/-- The instruction has a result by a table, and no register that it uses is bound to a port. -/
def meets (table : Ctx → Instr → Option Result) (s : State) (i : Instr) : Bool :=
  decide (Room s) && (table (here s) i).any fun r => decide (Unbound s r.uses)

/-- A task record of Table 14.4: COUNT, ENTRY, kind of fields, ARMED, QUEUED and, for a data task, ARG0, ARG1 and FURROW. -/
def recordOf (count entry kind : Nat) (armed queued : Bool) : Nat :=
  count + kind * 2 ^ 32 + (if kind = 1 then 2 ^ 160 * (3 + 16 * 2) else 0x1040 * 2 ^ 128) + 4 * 2 ^ 96 + 3 * 2 ^ 64 +
    entry * 2 ^ 40 + (armed.toNat + 2 * queued.toNat) * 2 ^ 232

def hasRecord (count kind : Nat) (armed queued : Bool) (s : State := user) : State :=
  pk 0x200 (leBytes 32 (recordOf count 0x40 kind armed queued)) s

/-- A ready-ring entry whose record is at `r`. -/
def entry (r kind : Nat) : Q := entryBits 11 12 0x40 3 kind false 0#13 r

def idle : State := ofCtx fun c => { c with firing := none }

/-- A task descriptor (Table 14.8): ENTRY 0x1000, FURROW and arguments. -/
def desc : Reg := dat (7 * 2 ^ 96 + 9 * 2 ^ 64 + 0x1000 * 2 ^ 32)

def item (place kind furrow : Nat) (recorded : Bool) : Queued :=
  ⟨place, Fin.ofNat 4 kind, furrow, false, 0#13, recorded, none, 0⟩

def withRing (l : List Queued) (s : State) : State :=
  l.foldl (fun s x => pk (tableOffset s.core.rrbase + 16 * x.place) (leBytes 16 (entry 0x200 x.kind.val).toNat) s)
    (ofCore (fun c => { c with ring := l }) s)

def twoQueued : State := withRing [item 3 0 7 true, item 4 1 2 false] (hasRecord 5 0 true true idle)

def staged (s : State := idle) : State :=
  (ofCore (fun c => { c with stg := 3#4 }) (s.modCluster fun c => { c with stages := c.stages.set 3 ⟨2, 255⟩ })).poke
    (cmLoc 0 0x3F3FF0) (leBytes 16 (7 * 2 ^ 96 + 9 * 2 ^ 64 + 0x1000 * 2 ^ 32 + 0x44)) false

/-- The head-gate registers of a cluster with values. -/
def yoke (l : List (Nat × Nat)) (s : State := staged) : State :=
  l.foldl (fun s x => s.setSysReg (sysAddr 0 1 0 1 (8 * x.1)) (BitVec.ofNat 64 x.2)) s

def msg (kind : Fin 8) (payload : List Byte) (src : CoreId := 33#13) (dst : CoreId := 16#13) : Msg :=
  ⟨kind, Fin.ofNat 16 ((payload.length - 16) / 32), 3#8, 0#32, 5#12, src, dst, 0#12, payload⟩

/-- A core at the address of the message, with a ready ring and a class table, that the message reaches. -/
def reached (m : Msg) (s : State := idle) : State :=
  ev (.msg m) ((ofCore (fun c => { c with id := m.dst, rrbase := 64#13, clsbase := 32#13 }) s).poke
    (lmLoc m.dst (32 * 32 + 12)) (leBytes 4 0x41) false)

def tdecMsg (n : Nat) : Msg := msg 3 (leBytes 16 (0x200 + n * 2 ^ 32))

theorem no_idle_wait {s : State} (h : ∀ k, (s.ctx k).wait = none) :
    ∀ k, ∀ w ∈ (s.ctx k).wait, ∀ n d, w.wait ≠ .idle n d := fun k w hw => by simp [h k] at hw

def idles : Wait → Bool
  | .idle _ _ => true
  | _ => false

theorem no_idle {s : State} (h : ∀ k, ((s.ctx k).wait.any fun w => idles w.wait) = false) :
    ∀ k, ∀ w ∈ (s.ctx k).wait, ∀ n d, w.wait ≠ .idle n d := fun k w hw n d e => by
  have := h k
  simp only [Option.mem_def] at hw
  simp [hw, e, idles] at this

theorem quiet {s : State} (h : ∀ k, (s.slot k).sheaf = Sheaf.empty) : Quiet s := fun k secs => by
  rw [h k]; simp [Sheaf.touches, Sheaf.meets, Sheaf.empty]

theorem receives {s : State} {m : Msg} {kind : Fin 8}
    (h : s.event = .msg m ∧ m.kind = kind ∧ m.payload.length = 16 + 32 * m.flits.val ∧ m.dst = s.core.id ∧
      s.core.mode = .running ∧ s.core.scrubbing = false ∧ s.core.handoff = none ∧ s.core.kernel.isSome = true ∧
      (kind ≠ 2 → m.pkey = s.core.pkey) ∧ (∀ x ∈ s.core.arrived, x.src ≠ m.src) ∧
      (∀ k, (s.slot k).sheaf = Sheaf.empty) ∧ ∀ k, ((s.ctx k).wait.any fun w => idles w.wait) = false) :
    Receives s m kind := by
  obtain ⟨a, b, c, d, e, f, g, i, j, k, l, n⟩ := h
  exact ⟨a, b, c, d, e, f, g, i, j, k, quiet l, no_idle n⟩

/-- A kernel header of Table 14.1. -/
def headerNum (slots lm cls tm entry gang : Nat) : Nat :=
  1 + (slots - 1) * 2 ^ 8 + 2 ^ 10 + gang * 2 ^ 11 + lm * 2 ^ 32 + cls * 2 ^ 64 + tm * 2 ^ 96 + entry * 2 ^ 128 + 5 * 2 ^ 160

/-- A launch message with START (R213), and a core of the gang's level with the header at the start of its LM. -/
def launch : Msg :=
  ⟨6, 1, 0#8, 0#32, 0#12, 0#13, 16#13, 0#12, leBytes 48 ((lmCode 0x1000).bits.toNat + 5 * 2 ^ 128 + 77 * 2 ^ 140 +
    3 * 2 ^ 172 + 16 * 2 ^ 176 + 2 ^ 189)⟩

def launched : State :=
  ev (.msg launch) (pk 0 (leBytes 64 (headerNum 4 65536 96 128 0x40 1)) ((ofCore (fun c => { c with ran := true })
    (idle.setSysReg (sysAddr 0 0 0 9 0) 2#64)).modCluster fun c => { c with tenant := some 5#12 }))

def sup (s : State := user) : State := ofCtx (fun c => { c with level := .supervisor }) s
def mon (s : State := user) : State := ofCtx (fun c => { c with level := .monitor }) s
def inWait (w : Wait) (s : State := user) : State := ofCtx (fun c => { c with wait := some ⟨w, c.pc⟩ }) s
def sx (f : TrapRegs → TrapRegs) (s : State := user) : State := ofCtx (fun c => { c with sx := f c.sx }) s
def mx (f : TrapRegs → TrapRegs) (s : State := user) : State := ofCtx (fun c => { c with mx := f c.mx }) s

/-- In a handler at supervisor level, come from user level. -/
def inHandler (s : State := user) : State := sup (sx (fun r => { r with stat := 4#22, pc := lmCode 0x80, cause := 0x40#16 }) s)

def block : Drill := ⟨0x40, 3, 4, 5, 1, 0, [⟨none, .nop, 4⟩, ⟨none, .nop, 4⟩, ⟨none, .nop, 4⟩], true⟩

def withFrame (f : Frame) (s : State := user) : State :=
  (s.modModule fun m => { m with silo := 1 }).modDie fun d =>
    { d with frames := [(4, { f with home := s.kernelHome, enclave := s.enclaveKey }), (9, { f with home := some (3, 7#12) })] }

def frameAt (l : Level) : Frame :=
  { ctx := { user.ctx 0 with level := l, sx := { (user.ctx 0).sx with stat := 4#22, pc := lmCode 0x90 } }, level := l,
    ports := [],
    engines := [], leave := none, home := none, enclave := none, entries := [], entry := none, spilled := false }

def smallKern : Kernel := { kern with gang := 1, gw := 0, gh := 0, lmsize := 65536 }

/-- A kernel and the header of a successor at offset 0 of LM; g6 reaches it. -/
def succeeding (h : Nat) (mask : Nat) : State :=
  put [(6, lmCode 0), (7, dat mask)] (pk 0 (leBytes 64 h) (ofCore fun c => { c with kernel := some smallKern, tmbase :=
    32#13 }))

def handing (h : Nat) : State :=
  inWait .handoff (ofCore (fun c => { c with handoff := some ⟨0, lmCode 0, BitVec.ofNat 512 h, 0#128, [], none⟩ })
    (succeeding h 0))

theorem taken {s : State} {k : SlotId} {f : Fifo} {c : Command} {rest : List Command}
    (h : ((s.slot k).engine f).taken = c :: rest ∧ c.owner = none ∧ c.progress = Progress.start ∧ s.enginesWait = false ∧
      s.behindAnother f c = false ∧ s.event = .slot k ∧ (∀ k, (s.slot k).sheaf = Sheaf.empty) ∧ ∀ m ∈ s.onTheWay, m.kind ≠ 5) :
    Taken s k f c rest :=
  let ⟨a, b, c, d, e, g, i, j⟩ := h
  ⟨⟨a, b, c, d, e, g, quiet i⟩, j⟩

/-- A command: OPC, ARG and its elements (R157). -/
def cmd (opc arg : Nat) (els : List Reg) : Command :=
  ⟨dat (opc * 2 ^ 120 + els.length * 2 ^ 117 + 7 * 2 ^ 96 + arg) :: els, .user, [], 5#12, 0, false, 0, Progress.start, none⟩

def engine (f : Fifo) (c : Command) (s : State := user) : State :=
  ev (.slot 0) (s.modSlot 0 fun x => x.setEngine f { x.engine f with taken := [c] })

def ourLm (off : Nat) : Nat := lmLoc 16#13 off

def copyCmd : Command := cmd 1 48 [lmCap 0x1000 64, lmCap 0x2000 48]
def fillCmd : Command := cmd 2 48 [lmCap 0x1005 48, dat 7]
def shortCmd : Command := cmd 1 48 [lmCap 0x1000 64, lmCap 0x2000 47]

/-- An extent copy of 100 bytes, and an extent table of 3 entries with the entry that the copy names. -/
def extentCmd : Command := cmd 3 100 [dat (2 + 77 * 2 ^ 32 + 0x40 * 2 ^ 48), lmCap 0x3000 256]
def extentNum : Nat := 3 + 2 ^ 32 + 77 * 2 ^ 48 + 0x5000 * 2 ^ 128 + 0x1000 * 2 ^ 192
def extents : State :=
  let s := engine .e0 extentCmd
  ((s.setSysReg (s.controlBlock 0x28) 0x10000#64).setSysReg (s.controlBlock 0x30) 3#64).poke 0x10040 (leBytes 32 extentNum)
    false

/-- A gather and a scatter of 3 rows of 16 bytes by the indices 2, 0 and 3. -/
def gatherCmd : Command := cmd 0x20 (16 + 3 * 2 ^ 32) [lmCap 0x1000 64, lmCap 0x2000 64, lmCap 0x3000 48]
def scatterCmd : Command := cmd 0x21 (16 + 3 * 2 ^ 32) [lmCap 0x1000 64, lmCap 0x3000 48, lmCap 0x2000 64]
def gathering (c : Command) : State := pk 0x1000 (leBytes 12 (2 + 3 * 2 ^ 64)) (engine .e2 c)
def gatherRow (u : Nat) : Nat := ourLm (0x2000 + 16 * ([2, 0, 3].getD u 0))

def pushCmd : Command := cmd 0x70 63 [dat 1, dat 2, dat 3, dat 4]
def popCmd : Command := cmd 0x71 63 []
def boundTo (g : Nat) (s : State) : State := s.setSysReg (sysAddr 0 0 0 7 40) (BitVec.ofNat 64 (8 + g))
def withOut (n : Nat) (s : State) : State :=
  s.setOutbox 3 63 { s.outboxOf 3 63 with entries := List.replicate n (List.replicate 64 7#8) }
def withIn (n : Nat) (s : State) : State :=
  s.setInbox 3 63 { s.inboxOf 3 63 with entries := List.replicate n (List.replicate 64 7#8) }

/-- A collective: OPC, the width code, the reduction and the number of members, on 7 elements. -/
def collCmd (opc width op members : Nat) : Command :=
  cmd opc ((if opc = 0x34 then 0 else 7) + width * 2 ^ 32 + op * 2 ^ 36 + members * 2 ^ 48)
    (if opc = 0x34 then [lmCap 0x1000 64] else [lmCap 0x1000 64, lmCap 0x2000 64, lmCap 0x3000 64])
def collecting (c : Command) (peers : List PeerData) : State :=
  ev (.collective 0 peers) (pk 0x1000 (leBytes 4 (16 + 33 * 2 ^ 16)) (engine .e3 c))
def other : PeerData := { core := 33#13, data := leBytes 28 7 }

/-- A table set in LM at 0x1000 with a vocabulary of 20 tokens, EOS 3 and `merges` merge rules. -/
def textHeader (merges : Nat) : Nat :=
  20 * 2 ^ 160 + 3 * 2 ^ 192 + 64 * 2 ^ 224 + 0x600 * 2 ^ 256 + 0x700 * 2 ^ 288 + merges * 2 ^ 320 + 0x500 * 2 ^ 352 + 2 ^ 400 +
    0x800 * 2 ^ 416 + 0x900 * 2 ^ 448
def tables (merges : Nat) (s : State) : State :=
  pk 0x1614 (leBytes 8 (10 + 13 * 2 ^ 32)) (pk 0x1500 (leBytes 12 (7 + 8 * 2 ^ 32)) (pk 0x1144 (leBytes 12 (7 + 8 * 2 ^ 32))
    (pk 0x1000 (leBytes 64 (textHeader merges)) s)))
def tableCap : Reg := lmCap 0x1000 0x1000
def text : Text := ⟨some tableCap, false, 0, [], [1#8], false, 0, [[2#8, 3#8]]⟩
def texting (c : Command) (merges : Nat) : State :=
  let s := tables merges (engine .e1 c)
  pk 0x2000 [65#8, 66#8] (s.setSeq 4 { s.seq 4 with isOpen := true, tenant := 5#12, text := text })
def openCmd : Command := cmd 0x10 4 [tableCap, lmCap 0x2000 160]
def encodeCmd : Command := cmd 0x11 4 [lmCap 0x2000 64, lmCap 0x3000 64, dat 2]
def stepCmd : Command := cmd 0x12 4 [lmCap 0x2000 64, lmCap 0x3000 64, dat 1]
def maskCmd : Command := cmd 0x13 4 [lmCap 0x2000 3, dat 20]

theorem harrows {s : State} {l : List (Fin 8)}
    (h : Room s ∧ (s.core.kernel.any fun k => k.harrow) = true ∧ ∀ p ∈ l, s.sliceAvailable p = true) : Harrows s l := by
  obtain ⟨a, b, c⟩ := h
  cases e : s.core.kernel with
  | none => simp [e] at b
  | some k => exact ⟨a, ⟨k, e, by simpa [e] using b⟩, c⟩

/-- At service level 2, where all slices are available (Table 28.3). -/
def leveled : State :=
  (user.setSysReg (sysAddr 0 0 0 9 0) 2#64).modHarrow fun h => { h with slices := h.slices.map fun x =>
    { x with unmapped := false } }

/-- A core with the map `m` in its table at 1024 of LM, FMTA and FMTB `f`, at service level 2. -/
def harrow (f : Nat) (m : Nat) : State :=
  let s := ofCore (fun c => { c with tmbase := 32#13 }) leveled
  put [(6, lmCap 0x4000 0x1000), (7, lmCap 0x8000 0x8000)] (pk 1024 (leBytes 64 m) (ofCtx (fun c =>
    { c with hfmt := BitVec.ofNat 8 (17 * f) }) s))

def slices (f : Slice → Slice) (s : State) : State := s.modHarrow fun h => { h with slices := h.slices.map f }
def plane (f : Nat) : Plane := ⟨BitVec.ofNat 4 f, true, []⟩
def goMap : Nat := mapOf 0 4 [(8, 16)]

/-- Operation 3 of rows 62 and 63 on operands of format 0, and its slot. -/
def going (word : Nat) : State := slices (fun x => { x with active := plane 0 }) (put [(5, dat word)] ((harrow 0
    goMap).modSlot 0 fun x => { x with grant := some 1 }))
def goPat : Pattern := mapPattern goMap (lmCap 0x4000 0x1000).bits
def op (begun ended : Bool) : Operation := ⟨62, 2, 40, true, 0#4, 0#4, goPat, [], [], [], begun, ended, [], [], []⟩
def inOp (o : Operation) (oc : Bool) (s : State := harrow 0 goMap) : State := s.modOp 3 fun x =>
  { x with oc := oc, op := some o }

def drain (next : Nat) : Drain := ⟨lmCap 0x8000 0x8000, true, 0x3F800, 16#13, 99#32, true, true, 3#8, 1, 63, false, next,
    false, 0#6, 0#12, 0⟩
def draining (next : Nat) (w : List RowWork) : State :=
  reached (msg 0 (leBytes 16 0)) (idle.modHarrow fun h => { h with drains := [drain next], work := w })

/-- A capability over the sequences of the module with its address at `n`. -/
def seqCap (n : Nat) : Reg := { makeCap 0xFFF 0 1024 with bits := withAddr (makeCap 0xFFF 0 1024).bits n }

def pred (c : Nat) (l : List Nat) : Prediction := ⟨c, l.map (BitVec.ofNat 32), 77#128, ⟨none, false, 0, [], [], false, 0, []⟩⟩

/-- An open sequence of 7 tokens, with slots of predictions. -/
def seqOf (l : Vector (Option Prediction) 4) : Seq :=
  { Seq.closed with isOpen := true, tenant := 5#12, kvlen := 7, slots := l, made := [.token ⟨9#32, 5, true⟩, .token ⟨10#32,
    6, false⟩] }

def onePred : Seq := seqOf #v[none, some (pred 5 [9, 10, 11]), none, none]
def fullPreds : Seq := seqOf #v[some (pred 2 [1]), some (pred 5 [9, 10, 11]), some (pred 6 [10]), some (pred 7 [12])]

/-- g6 reaches sequence 3, which is `x`. -/
def atSeq (x : Seq) (l : List (RegIdx × Reg)) : State := put ((6, seqCap 3) :: l) (user.setSeq 3 x)

/-- A reply of tokens in LM at 0x2000, which g7 reaches. -/
def replying (l : List Nat) (x : Seq) : State :=
  pk 0x2000 ((l.map (leBytes 4)).flatten) (atSeq x [(7, lmCap 0x2000 (4 * l.length))])

def ofModule (f : Module → Module) (s : State := user) : State := s.modModule f
def phase (p : Phase) : State := ofModule fun m => { m with phase := p }
def register (a v : Nat) (s : State := user) : State := ev (.register (BitVec.ofNat 68 a) (BitVec.ofNat 64 v)) s

/-- The module's membership and next membership of an enclosure, its state RUNNING (R374). -/
def memberOf (m n : Nat) (s : State := user) : State :=
  ((s.setSysReg encMemb (BitVec.ofNat 64 m)).setSysReg encNext (BitVec.ofNat 64 n)).setSysReg encStat 2#64

def settings : Settings := ⟨none, some 16, some 1279, [], none, []⟩
def mailbox (n : Nat) (cred : Bool := false) : State :=
  (user.setOutbox 7 63 { user.outboxOf 7 63 with entries := List.replicate n [], headseq := 1#32 }).setInbox 7 63
    { user.inboxOf 7 63 with entries := List.replicate n [], credEn := cred }
/-- A window of the host on its first page, which a load may use: coherent or not (R354, R355). -/
def hostWindowed (coh : Bool) : State := (boundTo 3 user).setSysReg (sysAddr 0 0 0 7 (0x8000 + 256 * 3)) (if coh then 11#64 else 9#64)
def entry64 : List Byte := List.replicate 64 7#8
def handover (st : HandoverState) : Handover := ⟨st, default, 3, 5, 6#12, 7#256⟩
def handingOver (st : HandoverState) : State :=
  (ofModule (fun m => { m with handovers := [(4, handover st)], silo := 1 }) (memberOf 9 9)).modDie fun d => { d with
    frames := [(4, default)] }
def spdm (n : Nat) : State := ofModule fun m => { m with negotiated := n, sessions := [⟨3#32, true, 2⟩] }
def knowing (s : State) : State := ofModule (fun m => { m with identity := some ⟨0#256, 0#256, some 0#256, none⟩ }) s

def block3 (live : Bool) (pos pass : Nat) : Drill :=
  ⟨0xD * 2 ^ 68 + 0x40, 3, 4, 5, pass, pos, [⟨none, .nop, 4⟩, ⟨none, .nop, 4⟩, ⟨none, .nop, 4⟩], live⟩
def drilling (live : Bool) (pos pass : Nat) : State := ofCtx fun c => { c with drill := some (block3 live pos pass) }
def trapInfo (cause : Nat) : TrapInfo := ⟨cause, 5#128, 6#128, true, false⟩

/-- Slots 0 to 2 hold firings and have waited so long. -/
def waited (w0 w1 w2 : Nat) (ipol : Bool) (last : SlotId) : State :=
  ofCore (fun c => { c with ipol := ipol, last := last }) (((user.modSlot 1 fun x => { x with ctx := user.ctx 0, waited :=
    w1 }).modSlot 2
    fun x => { x with ctx := user.ctx 0, waited := w2 }).modSlot 0 fun x => { x with waited := w0 })

def page : Nat := 0x3 * 2 ^ 68 + 0x123456789ABCDEF00

/-- Page tables from frame 0x100 down to an entry at level 2 for the address `page`, which g6 reaches (R299). -/
def mapped (e : Nat) : State :=
  let s := user.setSysReg (user.controlBlock 0x20) (BitVec.ofNat 64 (0x100 * 2 ^ 12 + 1))
  let s := [6, 5, 4, 3].foldl (fun s l => s.poke ((0x106 - l) * 2 ^ 12 + 8 * walkIndex page l) (leBytes 8 ((0x107 - l) * 2 ^ 12 + 1)) false) s
  let c := makeCap 0xFFF page (page + 64)
  put [(6, { c with bits := withAddr c.bits page })] (s.poke (0x104 * 2 ^ 12 + 8 * walkIndex page 2) (leBytes 8 e) false)

/-- A leaf: V, LEAF, R and the bits given, of a page of 1 GiB. -/
def leafOf (bits : Nat) : Nat := 0x40000 * 2 ^ 12 + 3 + bits

theorem leads (e : Nat) (s : State)
    (h : ([6, 5, 4, 3].all fun l =>
        decide (EntryIs s ((0x106 - l) * 2 ^ 12 + 8 * walkIndex page l) ((0x107 - l) * 2 ^ 12 + 1)) &&
          !s.pteMalformed s.core.tenant ((0x107 - l) * 2 ^ 12 + 1) l) = true ∧
      EntryIs s (0x104 * 2 ^ 12 + 8 * walkIndex page 2) e ∧ e % 2 = 1 ∧ s.pteMalformed s.core.tenant e 2 = false ∧ fld e 1
      1 = 1 ∧
      s.root = 0x100) : Leads s page s.root levels e 2 := by
  obtain ⟨h, h2, h3, h4, h5, h6⟩ := h
  simp only [List.all_cons, List.all_nil, Bool.and_true, Bool.and_eq_true, decide_eq_true_eq, Bool.not_eq_true'] at h
  obtain ⟨⟨a6, b6⟩, ⟨a5, b5⟩, ⟨a4, b4⟩, ⟨a3, b3⟩⟩ := h
  rw [h6]
  exact .table 0x100 6 _ _ _ _ a6 (by decide) b6 (by decide) (.table 0x101 5 _ _ _ _ a5 (by decide) b5 (by decide)
    (.table 0x102 4 _ _ _ _ a4 (by decide) b4 (by decide) (.table 0x103 3 _ _ _ _ a3 (by decide) b3 (by decide)
      (.leaf 0x104 2 _ _ h2 h3 h4 h5))))

/-- The words of instructions at the program counter of slot 0, with no event due. -/
def code (l : List (Nat × Instr)) : State :=
  { pk 0x100 ((l.map fun x => leBytes x.1 ((encode x.2).getD 0)).flatten) (put [(6, dat 5)]) with agenda := [], eventTurn
    := false }

/-- An action that answers, with what it answers. -/
def answers {α : Type} (a : Act α) (s : State) (p : α → State → Bool) : Bool :=
  match a s with
  | .ok x t => p x t
  | .error _ _ => false

theorem answers_ok {α : Type} {a : Act α} {s : State} {p : α → State → Bool} (h : answers a s p = true) :
    ∃ x t, a s = .ok x t ∧ p x t = true := by
  unfold answers at h
  split at h
  · exact ⟨_, _, ‹_›, h⟩
  · cases h

theorem units_free {s : State} (h : ∀ b, (s.unitHold b).all (fun h => h.slot == s.cur) = true) : UnitsFree s :=
  fun b x e => by simpa [e] using h b

/-! ### States and operands that meet the hypotheses of the statements -/

theorem hyps_ImmediateTransfersGoToTheirTarget : ∃ (s : State) (i : Instr) (rs : List RegIdx) (off : Int) (f : Ctx → Ctx),
    Room s ∧ immediateForm (here s) i = some (rs, off, f) ∧ Unbound s rs ∧ target (here s).code.bits (ownAddr (here s) + off)
    :=
  ⟨user, .jal 8#25, [], 16, fun x => x.setReg 1 (link (here user) 4), by decide +kernel, rfl, by decide +kernel, by
    decide +kernel⟩

theorem hyps_ImmediateTransfersCheckBounds : ∃ (s : State) (i : Instr) (rs : List RegIdx) (off : Int) (f : Ctx → Ctx), Room s
    ∧ immediateForm (here s) i = some (rs, off, f) ∧ Unbound s rs ∧ ¬ target (here s).code.bits (ownAddr (here s) + off) :=
  ⟨user, .jmp 0x1000000#25, [], -0x2000000, id, by decide +kernel, rfl, by decide +kernel, by decide +kernel⟩

theorem hyps_UntakenBranchesGoOn : ∃ (s : State) (r : RegIdx), Room s ∧ s.streamed r = false :=
  ⟨user, 3, by decide +kernel⟩

theorem hyps_RegisterTransfersGoToTheirCapability : ∃ (s : State) (i : Instr) (a : RegIdx) (d : Option RegIdx) (len : Nat),
    Room s ∧ registerForm i = some (a, d, len) ∧ Unbound s (a :: d.toList) ∧ goodTarget ((here s).reg a) :=
  ⟨put [(31, lmCode 0x40)], .jalr 31 31, 31, some 31, 4, by decide +kernel⟩

theorem hyps_HintsHaveNoOtherEffect : ∃ s : State, Room s :=
  ⟨user, by decide +kernel⟩

theorem hyps_GuardsReadTheirBit : ∃ (s : State) (r : RegIdx) (n : Fin 128) (pol : Bool) (w : Nat), s.streamed r = false ∧
    ((here s).reg r).tag = false ∧ encode (if pol then .whenSet r n else .unlessSet r n) = some w :=
  ⟨user, 15, 127, true, (encode (.whenSet 15 127)).getD 0, by decide +kernel⟩

theorem hyps_DrillAcquiresTheBuffer : ∃ s : State, Room s ∧ (here s).drill = none ∧ s.core.drillOwner = none ∧
    s.bufferWanted s.cur = false :=
  ⟨user, by decide +kernel⟩

theorem hyps_IllegalEncodingsTrap : ∃ s : State, Room s :=
  ⟨user, by decide +kernel⟩

theorem hyps_CapabilitiesAreNotForged : ∃ (s : State) (i : Instr) (r : Result), Room s ∧ capability (here s) i = some r ∧
    Unbound s r.uses :=
  ⟨put [(5, lmCap 0x40 64)], .cclrtag 31 5, outCap [31, 5] 31 ⟨(lmCap 0x40 64).bits, false⟩, by decide +kernel, rfl, by
    decide +kernel⟩

theorem hyps_MovedCapabilitiesKeepTheirBounds : ∃ (s : State) (d a b : RegIdx) (imm : BitVec 15) (i : Instr), i ∈
    [Instr.csetaddr d a b, .cincaddr d a b, .cincaddri d a imm] ∧ d ≠ 0 ∧ Room s ∧ Unbound s [d, a, b] ∧ loose ((here s).reg
    a) = true :=
  ⟨put [(5, lmCap 0x40 64)], 31, 5, 0, (-0x4000#15), .cincaddri 31 5 (-0x4000#15), by decide +kernel⟩

theorem hyps_LoadsWriteWhatTheSlotSees : ∃ (s : State) (i : Instr) (l : Load) (loc : Nat), Room s ∧ loadForm i = some l ∧
    Unbound s [l.d, l.a] ∧ l.order.Ready s ∧ Touches s l.a l.off l.n [.load] loc ∧ Free s loc l.n false :=
  ⟨put [(5, lmCap 0x3FFF0 16)], .lda 31 5 .q .dev, (loadForm (.lda 31 5 .q .dev)).get rfl, lmLoc 16#13 0x3FFF0, by
    decide +kernel, rfl, by decide +kernel⟩

theorem hyps_CapabilityLoadsBringTheTag : ∃ (s : State) (d a : RegIdx) (imm : BitVec 15) (loc : Nat), Room s ∧ Unbound s [d,
    a] ∧ Touches s a imm.toInt 16 [.load] loc ∧ Free s loc 16 false :=
  ⟨put [(5, lmCap 0x3FFF0 16)], 31, 5, 0#15, lmLoc 16#13 0x3FFF0, by decide +kernel⟩

theorem hyps_StoresAreHeldInTheSheaf : ∃ (s : State) (i : Instr) (x : Store) (loc : Nat), Room s ∧ storeForm i = some x ∧
    Unbound s [x.a, x.b] ∧ x.order.Ready s ∧ Touches s x.a x.off x.n (x.perms (here s)) loc ∧ Fits s loc x.n true :=
  ⟨put [(5, lmCap 0x3FFF0 16), (6, lmCap 0 1)], .stC 5 6 0#15, (storeForm (.stC 5 6 0#15)).get rfl, lmLoc 16#13 0x3FFF0, by
    decide +kernel, rfl, by decide +kernel⟩

theorem hyps_StoresChangeOnlyTheirBytes : ∃ (s : State) (i : Instr) (x : Store) (loc : Nat), Room s ∧ storeForm i = some x ∧
    wide x.order.sc = false ∧ Unbound s [x.a, x.b] ∧ Touches s x.a x.off x.n (x.perms (here s)) loc ∧ Fits s loc x.n true :=
  ⟨put [(2, lmCap 0x3FE00 512)], .stD16 6 63#6, (storeForm (.stD16 6 63#6)).get rfl, lmLoc 16#13 0x3FFF8, by decide +kernel,
    rfl, by decide +kernel⟩

theorem hyps_AtomicsReturnTheOldValue : ∃ (s : State) (i : Instr) (x : Atomic) (loc : Nat), Room s ∧ atomicForm i = some x ∧
    Unbound s [x.d, x.a, x.b] ∧ x.order.Ready s ∧ Touches s x.a 0 (widthBytes x.sz) [.load, .store] loc ∧ Free s loc
    (widthBytes x.sz) false ∧
    Fits s loc (widthBytes x.sz) true :=
  ⟨put [(5, lmCap 0x3FFF0 16)], .amocasq 31 5 6 .sys, (atomicForm (.amocasq 31 5 6 .sys)).get rfl, lmLoc 16#13 0x3FFF0, by
    decide +kernel, rfl, by decide +kernel⟩

theorem hyps_FencesEndTheirSheafAtWideScopes : ∃ (s : State) (i : Instr) (o : Order), Room s ∧ fenceForm i = some o ∧
    o.Ready s :=
  ⟨user, .fence .both .sys, ⟨true, true, .sys⟩, by decide +kernel, rfl, by decide +kernel⟩

theorem hyps_SheafEndsTheSheaf : ∃ s : State, Room s :=
  ⟨user, by decide +kernel⟩

/-- A page of host memory that user level may read and write, which g6 reaches; g7 is tagged. -/
def hostPage : State := put [(7, lmCap 0 1)] (mapped (leafOf ((0x80000000000 - 0x40000) * 2 ^ 12 + 0x1AC)))
def hostVa : Nat := operand (here hostPage) 6 0

theorem host_page_there : ∃ (r : Nat × Nat) (u : State), leafFor { hostPage.view with tagged := true } hostVa .store
    (hostPage.openSheaf hostPage.cur) = .ok r u ∧ pteHome r.1 ≠ 1 ∧ hostBase ≤ physical r.1 r.2 hostVa := by
  obtain ⟨r, u, h, e⟩ := answers_ok (a := leafFor { hostPage.view with tagged := true } hostVa .store)
    (s := hostPage.openSheaf hostPage.cur) (p := fun r _ => decide (pteHome r.1 ≠ 1 ∧ hostBase ≤ physical r.1 r.2 hostVa))
    (by decide +kernel)
  exact ⟨r, u, h, of_decide_eq_true e⟩

theorem hyps_AccessesAreChecked :
    (∃ (s : State) (i : Instr) (x : Checked) (cause : _), Room s ∧ checkedForm (here s) i = some x ∧ Unbound s x.uses ∧
    x.order.Ready s ∧ (let at_ := operand (here s) x.a x.off; capFault ((here s).reg x.a) (x.ps ++ regionPerms at_) at_ x.n =
    some cause)) ∧
    (∃ (s : State) (i : Instr) (x : Checked), Room s ∧ checkedForm (here s) i = some x ∧ Unbound s x.uses ∧ x.order.Ready s ∧
    (let at_ := operand (here s) x.a x.off; capFault ((here s).reg x.a) (x.ps ++ regionPerms at_) at_ x.n = none ∧ at_ % x.n ≠
    0)) ∧
    (∃ (s u : State) (a b : RegIdx) (off : BitVec 15) (e level : Nat), Room s ∧ Unbound s [a, b] ∧ ((here s).reg b).tag = true ∧
    (let at_ := operand (here s) a off.toInt; capFault ((here s).reg a) [.store, .storecap] at_ 16 = none ∧ at_ % 16 = 0 ∧
    regionOf at_ < 0xC ∧ leafFor { s.view with tagged := true } at_ .store (s.openSheaf s.cur) = .ok (e, level) u ∧
    pteHome e ≠ 1 ∧ hostBase ≤ physical e level at_)) := by
  obtain ⟨r, u, h, h'⟩ := host_page_there
  exact ⟨⟨put [(5, lmCap 0x100 16)], .ldzB 31 5 16#15, (checkedForm (here user) (.ldzB 31 5 16#15)).get rfl, 0x185,
      by decide +kernel, rfl, by decide +kernel⟩,
    ⟨put [(5, lmCap 0x104 8)], .amoadd 31 5 6 .d .sys, (checkedForm (here user) (.amoadd 31 5 6 .d .sys)).get rfl,
      by decide +kernel, rfl, by decide +kernel⟩,
    by refine ⟨hostPage, u, 6, 7, 0#15, r.1, r.2, ?_, ?_, ?_, ?_, ?_, ?_, h, h'⟩ <;> decide +kernel⟩

theorem hyps_SbindBindsAPattern : ∃ (s : State) (d a : RegIdx) (p : Bool) (tm : Fin 16), Room s ∧ Unbound s [a] ∧ (s.port
    (portOf d)).bound = none ∧ s.freedElsewhere s.cur (portOf d) = false ∧ s.mapOffset tm + 64 ≤ s.allocation ∧ Fits s
    (s.lm (s.mapOffset tm)) 64 false ∧ mapValid
    (mapBits s tm) = true ∧ (let c := (here s).reg a; let pat := mapPattern (mapBits s tm) c.bits; capFaultSpan c [if p then
    .store else .load] pat.span.1 pat.span.2 = none ∧ pat.aligned pat.itemBytes = true ∧ pat.near = true) :=
  ⟨pk 1024 (leBytes 64 (mapOf 0 4 [(4, 16)])) (put [(5, lmCap 0x4000 64)] (ofCore fun c => { c with tmbase := 32#13 })), 24,
    5, true, 0, by decide +kernel⟩

theorem hyps_SbindchBindsAChannel : ∃ (s : State) (d a : RegIdx) (p : Bool) (h : Fin 16), Room s ∧ Unbound s [a] ∧ (s.port
        (portOf d)).bound = none ∧ s.freedElsewhere s.cur (portOf d) = false ∧ usable (s.handle h) p ∧ 4 ≤ (s.handle
        h).slotlog ∧ 0 < n64 ((here s).reg a).bits ∧ n64 ((here
    s).reg a).bits < 2 ^ 32 :=
  ⟨put [(5, dat 0xFFFFFFFF)] (onHandle id), 31, 5, false, 3, by decide +kernel⟩

theorem hyps_SfreeUnbinds : ∃ (s : State) (a : RegIdx), Room s ∧ (s.port (portOf a)).bound.isSome = true ∧ (s.port (portOf
    a)).owner = some s.cur ∧ ((s.port (portOf a)).write = true → s.flushed (portOf a) = true) :=
  ⟨onPort id, 24, by decide +kernel⟩

theorem hyps_SskipPassesElements :
    (∃ (s : State) (a : RegIdx) (n : Fin 64) (pat : _), Room s ∧ (let x := s.port (portOf a); x.owner = some s.cur ∧ x.write =
    false ∧ x.moved + (n.val + 1) ≤ x.trip ∧ x.bound = some (.pattern pat))) ∧
    (∃ (s : State) (a : RegIdx) (n : Fin 64) (h : _), Room s ∧ (let x := s.port (portOf a); x.owner = some s.cur ∧ x.write =
    false ∧ x.moved + (n.val + 1) ≤ x.trip ∧ x.bound = some (.channel h) ∧ (s.handle h).pos < 2 ^ (s.handle h).countlog ∧
        slotsAhead (s.handle h).elements x.moved (n.val + 1) ≤ (s.handle h).avail ∧
    s.netLacks (s.creditsFor x (upFrom x.moved (n.val + 1))) = false)) :=
  ⟨⟨onPort id, 24, 3, pat, by decide +kernel⟩,
    ⟨onPort (fun x => { x with bound := some (.channel 3) }) (onHandle fun x => { x with avail := 2, pos := 15 }), 24, 3, 3,
    by decide +kernel⟩⟩

theorem hyps_StreamStatusFields : ∃ (s : State) (d : RegIdx), Room s ∧ Unbound s [d] ∧ d ≠ 0 :=
  ⟨user, 5, by decide +kernel⟩

theorem hyps_StreamFetchesTheNextElement : ∃ (s : State) (p : Fin 8) (k : SlotId) (pat : Pattern), let x := s.port p;
    let i := x.moved + x.fetched.length; s.event = .port p ∧ x.write = false ∧ x.owner = some k ∧ x.bound = some (.pattern
    pat) ∧ x.sector = none ∧ x.fetched.length < 8 ∧ i < x.trip ∧ pat.esize ≤ 4 ∧ (∀ m ∈ pat.elementItems i, pat.itemAddr m %
    pat.itemBytes = 0) ∧ (∀ m ∈ pat.elementItems i, s.isBad (s.nearLoc (pat.itemAddr m)) = false) :=
  ⟨ev (.port 0) (onPort fun x => { x with moved := 3 }), 0, 0, pat, by decide +kernel⟩

theorem hyps_StreamDrainsOneElement : ∃ (s : State) (p : Fin 8), s.event = .port p :=
  ⟨ev (.port 7), 7, by decide +kernel⟩

theorem hyps_BoundSourcesPop : ∃ (s : State) (d a : RegIdx) (pat : Pattern) (e : Element) (rest : List Element), Room s ∧
    Unbound s [d] ∧ 24 ≤ a.val ∧ (let x := s.port (portOf a); x.bound = some (.pattern pat) ∧ x.owner = some s.cur ∧ x.write =
    false ∧ x.moved < x.trip ∧ x.fetched = e :: rest ∧ e.bad = none) :=
  ⟨onPort fun x => { x with moved := 3, fetched := [⟨7#128, none⟩] }, 5, 24, pat, ⟨7#128, none⟩, [], by decide +kernel⟩

theorem hyps_CbinitSetsAHandleUp : ∃ (s : State) (d a : RegIdx) (h : Fin 16), Room s ∧ Unbound s [d, a] ∧
    (let y := ((here s).reg d).bits; let c := (here s).reg a; let x := configHandle y c;
    let size := 2 ^ (x.slotlog + x.countlog); configValid y = true ∧ capFault c (x.ringPerms ++ regionPerms (addrOf c.bits))
    (addrOf c.bits) size = none ∧ addrOf c.bits % 2 ^ x.slotlog = 0 ∧ x.ringNear = true ∧ (x.engine = false → s.inSubmesh
    s.core.tenant x.peer = true) ∧ (s.handle h).stream = false) :=
  ⟨put [(5, dat (4 + 33 % 16 * 2 ^ 25 + 2 * 2 ^ 19)), (6, lmCap 0x4000 16)], 5, 6, 15, by decide +kernel⟩

theorem hyps_ChannelWaits :
    (∃ (s : State) (d a : RegIdx) (h : Fin 16) (producer : Bool) (i : Instr), i = (if producer then .cbfree d a h else .cbwait
    d a h) ∧ Room s ∧ Unbound s [d, a] ∧ (let x := s.handle h; let n := n64 ((here s).reg a).bits; usable x producer ∧ n ≤ 2 ^
    x.countlog ∧ n ≤ x.avail ∧ x.engine = false ∧ dieOf x.peer ≠ s.dieNo ∧ s.acquireWaits (some s.cur) = false)) ∧
    (∃ (s : State) (d a : RegIdx) (h : Fin 16) (producer : Bool) (i : Instr), i = (if producer then .cbfree d a h else .cbwait
    d a h) ∧ Room s ∧ Unbound s [d, a] ∧ (let x := s.handle h; let n := n64 ((here s).reg a).bits; usable x producer ∧ n ≤ 2 ^
    x.countlog ∧ x.avail < n)) :=
  ⟨⟨put [(5, dat 2)] (onHandle fun x => { x with avail := 2, peer := 0x1FFF#13 }), 6, 5, 3, false, .cbwait 6 5 3, by decide +kernel⟩,
    ⟨put [(5, dat 16)] (onHandle fun x => { x with avail := 15, producer := true }), 6, 5, 3, true, .cbfree 6 5 3, by
    decide +kernel⟩⟩

theorem hyps_ChannelSlotsArePassed : ∃ (s : State) (a : RegIdx) (h : Fin 16) (producer : Bool), Room s ∧ Unbound s [a] ∧
    usable (s.handle h) producer ∧ n64 ((here s).reg a).bits ≤ (s.handle h).avail ∧ ((s.handle h).engine = false → s.netFull =
    false) :=
  ⟨put [(5, dat 2)] (onHandle fun x => { x with avail := 2 }), 5, 3, false, by decide +kernel⟩

theorem hyps_EpushAddsAnElement : ∃ (s : State) (a : RegIdx) (f : Fifo), Room s ∧ Unbound s [a] ∧ (let y := (here s).reg a;
    let input := ((s.slot s.cur).engine f).input; let part := incomplete 8 input; let header := (part.getD 0 y).bits;
    input.length < 8 ∧ (part = [] → headerValid f y = true) ∧ (part ≠ [] → elementOk f header part.length y) ∧ (part.length =
    headerLen header → f = .e7 → StoresAnswered s) ∧ (part.length = headerLen header → ∀ l, leaveFor f header = some l →
    holdsLeave (s.slot s.cur) l = true)) := by
  refine ⟨put [(5, dat (0x71 * 2 ^ 120 + 63))], 5, .e7, ?_, ?_, ?_, ?_, ?_, ?_, fun _ _ h => nomatch h⟩ <;> decide +kernel

/-- A copy that has answered and has its last bytes still to write. -/
def lateCmd : Command := { copyCmd with progress := { Progress.start with late := [(ourLm 0x2000, 0#10, [7#8])] } }
def lateCopy : State := user.modSlot 0 fun x => x.setEngine .e0 { x.engine .e0 with taken := [lateCmd], output := [5#128] }

theorem hyps_EngineQueuesAreRead :
    (∃ (s : State) (d : RegIdx) (f : Fifo) (e rest : _), Room s ∧ Unbound s [d] ∧ ((s.slot s.cur).engine f).output = e :: rest ∧
    ∀ c, s.taken s.cur f = some c → c.progress.late = []) ∧
    (∃ (s u : State) (d : RegIdx) (f : Fifo) (e rest : _) (c : Command), Room s ∧ Unbound s [d] ∧
    ((s.slot s.cur).engine f).output = e :: rest ∧ s.taken s.cur f = some c ∧ c.progress.late ≠ [] ∧
    (let popped := fun t : State =>
      ((t.modSlot s.cur fun y => y.setEngine f { y.engine f with output := rest }).note s.cur (.result f e)).modCtx s.cur
        fun c => c.setReg d (Reg.data e); (popped (s.openSheaf s.cur)).settleLate s.cur f (some s.cur) = some u)) ∧
    (∃ (s : State) (d : RegIdx) (f : Fifo), Room s ∧ Unbound s [d] ∧ ((s.slot s.cur).engine f).output = []) :=
  ⟨⟨user.modSlot 0 fun x => x.setEngine .e7 { x.engine .e7 with output := [5#128] }, 6, .e7, 5#128, [], by decide +kernel,
      by decide +kernel, by decide +kernel, by decide +kernel⟩,
    ⟨lateCopy, _, 6, .e0, 5#128, [], lateCmd, by decide +kernel, by decide +kernel, by decide +kernel, by decide +kernel,
      by decide +kernel, rfl⟩,
    ⟨user, 6, .e0, by decide +kernel⟩⟩

theorem hyps_ResultsReturnInOrder : ∃ (s : State) (k : SlotId) (f : Fifo), s.event = .fifo k f :=
  ⟨ev (.fifo 3 .e2), 3, .e2, by decide +kernel⟩

/-- Registers at the ends of their ranges: the lowest and the highest 64-bit integers, and shift counts. -/

def ends : State := put [(5, dat 63), (6, dat (2 ^ 63)), (7, dat (2 ^ 64 - 1)), (8, dat 64), (9, dat (64 * 2 ^ 8))]

theorem hyps_ArithmeticResults : [.add 31 6 6 .wrap, .add 31 6 6 .signed, .add 31 7 7 .unsigned, .sub 31 6 7 .wrap,
    .sub 31 6 5 .signed, .sub 31 0 7 .unsigned, .mul 31 6 7 .wrap, .mul 31 6 6 .signed, .mul 31 7 7 .unsigned, .neg 31 6 .wrap,
    .neg 31 6 .signed, .abs 31 6 .wrap, .abs 31 6 .signed, .mulh 31 6 6, .mulhn 31 7 7, .min 31 6 7, .max 31 6 7, .minn 31 6 7,
    .maxn 31 6 7, .addi 31 6 0x4000#15, .add16 7 7, .sub16 5 7, .addi16 7 0x20#6, .movi 31 0x80000#20, .movi16 7 0x20#6,
    .movhi 7 0xFFFFF#20].all (meets arithmetic ends) = true := by decide +kernel

theorem hyps_DivisionResults : [.div 31 6 7, .divn 31 6 7, .rem 31 6 7, .remn 31 6 7].all (meets division ends) = true := by
  decide +kernel

theorem hyps_LogicAndShiftResults : [.and 31 6 7, .or 31 6 7, .xor 31 6 7, .not 31 6, .shl 31 7 8, .shr 31 6 8, .sar 31 6 8,
    .rotl 31 6 8, .bset 31 6 5, .bclr 31 6 5, .bflip 31 6 8, .andi 31 6 0x4000#15, .ori 31 6 0x4000#15, .xori 31 6 0x4000#15,
    .shli 31 6 63#15, .shri 31 6 63#15, .sari 31 6 63#15, .and16 5 6, .or16 5 6, .xor16 5 6, .shl16 7 5, .shr16 7 8].all
    (meets logic ends) = true := by decide +kernel

theorem hyps_BitFieldResults : [.clz 31 0, .ctz 31 0, .popc 31 7, .brev 31 6, .bext 31 7 9, .bins 5 7 9, .sext 31 6 .b,
    .sext 31 7 .h, .sext 31 7 .w, .zext 31 7 .b, .zext 31 7 .h, .zext 31 7 .w].all (meets bitwork ends) = true := by
  decide +kernel

theorem hyps_MoveAndCompareResults : [.mov 31 6, .mov16 5 6, .cmp 31 6 7, .cmpi 31 6 0x4000#15, .pand 31 6 7, .por 31 6 7,
    .pxor 31 6 7].all (meets moves ends) = true := by decide +kernel

/-- A capability at the top of LM, a sealer and unsealer of type 255, and that type sealed. -/

def caps : State := put [(5, lmCap 0x3FFF0 16), (6, dat 16), (7, ⟨withAddr (makeCap 0xFFF 0 256).bits 255, true⟩),
  (8, ⟨withOtype (lmCap 0x3FFF0 16).bits 255, true⟩), (9, Reg.data (lmCap 0x3FFF0 16).bits)]

theorem hyps_CapabilityResults : [.cgetaddr 31 5, .cgetperm 31 5, .cgettype 31 8, .cgettag 31 9, .cgetbase 31 5, .cgetlen 31 5,
    .cclrtag 31 8, .csetaddr 31 5 6, .cincaddr 31 5 6, .cincaddri 31 5 0x4000#15, .candperm 31 5 6, .csetbounds 31 5 6,
    .csetboundsx 31 5 6, .cseal 31 5 7, .cunseal 31 8 7, .ctestsub 31 5 9, .cbuild 31 5 9].all (meets capability caps) =
    true := by
  decide +kernel

theorem hyps_FloatResults : [.fadd 31 5 6 .f32, .fsub 31 5 6 .bf16, .fmul 31 5 6 .f32, .fdiv 31 5 0 .f32, .fsqrt 31 6 .bf16,
    .fma 5 6 7 .f32, .fms 5 6 7 .f32, .fnma 5 6 7 .bf16, .fmin 31 5 6 .f32, .fmax 31 5 6 .f32, .fabs 31 7 .f32, .fneg 31 7
    .bf16,
    .fcvt 31 7 .bf16 .f32, .icvtf 31 7 .f32 .n64, .fcvti 31 7 .i8 true .f32, .fcvti 31 7 .i8 false .f32, .fclass 31 7 .f32,
    .fcmp 31 6 7 .bf16].all (meets float ends) = true := by decide +kernel

theorem hyps_VectorResults : [.vadd 31 6 7 .i8, .vsub 31 6 7 .f32, .vmul 31 6 7 .n64, .vmin 31 6 7 .n8, .vmax 31 6 7 .bf16,
    .vfma 5 6 7 .f32, .vscale 31 6 7 .f32, .vdot 5 6 7 .i8, .vsum 31 7 .bf16, .vrmax 31 7 .n32, .vamax 31 7 .f32,
    .vcvt 31 7 .dm8 .f32, .vpack 31 6 7 .i8, .vunpack 31 7 .f32 true .bf16, .vcmp 31 6 7 .i64, .vsel 5 6 7 .i8, .vshuf 31 6
    7 .i8,
    .vbcast 31 7 .i64, .vexp2 31 7 .f32, .vlog2 31 7 .f32, .vrcp 31 7 .f32, .vrsqrt 31 7 .bf16, .vtanh 31 7 .f32,
    .vsin 31 7 .bf16].all (meets vectors ends) = true ∧ UnitsFree ends :=
  ⟨by decide +kernel, units_free (by decide +kernel)⟩

/-- A port with an element fetched and two to move, and one to write with one element to move, of which seven have not
    drained. -/
def popping : State := onPort (fun x => { x with moved := 2, fetched := [⟨7#128, none⟩] }) (put [(6, dat 5)])
def pushing : State := onPort (fun x => { x with write := true, moved := 3, undrained := 7 }) (put [(5, dat 7), (6, dat 5)])

theorem only_port {s : State} {l : List RegIdx} {p : RegIdx}
    (h : (here s).run = none ∧ ∀ g ∈ l, g ≠ p → s.streamed g = false) : OnlyPort s l p := by
  unfold OnlyPort
  rw [h.1]
  exact h.2

theorem hyps_VectorRunsIterate :
    (∃ (s : State) (i : Instr) (p : RegIdx) (e : Element) (rest : List Element) (r : Result), let x := s.port (portOf p);
    let n := x.trip - x.moved; vectors ((iterating s p n).setReg p (Reg.data e.bits)) i = some r ∧ 24 ≤ p.val ∧ r.uses.count p =
    1 ∧ p ≠ r.d ∧ OnlyPort s r.uses p ∧ Room s ∧ UnitsFree s ∧ x.bound.isSome = true ∧ x.owner = some
    s.cur ∧ x.write = false ∧ x.moved < x.trip ∧ x.fetched = e :: rest ∧ e.bad = none ∧
    s.netLacks (s.creditsFor x [x.moved]) = false) ∧
    (∃ (s v : State) (i : Instr) (r : Result), let x := s.port (portOf r.d); let n := x.trip - x.moved;
    vectors (iterating s r.d n) i = some r ∧ readsOwnDest i = false ∧ 24 ≤ r.d.val ∧ r.uses.count r.d = 1 ∧
    OnlyPort s r.uses r.d ∧ Room s ∧ UnitsFree s ∧ x.bound.isSome = true ∧ x.owner = some s.cur ∧ x.write = true ∧ x.moved <
    x.trip ∧ pushPort (portOf r.d) r.value.bits (((s.openSheaf s.cur).holdUnit s.cur (ofSpecial i)).modCtx s.cur fun c =>
    c.raiseFlags r.flags) = .ok () v) := by
  refine ⟨⟨popping, .vadd 5 24 6 .i8, 24, ⟨7#128, none⟩, [], (vectors ((iterating popping 24 2).setReg 24 (Reg.data 7#128))
    (.vadd 5 24 6 .i8)).get (by decide +kernel), (Option.some_get _).symm, ?_⟩, ?_⟩
  · exact by refine ⟨?_, ?_, ?_, only_port (by decide +kernel), ?_, units_free (by decide +kernel), ?_⟩ <;> decide +kernel
  · let r := (vectors (iterating pushing 24 1) (.vadd 24 5 6 .i8)).get (by decide +kernel)
    obtain ⟨_, v, h, _⟩ := answers_ok (a := pushPort (portOf r.d) r.value.bits) (s :=
      ((pushing.openSheaf pushing.cur).holdUnit pushing.cur false).modCtx pushing.cur fun c => c.raiseFlags r.flags)
      (p := fun _ _ => true) (by decide +kernel)
    exact ⟨pushing, v, .vadd 24 5 6 .i8, r, (Option.some_get _).symm, rfl, by decide +kernel, by decide +kernel,
      only_port (by decide +kernel), by decide +kernel, units_free (by decide +kernel), by decide +kernel, by decide +kernel,
      by decide +kernel, by decide +kernel, h⟩

/-- A run at its last step, which holds the vector datapath. -/
def lastStep (s : State := user) : State :=
  ofCore (fun c => { c with vectorHold := some ⟨0, 64⟩ }) (ofCtx (fun c => { c with run := some ⟨0, 1, 0#2, true, [], [5#128]⟩ }) s)

theorem run_whole {s : State} {r : Run} (h : (here s).run = some r ∧ r.popped.length = r.left ∧
    (s.unitHold false).map UnitHold.slot = some s.cur ∧ (∀ k, k ≠ s.cur → (s.slot k).sheaf.solo = false) ∧
    s.windowFlies 0 (2 ^ 100) = false) : RunIsWhole s r := by
  obtain ⟨a, b, c, d⟩ := h
  refine ⟨a, b, ?_, d⟩
  obtain ⟨x, e, f⟩ := Option.map_eq_some_iff.mp c
  exact ⟨x.left, by rw [e, ← f]⟩

theorem hyps_VtopkStoresTheRanking : ∃ (s : State) (r : Run), Room s ∧ RunIsWhole s r :=
  ⟨lastStep, ⟨0, 1, 0#2, true, [], [5#128]⟩, by decide +kernel, run_whole (by decide +kernel)⟩

theorem hyps_VquantStoresCodesAndScales : ∃ (s : State) (r : Run), Room s ∧ RunIsWhole s r :=
  ⟨lastStep, ⟨0, 1, 0#2, true, [], [5#128]⟩, by decide +kernel, run_whole (by decide +kernel)⟩

theorem hyps_VdeqStoresTheValues : ∃ (s : State) (b : RegIdx) (t : ElemType) (r : Run) (pat : Pattern) (sc rest : List
    Element), Room s ∧ RunIsWhole s r ∧ (let per := if t = .mxf4 then 1 else 2; let blocks := r.popped.length / per;
    let x := s.port (portOf b); x.owner = some s.cur ∧ x.write = false ∧ x.bound = some (.pattern pat) ∧ x.fetched = sc ++
    rest ∧ sc.length = (blocks + 15) / 16 ∧ (∀ e ∈ sc, e.bad = none) ∧ x.moved + sc.length ≤ x.trip) :=
  ⟨onPort (fun x => { x with moved := 3, fetched := [⟨7#128, none⟩] }) lastStep, 24, .mxf4, ⟨0, 1, 0#2, true, [], [5#128]⟩, pat,
    [⟨7#128, none⟩], [], by decide +kernel, run_whole (by decide +kernel), by decide +kernel⟩

theorem hyps_Sends :
    (∃ (s : State) (r a b : RegIdx) (dst : CoreId), Room s ∧ s.netFull = false ∧ Names s a dst ∧ Unbound s [r, a, b] ∧
    (let w := n64 ((here s).reg r).bits; w < 2 ^ 8)) ∧
    (∃ (s : State) (r a b : RegIdx) (dst : CoreId) (off : _), Room s ∧ s.netFull = false ∧ Names s a dst ∧ Unbound s [r, a, b]
    ∧ (let w := n64 ((here s).reg r).bits; w < 2 ^ 13 ∧ (fld w 12 1 = 1 → (here s).level ≠ .user ∧ s.isServer s.core.id = true
    ∧ fld w 8 4 = 1 ∧ fld w 0 8 = 0) ∧ NearLm s b [.load] (16 + 32 * fld w 8 4) 16 off ∧ Fits s (s.lm off) (16 + 32 * fld w 8
    4) false)) :=
  ⟨⟨put [(5, dat 255), (6, farCap 33 0x40 64), (7, dat 1)], 5, 6, 7, 33#13, by decide +kernel⟩,
    ⟨put [(5, dat 0xFFF), (6, farCap 33 0x40 64), (7, lmCap 0x200 496)], 5, 6, 7, 33#13, 0x200, by decide +kernel⟩⟩

theorem hyps_Spawns :
    (∃ (s : State) (d a b : RegIdx) (dst : _), Room s ∧ s.netFull = false ∧ Names s a dst ∧ Unbound s [d, a, b] ∧ (here
    s).wait =
    none ∧ goodDescriptor ((here s).reg b).bits) ∧
    (∃ (s : State) (d a b : RegIdx) (v pc : _), Room s ∧ (here s).wait = some ⟨.spawn (some v), pc⟩ ∧ Unbound s [d, a, b]) :=
  ⟨⟨put [(6, farCap 33 0x40 64), (7, desc)], 5, 6, 7, 33#13, by decide +kernel⟩,
    ⟨ofCtx fun c => { c with wait := some ⟨.spawn (some 3), 7⟩ }, 5, 6, 7, 3, 7, by decide +kernel⟩⟩

theorem hyps_Decrements :
    (∃ (s : State) (a b : RegIdx) (dst : _), Room s ∧ Unbound s [a, b] ∧ (let c := (here s).reg a;
    let n := n64 ((here s).reg b).bits; 0 < n ∧ n ≤ 65535 ∧ s.netFull = false ∧ capFault c [.store, .remote] (addrOf c.bits)
    32 = none ∧ addrOf c.bits % 32 = 0 ∧ Names s a dst)) ∧
    (∃ (s : State) (a b : RegIdx) (off : _), Room s ∧ Unbound s [a, b] ∧ (let n := n64 ((here s).reg b).bits; 0 < n ∧ n ≤
    65535 ∧ NearLm s a [.store] 32 32 off ∧ Fits s (s.lm off) 32 true ∧ s.ringFree = true)) :=
  ⟨⟨put [(6, farCap 33 0x40 64), (7, dat 65535)], 6, 7, 33#13, by decide +kernel⟩,
    ⟨put [(6, lmCap 0x200 32), (7, dat 1)] (hasRecord 5 0 true false), 6, 7, 0x200, by decide +kernel⟩⟩

theorem hyps_Arms :
    (∃ (s : State) (a b : RegIdx) (off : Nat), Room s ∧ Unbound s [a, b] ∧ NearLm s a [.store] 32 32 off ∧ Fits s (s.lm off)
    32 true ∧ s.ringFree = true ∧ (let r := seenRecord s off; let v := s64 ((here s).reg b).bits; recValid r = true ∧
    recQueued r = false ∧ recChannel r = false ∧ -(2 ^ 31 : Int) ≤ v ∧ v < (2 ^ 31 : Int))) ∧
    (∃ (s : State) (a b : RegIdx) (off : Nat), Room s ∧ Unbound s [a, b] ∧ NearLm s a [.store] 32 32 off ∧ Fits s (s.lm off)
    32 true ∧ s.ringFree = true ∧ (let r := seenRecord s off; recValid r = true ∧ recQueued r = false ∧ recChannel r = true ∧
    n64 ((here s).reg b).bits ≤ 1)) :=
  ⟨⟨put [(6, lmCap 0x200 32), (7, dat (2 ^ 64 - 2 ^ 31))] (hasRecord 5 0 true false), 6, 7, 0x200, by decide +kernel⟩,
    ⟨put [(6, lmCap 0x200 32), (7, dat 1)] (hasRecord 5 1 false false), 6, 7, 0x200, by decide +kernel⟩⟩

theorem hyps_Ends : ∃ (s : State) (f : _), Room s ∧ (here s).level = .user ∧ (here s).firing = some f ∧ (f.recorded = true →
    entryKind f.entry ≠ 2) ∧ s.core.armed = [] ∧ (s.slot s.cur).sheaf.held = [] ∧ entryRec f.entry % 32 = 0 :=
  ⟨ofCtx fun c => { c with firing := some ⟨entry 0x200 0, true, none, 0, false⟩ }, ⟨entry 0x200 0, true, none, 0, false⟩, by
    decide +kernel⟩

theorem hyps_EndsChannelTasks : ∃ (s : State) (f : Firing), Room s ∧ (let off := entryRec f.entry; let r := seenRecord s off;
    (here s).level = .user ∧ (here s).firing = some f ∧ f.recorded = true ∧ entryKind f.entry = 2 ∧ Fits s (s.lm off) 32 false
    ∧ ((recIns r).map Prod.fst ++ (recOuts r).map Prod.fst).Nodup ∧
    s.netLacks ((recIns r ++ recOuts r).filter fun x => !(s.handle x.1).engine).length = false ∧ (∀ x ∈ recIns r, usable
    (s.handle x.1) false ∧ x.2 ≤
    (s.handle x.1).avail) ∧ (∀ x ∈ recOuts r, usable (s.handle x.1) true ∧ x.2 ≤ (s.handle x.1).avail)) :=
  ⟨ofCtx (fun c => { c with firing := some ⟨entry 0x200 2, true, none, 0, false⟩ }) (hasRecord 5 1 true false (onHandle fun x =>
    { x with avail := 3 })), ⟨entry 0x200 2, true, none, 0, false⟩, by decide +kernel⟩

theorem hyps_Stages :
    (∃ (s : State) (d a b : RegIdx) (g : Fin 16), Room s ∧ Unbound s [d, a, b] ∧ d ≠ 0 ∧ n64 ((here s).reg a).bits = g.val ∧
    goodDescriptor ((here s).reg b).bits ∧ (let x := s.cluster.stages.get g;
    let place := cmLoc s.core.id (0x3F0000 + 4096 * g.val + 16 * ((x.head + x.count) % 256)); (∀ j, j ≠ s.cur → (s.slot
    j).sheaf.touches (sectorsOf place 16) = false) ∧ 256 ≤ x.count)) ∧
    (∃ (s : State) (d a b : RegIdx) (g : Fin 16), Room s ∧ Unbound s [d, a, b] ∧ d ≠ 0 ∧ n64 ((here s).reg a).bits = g.val ∧
    goodDescriptor ((here s).reg b).bits ∧ (let x := s.cluster.stages.get g;
    let place := cmLoc s.core.id (0x3F0000 + 4096 * g.val + 16 * ((x.head + x.count) % 256)); (∀ j, j ≠ s.cur → (s.slot
    j).sheaf.touches (sectorsOf place 16) = false) ∧ x.count < 256)) :=
  ⟨⟨put [(6, dat 15), (7, desc)] (user.modCluster fun c => { c with stages := c.stages.set 15 ⟨256, 0⟩ }), 5, 6, 7, 15, by
    decide +kernel⟩,
    ⟨put [(6, dat 15), (7, desc)] (user.modCluster fun c => { c with stages := c.stages.set 15 ⟨255, 1⟩ }), 5, 6, 7, 15, by
    decide +kernel⟩⟩

theorem hyps_BarriersAndWatchdog :
    (∃ s : State, Room s ∧ ((here s).level ≠ .user ∨ s.isServer s.core.id = true ∨ s.core.kernel = none)) ∧
    (∃ (s : State) (k : _), Room s ∧ (here s).level = .user ∧ s.isServer s.core.id = false ∧ s.core.kernel = some k ∧ ((here
    s).wait = none)) ∧
    (∃ (s : State) (n : Fin 4) (k p pc : _), Room s ∧ (here s).level = .user ∧ s.isServer s.core.id = false ∧ s.core.kernel =
    some k ∧ (let b := s.core.barriers.get n; (here s).wait = some ⟨.barrier n p, pc⟩ ∧ p < b.phase ∧
    (k.spansDies = true → ∀ j, j ≠ s.cur → (s.slot j).sheaf.solo = false))) :=
  ⟨⟨ofCtx fun c => { c with level := .supervisor }, by decide +kernel⟩,
    ⟨ofCore fun c => { c with id := 33#13 }, kern, by decide +kernel⟩,
    ⟨ofCore (fun c => { c with id := 33#13, barriers := c.barriers.set 3 ⟨false, 4⟩ }) (ofCtx fun c =>
    { c with wait := some ⟨.barrier 3 3, 5⟩ }), 3, kern, 3, 5, by decide +kernel⟩⟩

theorem hyps_LoadsLayouts :
    (∃ s : State, Room s ∧ (let off := tableOffset s.core.hlbase; off + 128 ≤ 2 ^ 18 ∧ Fits s (s.lm off) 128 false ∧ (∀ j, j <
    8 → layoutOk (layoutAt s j)))) ∧
    (∃ (s : State) (j : _), Room s ∧ (let off := tableOffset s.core.hlbase; off + 128 ≤ 2 ^ 18 ∧ Fits s (s.lm off) 128 false ∧
    j < 8 ∧ ¬ layoutOk (layoutAt s j) ∧ (∀ i, i < j → layoutOk (layoutAt s i)))) :=
  ⟨⟨pk 112 (leBytes 2 (112 + 16 * 2 ^ 7)), by decide +kernel⟩,
    ⟨pk 112 (leBytes 2 (113 + 16 * 2 ^ 7)), 7, by decide +kernel⟩⟩

theorem hyps_PacksAndParses : ∃ (s : State) (d a : RegIdx) (n : Fin 8), Room s ∧ Unbound s [d, a] ∧
    (let l := s.core.layouts.get n; layoutOk l) :=
  ⟨ofCore fun c => { c with layouts := c.layouts.set 7 (BitVec.ofNat 128 (2 ^ 112 * (112 + 16 * 2 ^ 7))) }, 5, 6, 7, by
    decide +kernel⟩

theorem hyps_Dispatches :
    (∃ (s : State) (k : SlotId) (f runs x : _), GivesTo s k ∧ s.core.unplaced = [] ∧ (let g : Fin 16 := Fin.ofNat 16 s.core.stg.toNat;
    let staged := s.cluster.stages.get g; FurrowNext s f runs ∧ (staged.count = 0 ∨ s.core.localRuns < 256) ∧
    s.core.ring.find? (fun y => y.furrow == f && s.takeable y) = some x ∧ entryRec (s.placeEntry x.place) % 32 = 0)) ∧
    (∃ (s : State) (k : SlotId), GivesTo s k ∧ (let g : Fin 16 := Fin.ofNat 16 s.core.stg.toNat;
    let staged := s.cluster.stages.get g; staged.count ≠ 0 ∧ ((∀ x ∈ s.core.ring, s.takeable x = false) ∨ 256 ≤
    s.core.localRuns))) :=
  ⟨⟨twoQueued, 0, 2, 0, item 4 1 2 false, ⟨by decide +kernel, by decide +kernel, by decide +kernel, by decide +kernel, kern, by decide +kernel⟩, rfl, .inr ⟨by decide +kernel, rfl, 2, by decide, by decide, by decide +kernel, by decide +kernel, fun m h1
    h2 => by cases (by omega : m = 1); decide +kernel⟩, by decide +kernel⟩,
    ⟨staged, 0, by decide +kernel⟩⟩

theorem hyps_FiringsStart :
    (∃ (s : State) (k : SlotId) (f : Firing) (kn : Kernel), s.event = .slot k ∧ (s.slot k).starting = true ∧ (s.ctx k).firing =
    some f ∧ s.core.kernel = some kn ∧ s.startsFromAfar f = true ∧ s.acquireWaits none = true) ∧
    (∃ (s : State) (k : SlotId) (f : Firing) (kn : Kernel), s.event = .slot k ∧ (s.slot k).starting = true ∧ (s.ctx k).firing =
    some f ∧ s.core.kernel = some kn ∧ s.startsFromAfar f = true ∧ s.acquireWaits none = false) :=
  let f : Firing := ⟨entry 0x200 0, true, none, 0, true⟩
  let s := ev (.slot 0) (ofCtx (fun c => { c with firing := some f }) (user.modSlot 0 fun x => { x with starting := true }))
  ⟨⟨s.modSheaf 1 fun sh => { sh with solo := true, reads := [5 * 2 ^ 30] }, 0, f, kern, by decide +kernel⟩,
    ⟨s, 0, f, kern, by decide +kernel⟩⟩

theorem hyps_YokeMoves :
    (∃ s : State, yokeField s 0 0 1 = 0) ∧
    (∃ (s : State) (a b : _) (i : Fin 16), yokeField s 0 0 1 = 1 ∧ yokeField s 0 1 1 = 0 ∧ a < 16 ∧ b < 16 ∧ gives s a ∧ (∀ g,
    g < a → ¬ gives s g) ∧ takes s a b ∧ (∀ g, g < 16 → takes s a g → s.occupancy g < s.occupancy b ∨ (s.occupancy g =
    s.occupancy b ∧ b ≤ g)) ∧ i ∈ s.coresIn a ∧ (∀ j ∈ s.coresIn a, j ≤ i) ∧ i.val ≠ coreOf s.core.id) :=
  ⟨⟨staged, by decide +kernel⟩,
    ⟨yoke [(0, 1), (1, 1 + 5 * 2 ^ 16 + 2 ^ 32 + 16 * 2 ^ 40), (2, 4 + 3 * 2 ^ 32 + 16 * 2 ^ 40), (3, 1 + 5 * 2 ^ 40)]
    (staged.modCluster fun c => { c with stages := (c.stages.set 1 ⟨7, 0⟩).set 2 ⟨9, 0⟩ }), 0, 2, 15, by decide +kernel⟩⟩

theorem hyps_SmallEvents :
    (∃ (s : State) (n : Fin 4), s.event = .barrier n ∧ (s.core.barriers.get n).arrived = true) ∧
    (∃ (s : State) (k : _), s.event = .slot k ∧ s.core.mode = .halting ∧ (s.ctx k).midRun = false) ∧
    (∃ (s : State) (k rest : _), (∀ j, (s.slot j).sheaf.solo = false) ∧ s.core.soloAsked = k :: rest) ∧
    (∃ (s : State) (j : _), (s.slot j).sheaf.solo = true) ∧
    (∃ (s : State) (loc : _), s.event = .line loc ∧ Table.get 0 s.die.pinned (loc / 256) = 0 ∧
    ∀ k, ∀ sec ∈ (s.slot k).sheaf.reads, sec / 8 ≠ loc / 256) ∧
    (∃ (s : State) (loc : _), s.event = .line loc ∧ Table.get 0 s.die.pinned (loc / 256) ≠ 0) :=
  ⟨⟨ev (.barrier 2) (ofCore fun c => { c with barriers := c.barriers.set 2 ⟨true, 5⟩ }), 2, by decide +kernel⟩,
    ⟨ev (.slot 2) (ofCore fun c => { c with mode := .halting }), 2, by decide +kernel⟩,
    ⟨ofCore fun c => { c with soloAsked := [2, 1] }, 2, [1], by decide +kernel⟩,
    ⟨user.modSheaf 2 fun h => { h with solo := true }, 2, by decide +kernel⟩,
    ⟨ev (.line 0x1000), 0x1000, by decide +kernel⟩,
    ⟨ev (.line 0x1000) (user.modDie fun d => { d with pinned := [(16, 1)] }), 0x1000, by decide +kernel⟩⟩

theorem route_of_self (x y : Nat) (h : onRoute (msg 0 (leBytes 16 5) 16#13) x y) :
    user.inSubmesh 5#12 (BitVec.ofNat 13 (clusterAt x y)) = true := by
  have hx : gridX (msg 0 (leBytes 16 5) 16#13).src = 1 ∧ gridX (msg 0 (leBytes 16 5) 16#13).dst = 1 := by decide +kernel
  have hy : gridY (msg 0 (leBytes 16 5) 16#13).src = 0 ∧ gridY (msg 0 (leBytes 16 5) 16#13).dst = 0 := by decide +kernel
  obtain ⟨rfl, rfl⟩ : x = 1 ∧ y = 0 := by unfold onRoute at h; omega
  decide +kernel

theorem hyps_RoutersCheck :
    (∃ (s : State) (m : Msg), s.event = .msg m ∧ m ∈ s.core.outgoing ∧ m.dst = s.core.id ∧
    (let before := s.core.outgoing.takeWhile fun x => x != m; (∃ x ∈ before, x.dst = m.dst))) ∧
    (∃ (s : State) (m : Msg), s.event = .msg m ∧ m ∈ s.core.outgoing ∧ m.dst = s.core.id ∧
    (let before := s.core.outgoing.takeWhile fun x => x != m; (∀ x ∈ before, x.dst ≠ m.dst) ∧
    (∀ x y, onRoute m x y → s.inSubmesh m.tenant (BitVec.ofNat 13 (clusterAt x y)) = true))) ∧
    (∃ (s : State) (m : Msg), s.event = .msg m ∧ m ∈ s.core.outgoing ∧ m.dst = s.core.id ∧
    (let before := s.core.outgoing.takeWhile fun x => x != m; (∀ x ∈ before, x.dst ≠ m.dst) ∧
    (∃ x y, onRoute m x y ∧ s.inSubmesh m.tenant (BitVec.ofNat 13 (clusterAt x y)) = false))) :=
  let m := msg 0 (leBytes 16 5) 16#13
  ⟨⟨ev (.msg m) (ofCore fun c => { c with outgoing := [{ m with cls := 9#8 }, m] }), m, by decide +kernel⟩,
    ⟨ev (.msg m) (ofCore fun c => { c with outgoing := [{ m with dst := 33#13 }, m] }), m, by decide +kernel, by decide +kernel,
      by decide +kernel, by decide +kernel, route_of_self⟩,
    ⟨ev (.msg (msg 0 (leBytes 16 5))) (ofCore (fun c => { c with outgoing := [msg 0 (leBytes 16 5)] }) (user.setSysReg
    (sysAddr 0 0 0 10 40) 0#64)), msg 0 (leBytes 16 5), by decide +kernel, by decide +kernel, by decide +kernel,
    by decide +kernel, 1, 0, by decide +kernel⟩⟩

theorem hyps_TaskMessages :
    (∃ (s : State) (m : Msg), Receives s m 0 ∧ classWord s m = 0) ∧
    (∃ (s : State) (m : Msg), Receives s m 0 ∧ classWord s m ≠ 0 ∧ s.ringFree = true ∧ (∃ p, p < 256 ∧ ∀ x ∈ s.core.ring,
    x.place ≠ p) ∧ (∃ p, p < 16 ∧ p ∉ s.core.received) ∧ tableOffset s.core.rrbase + 12288 ≤ 2 ^ 18) :=
  ⟨⟨ofCore (fun c => { c with clsbase := 99#13 }) (reached (msg 0 (leBytes 48 5))), msg 0 (leBytes 48 5), receives (by
    decide +kernel), by decide +kernel⟩,
    ⟨reached (msg 0 (leBytes 496 5)), msg 0 (leBytes 496 5), receives (by decide +kernel), by decide +kernel, by
    decide +kernel, ⟨0, by decide +kernel⟩, ⟨0, by decide +kernel⟩, by decide +kernel⟩⟩

theorem hyps_SpawnMessages :
    (∃ (s : State) (m : Msg) (r : _), Receives s m 1 ∧ s.netFull = false ∧ (((r = 0 ∧ s.ringFree = false) ∨ (r = 1 ∧ s.ringFree = true ∧
    s.core.tenant ≠ m.tenant) ∨ (r = 2 ∧ s.ringFree = true ∧ s.core.tenant = m.tenant ∧ s.isServer s.core.id = true)))) ∧
    (∃ (s : State) (m : Msg), Receives s m 1 ∧ s.netFull = false ∧ (s.ringFree = true ∧ (∃ p, p < 256 ∧ ∀ x ∈ s.core.ring, x.place ≠ p) ∧
    s.core.tenant = m.tenant ∧ s.isServer s.core.id = false)) :=
  ⟨⟨reached (msg 1 (leBytes 16 0) 33#13 17#13) (ofCore (fun c => { c with tenant := 6#12 }) idle), msg 1 (leBytes 16 0) 33#13
    17#13, 1, receives (by decide +kernel), by decide +kernel⟩,
    ⟨reached (msg 1 (leBytes 16 0) 33#13 17#13), msg 1 (leBytes 16 0) 33#13 17#13, receives (by decide +kernel), by decide +kernel, by
    decide +kernel, ⟨0, by decide +kernel⟩, by decide +kernel, by decide +kernel⟩⟩

theorem hyps_SpawnAnswers : ∃ (s : State) (m : Msg) (k : SlotId) (pc : Nat) (rest : List Spawned), Receives s m 2 ∧
    s.core.spawned = ⟨m.src, k, none⟩ :: rest ∧ (s.ctx k).wait = some ⟨.spawn none, pc⟩ :=
  ⟨(ofCore (fun c => { c with spawned := [⟨33#13, 2, none⟩] }) (reached (msg 2 (leBytes 16 3)))).modCtx 2 fun c =>
    { c with wait := some ⟨.spawn none, 77⟩ }, msg 2 (leBytes 16 3), 2, 77, [], receives (by decide +kernel), by
    decide +kernel, by decide +kernel⟩

theorem hyps_TdecMessages :
    (∃ (s : State) (m : Msg), Receives s m 3 ∧ (let off := ofBytes m.payload % 2 ^ 18; let r : Nat := s.lmNat off 32;
    (recValid r = false ∨ recChannel r = true))) ∧
    (∃ (s : State) (m : Msg), Receives s m 3 ∧ (let off := ofBytes m.payload % 2 ^ 18;
    let n : Nat := ofBytes m.payload / 2 ^ 32 % 2 ^ 16; let r : Nat := s.lmNat off 32;
    let count := max (signed 32 (r % 2 ^ 32) - (n : Int)) (-(2 ^ 31 : Int)); recValid r = true ∧ recChannel r = false ∧
    (recArmed r = true → 0 < count))) ∧
    (∃ (s : State) (m : Msg), Receives s m 3 ∧ (let off := ofBytes m.payload % 2 ^ 18;
    let n : Nat := ofBytes m.payload / 2 ^ 32 % 2 ^ 16; let r : Nat := s.lmNat off 32;
    let count := max (signed 32 (r % 2 ^ 32) - (n : Int)) (-(2 ^ 31 : Int)); recValid r = true ∧ recChannel r = false ∧
    recArmed r = true ∧ count ≤ 0 ∧ s.ringFree = true ∧ (∃ p, p < 256 ∧ ∀ x ∈ s.core.ring, x.place ≠ p))) :=
  ⟨⟨hasRecord 5 1 false false (reached (tdecMsg 5)), tdecMsg 5, receives (by decide +kernel), by decide +kernel⟩,
    ⟨hasRecord 5 0 true false (reached (tdecMsg 4)), tdecMsg 4, receives (by decide +kernel), by decide +kernel⟩,
    by refine ⟨hasRecord 5 0 true false (reached (tdecMsg 5)), tdecMsg 5, receives (by decide +kernel), ?_, ?_, ?_, ?_, ?_,
    ⟨0, by decide +kernel⟩⟩ <;> decide +kernel⟩

theorem hyps_CreditMessages : ∃ (s : State) (m : Msg), Receives s m 4 ∧ s.core.armed = [] ∧
    (let h : Fin 16 := Fin.ofNat 16 (ofBytes m.payload % 16); let forFilled := ofBytes m.payload / 2 ^ 4 % 2;
    let x := s.handle h; x.init = true ∧ x.producer = (forFilled == 0)) :=
  ⟨reached (msg 4 (leBytes 16 (3 + 16 + 2 * 2 ^ 8))) (onHandle (fun x => { x with avail := 2 }) idle), msg 4 (leBytes 16 (3 +
    16 + 2 * 2 ^ 8)), receives (by decide +kernel), by decide +kernel⟩

theorem hyps_WindowMessages :
    (∃ (s : State) (m : Msg), Receives s m 5 ∧ (let off := ofBytes m.payload % 2 ^ 22;
    let n := ofBytes m.payload / 2 ^ 96 % 2 ^ 16; let data := if n = 0 then m.payload.drop 16 else (m.payload.drop 16).take n;
    n ≠ 0 ∧ ofBytes m.payload / 2 ^ 53 % 4 = 0 ∧ off + data.length ≤ 2 ^ 18)) ∧
    (∃ (s : State) (m : Msg), Receives s m 5 ∧ (let off := ofBytes m.payload % 2 ^ 22;
    let n := ofBytes m.payload / 2 ^ 96 % 2 ^ 16; let data := if n = 0 then m.payload.drop 16 else (m.payload.drop 16).take n;
    n = 0 ∧ ofBytes m.payload / 2 ^ 53 % 4 = 1 ∧ s.cluster.scrubbing = false ∧ off + data.length ≤ 2 ^ 22)) :=
  ⟨⟨reached (msg 5 (leBytes 48 (0x3FFF8 + 8 * 2 ^ 96))), msg 5 (leBytes 48 (0x3FFF8 + 8 * 2 ^ 96)), receives (by decide +kernel),
    by decide +kernel⟩,
    ⟨reached (msg 5 (leBytes 48 (2 ^ 53 + 0x3FFFE0))), msg 5 (leBytes 48 (2 ^ 53 + 0x3FFFE0)), receives (by decide +kernel),
    by decide +kernel⟩⟩

theorem hyps_DivertedMessages :
    (∃ (s : State) (m : Msg), s.event = .msg m ∧ m.payload.length = 16 + 32 * m.flits.val ∧ m.dst = s.core.id ∧ s.core.mode =
    .running ∧ s.core.scrubbing = false ∧ (∀ x ∈ s.core.arrived, x.src ≠ m.src) ∧ (∀ k, ∀ w ∈ (s.ctx k).wait, ∀ n done, w.wait
    ≠ .idle n done) ∧ m.kind = 7) ∧
    (∃ (s : State) (m : Msg), s.event = .msg m ∧ m.payload.length = 16 + 32 * m.flits.val ∧ m.dst = s.core.id ∧ s.core.mode =
    .running ∧ s.core.scrubbing = false ∧ (∀ x ∈ s.core.arrived, x.src ≠ m.src) ∧ (∀ k, ∀ w ∈ (s.ctx k).wait, ∀ n done, w.wait
    ≠ .idle n done) ∧ m.kind = 0 ∧ m.pkey ≠ s.core.pkey) ∧
    (∃ (s : State) (m : Msg), s.event = .msg m ∧ m.payload.length = 16 + 32 * m.flits.val ∧ m.dst = s.core.id ∧ s.core.mode =
    .running ∧ s.core.scrubbing = false ∧ (∀ x ∈ s.core.arrived, x.src ≠ m.src) ∧ (∀ k, ∀ w ∈ (s.ctx k).wait, ∀ n done, w.wait
    ≠ .idle n done) ∧ m.kind = 0 ∧ m.pkey = s.core.pkey ∧ s.core.kernel = none) :=
  ⟨by refine ⟨reached (msg 7 (leBytes 16 5)), msg 7 (leBytes 16 5), ?_, ?_, ?_, ?_, ?_, ?_, no_idle (by decide +kernel),
    ?_⟩ <;> decide +kernel,
    by refine ⟨reached (msg 0 (leBytes 16 5)) (ofCore (fun c => { c with pkey := 9#32 }) idle), msg 0 (leBytes 16 5), ?_,
    ?_, ?_, ?_, ?_, ?_, no_idle (by
    decide +kernel), ?_⟩ <;> decide +kernel,
    by refine ⟨reached (msg 0 (leBytes 16 5)) (ofCore (fun c => { c with kernel := none }) idle), msg 0 (leBytes 16 5), ?_,
    ?_, ?_, ?_, ?_, ?_, no_idle (by
    decide +kernel), ?_⟩ <;> decide +kernel⟩

theorem hyps_HeldMessages : ∃ (s : State) (m : Msg), Receives { s.modCore (fun c => { c with arrived := [] })
    with event := .msg m } m 3 ∧ s.core.arrived = [m] ∧ (let off := ofBytes m.payload % 2 ^ 18; let r : Nat := s.lmNat off 32;
    recValid r = true ∧ recChannel r = false ∧ recArmed r = false) :=
  ⟨ofCore (fun c => { c with arrived := [tdecMsg 7] }) (hasRecord 5 0 false false (reached (tdecMsg 7))), tdecMsg 7, receives
    (by decide +kernel), by decide +kernel⟩

theorem hyps_Launches : ∃ (s u : State) (m : Msg) (h : Nat) (members : List Nat), let r := ofBytes m.payload; s.event = .msg m
    ∧ m.kind = 6 ∧ m.flits = 1 ∧ m.dst = s.core.id ∧ s.core.mode = .running ∧ s.core.scrubbing = false ∧ s.core.handoff = none
    ∧ (∀ x ∈ s.core.arrived, x.src ≠ m.src) ∧ (∀ k, (s.ctx k).wait = none) ∧ s.tick.headerOf (recTenant r) (recCode r) =
    (u, some
    h) ∧ GoodLaunch u m h members ∧ u.core.slots = s.core.slots :=
  ⟨launched, launched.tick, launch, headerNum 4 65536 96 128 0x40 1, upFrom 16 16, by decide +kernel⟩

theorem hyps_SoftwareCauses :
    (∃ (s : State) (a b : RegIdx), Room s ∧ Unbound s [a, b] ∧ (let n := n64 ((here s).reg a).bits; n < 1024 ∧ causeAllocated
    n = true)) ∧
    (∃ (s : State) (a b : RegIdx), Room s ∧ Unbound s [a, b] ∧ (let n := n64 ((here s).reg a).bits; (1024 ≤ n ∨ causeAllocated
    n = false))) :=
  ⟨⟨put [(6, dat 0x41), (7, dat 5)], 6, 7, by decide +kernel⟩,
    ⟨put [(6, dat 1024), (7, dat 5)], 6, 7, by decide +kernel⟩⟩

theorem hyps_Idles :
    (∃ (s : State) (a : RegIdx), Room s ∧ Unbound s [a] ∧ (here s).wait = none) ∧
    (∃ (s : State) (a : RegIdx) (left pc : _), Room s ∧ Unbound s [a] ∧ (here s).wait = some ⟨.idle left true, pc⟩) ∧
    (∃ (s : State) (k left done pc : _), Room s ∧ s.event = .slot k ∧ (s.ctx k).wait = some ⟨.idle left done, pc⟩) :=
  ⟨⟨put [(6, dat 0)], 6, by decide +kernel⟩,
    ⟨inWait (.idle none true), 6, none, (here user).pc, by decide +kernel⟩,
    ⟨ev (.slot 0) (inWait (.idle (some 0) false)), 0, some 0, false, (here user).pc, by decide +kernel⟩⟩

theorem hyps_Halts : ∃ s : State, Room s ∧ (here s).level ≠ .user :=
  ⟨sup, by decide +kernel⟩

theorem hyps_FencesTranslations : ∃ (s : State) (a : RegIdx), Room s ∧ Unbound s [a] ∧ (here s).level ≠ .user ∧ (here s).wait
    = none ∧ (s.slot s.cur).sheaf.held = [] ∧ (∀ j f, ((s.slot j).engine f).taken = []) :=
  by refine ⟨sup, 6, ?_, ?_, ?_, ?_, ?_, fun j f =>
    by revert j; cases f <;> decide +kernel⟩ <;> decide +kernel

/-- The headland under a power cap: the weight of the grants, its queue, what other cores hold. -/
def asked (cap used : Nat) (asks granted : List Ask) : State :=
  (user.modModule fun m => { m with pcap := cap }).modDie fun d => { d with asks := asks, granted := granted, used := used }

theorem hyps_PowerLeave :
    (∃ (s : State) (a : RegIdx), Room s ∧ Unbound s [a] ∧ (let n := n64 ((here s).reg a).bits; n ∈ [1, 2, 3, 4] ∧ (here
    s).wait = none)) ∧
    (∃ (s : State) (a : RegIdx), Room s ∧ Unbound s [a] ∧ (let n := n64 ((here s).reg a).bits; n ∉ [1, 2, 3, 4] ∧ (here
    s).wait = none)) ∧
    (∃ (s : State) (a : RegIdx) (c g pc : _), Room s ∧ Unbound s [a] ∧ ((here s).wait = some ⟨.leave c, pc⟩ ∧ (s.slot
    s.cur).grant = some g)) ∧
    (∃ (s : State) (a : RegIdx) (x rest : _), Room s ∧ Unbound s [a] ∧ ((∀ c k n, s.event ≠ .leave c k n) ∧ s.die.asks = x :: rest ∧ 0 < s.budget ∧
    (s.die.used + classWeight x.cls ≤ s.budget ∨ s.die.used = 0))) ∧
    (∃ (s : State) (a : RegIdx) (x rest : _), Room s ∧ Unbound s [a] ∧ ((∀ c k n, s.event ≠ .leave c k n) ∧ s.die.asks = x :: rest ∧ 0 < s.budget ∧
    s.budget < s.die.used + classWeight x.cls ∧ s.die.used ≠ 0)) ∧
    (∃ (s : State) (a : RegIdx) (c k n : _), Room s ∧ Unbound s [a] ∧ (s.event = .leave c k (some n) ∧ dieOf c = s.dieNo ∧
    c ≠ s.core.id ∧ n ∈ [1, 2, 3, 4] ∧ s.budget = 0 ∧ (∀ x ∈ s.die.asks ++ s.die.granted, x.other ≠ some c))) ∧
    (∃ (s : State) (a : RegIdx) (c k l x r : _), Room s ∧ Unbound s [a] ∧ (s.event = .leave c k none ∧ dieOf c = s.dieNo ∧
    c ≠ s.core.id ∧ s.budget = 0 ∧ s.die.granted = l ++ x :: r ∧ x.other = some c ∧ x.slot = k ∧
    (∀ y ∈ l ++ r ++ s.die.asks, y.other ≠ some c))) :=
  ⟨⟨put [(6, dat 4)], 6, by decide +kernel⟩,
    ⟨put [(6, dat 5)], 6, by decide +kernel⟩,
    ⟨inWait (.leave 4) (user.modSlot 0 fun x => { x with grant := some 2 }), 6, 4, 2, (here user).pc, by decide +kernel⟩,
    ⟨asked 9000 4 [⟨2, 4, none⟩, ⟨1, 3, some 18#13⟩] [], 6, ⟨2, 4, none⟩, [⟨1, 3, some 18#13⟩],
      by decide +kernel, by decide +kernel, fun _ _ _ h => (by cases h), by decide +kernel⟩,
    ⟨asked 90 9 [⟨2, 4, some 18#13⟩] [], 6, ⟨2, 4, some 18#13⟩, [],
      by decide +kernel, by decide +kernel, fun _ _ _ h => (by cases h), by decide +kernel⟩,
    ⟨ev (.leave 18#13 3 (some 4)) (asked 0 0 [⟨1, 3, none⟩] []), 6, 18#13, 3, 4, by decide +kernel⟩,
    ⟨ev (.leave 18#13 3 none) (asked 0 20 [⟨1, 3, none⟩] [⟨2, 1, some 19#13⟩, ⟨3, 4, some 18#13⟩]), 6, 18#13, 3, [⟨2, 1, some 19#13⟩], ⟨3, 4, some 18#13⟩, [], by decide +kernel⟩⟩

theorem hyps_ControlRegisters :
    (∃ (s : State) (d a : RegIdx) (c : BitVec 12), Room s ∧ Unbound s [d, a] ∧ isControlRegister c = true ∧ (let n := c.toNat;
    crAllowed (here s).level n false = true)) ∧
    (∃ (s : State) (d a : RegIdx) (c : BitVec 12), Room s ∧ Unbound s [d, a] ∧ isControlRegister c = true ∧ (let n := c.toNat;
    crAllowed (here s).level n false = false)) ∧
    (∃ (s : State) (d a : RegIdx) (c : BitVec 12) (f : _), Room s ∧ Unbound s [d, a] ∧ isControlRegister c = true ∧
    (let n := c.toNat; f ∈ crForms ∧ crAllowed (here s).level n true = false)) ∧
    (∃ (s : State) (d a : RegIdx) (c : BitVec 12) (f : _), Room s ∧ Unbound s [d, a] ∧ isControlRegister c = true ∧
    (let n := c.toNat; f ∈ crForms ∧ crAllowed (here s).level n true = true ∧ n ≠ 0x00B)) ∧
    (∃ (s : State) (d a : RegIdx) (c : BitVec 12) (f : _), Room s ∧ Unbound s [d, a] ∧ isControlRegister c = true ∧
    (let n := c.toNat; f ∈ crForms ∧ crAllowed (here s).level n true = true ∧ n = 0x00B ∧ ∀ k, (s.ctx k).firing = none)) :=
  ⟨⟨mon, 5, 6, 0x21F#12, by decide +kernel⟩,
    ⟨user, 5, 6, 0x21F#12, by decide +kernel⟩,
    ⟨user, 5, 6, 0x200#12, (.crw, fun _ a => a, true), by decide +kernel, by decide +kernel, by decide +kernel, by simp
    [crForms], by decide +kernel⟩,
    ⟨mon, 5, 6, 0x205#12, (.crw, fun _ a => a, true), by decide +kernel, by decide +kernel, by decide +kernel, by simp
    [crForms], by decide +kernel⟩,
    ⟨mon (put [(6, dat 15)] idle), 5, 6, 0x00B#12, (.crs, fun o a => o ||| a, false), by decide +kernel, by decide +kernel,
    by decide +kernel, by simp [crForms], by decide +kernel⟩⟩

theorem hyps_ControlRegistersComplete :
    (∃ (s : State) (d a : RegIdx) (c : BitVec 12), Room s ∧ Unbound s [d, a] ∧ isControlRegister c = true ∧
    crAllowed (here s).level c.toNat false = true) ∧
    (∃ (s : State) (d a : RegIdx) (c : BitVec 12), Room s ∧ Unbound s [d, a] ∧ isControlRegister c = true ∧
    crAllowed (here s).level c.toNat true = true) :=
  ⟨⟨mon, 31, 6, 0x21F#12, by decide +kernel⟩, ⟨sup (put [(6, dat 31)]), 31, 6, 0x108#12, by decide +kernel⟩⟩

theorem hyps_PrivilegeTraps :
    (∃ (s : State) (i : Instr), Room s ∧ s.migrantComes = false ∧ ((here s).level = .user ∧ (i = .halt ∨ ∃ a sc k, i = .vfence a sc k))) ∧
    (∃ (s : State) (i : Instr), Room s ∧ s.migrantComes = false ∧ ((here s).inTrap = false ∧ (i = .ctxsave ∨ (∃ a, i = .ctxload a) ∨ ∃ d a, i = .migr d
    a))) :=
  ⟨⟨user, .vfence 6 .dev .all, by decide +kernel, by decide +kernel, by decide +kernel, .inr ⟨6, .dev, .all, rfl⟩⟩,
    ⟨user, .migr 5 6, by decide +kernel, by decide +kernel, by decide +kernel, .inr (.inr ⟨5, 6, rfl⟩)⟩⟩

theorem hyps_AsynchronousCauses :
    (∃ (s : State) (k : SlotId), s.event = .slot k ∧ (s.ctx k).sx.intrap = true ∧ (s.slot k).preempt = true) ∧
    (∃ (s : State) (k : SlotId), s.event = .slot k ∧ (s.ctx k).sx.intrap = false ∧ s.deliverable k = false ∧ (s.slot k).watchdog = true) ∧
    (∃ (s : State) (k : SlotId), s.event = .slot k ∧ (s.slot k).preempt = true ∧ s.deliverable k = true) ∧
    (∃ (s : State) (k : SlotId), s.event = .slot k ∧ (s.slot k).preempt = false ∧ (s.slot k).resume = true ∧
    s.deliverable k = true) ∧
    (∃ (s : State) (k : SlotId), s.event = .slot k ∧ (s.slot k).preempt = false ∧ (s.slot k).resume = false ∧ (s.slot
    k).watchdog = true ∧ s.deliverable k = true) ∧
    (∃ s : State, Room s ∧ (here s).level = .supervisor ∧ (here s).sx.intrap = true ∧ (here s).sx.drill = false ∧
    (here s).sx.ppl ≤ 1 ∧ (s.slot s.cur).preempt = true) ∧
    (∃ (s : State) (k : SlotId), (s.ctx k).firing.isSome = true ∧ (∀ j, j < k → (s.ctx j).firing = none)) ∧
    (∃ s : State, ∀ j, (s.ctx j).firing = none) :=
  ⟨⟨ev (.slot 0) (inHandler (user.modSlot 0 fun x => { x with preempt := true })), 0, by decide +kernel⟩,
    ⟨ev (.slot 0) (ofCtx (fun c => { c with entering := some ⟨0x40, false⟩ }) (user.modSlot 0 fun x => { x with watchdog := true })),
      0, by decide +kernel⟩,
    ⟨ev (.slot 0) (user.modSlot 0 fun x => { x with preempt := true }), 0, by decide +kernel⟩,
    ⟨ev (.slot 3) (user.modSlot 3 fun x => { x with resume := true, watchdog := true }), 3, by decide +kernel⟩,
    ⟨ev (.slot 0) (user.modSlot 0 fun x => { x with watchdog := true }), 0, by decide +kernel⟩,
    ⟨inHandler (user.modSlot 0 fun x => { x with preempt := true }), by decide +kernel⟩,
    ⟨user, 0, by decide +kernel⟩, ⟨idle, by decide +kernel⟩⟩

theorem hyps_Returns :
    (∃ s : State, Room s ∧ (here s).level = .user ∧ (here s).uxact = true) ∧
    (∃ s : State, Room s ∧ (here s).level = .user ∧ (here s).uxact = false) ∧
    (∃ s : State, Room s ∧ (here s).level ≠ .user ∧ (let r := trapRegsOf (here s) (here s).level; r.ppl ≤ (here s).level.num ∧
    r.ppl ≠ 3 ∧ r.drill = false)) ∧
    (∃ (s : State) (d : _), Room s ∧ (here s).level ≠ .user ∧ (let r := trapRegsOf (here s) (here s).level; r.ppl ≤ (here
    s).level.num ∧ r.ppl ≠ 3 ∧ r.drill = true ∧ (here s).drill = some d ∧ d.live = false ∧ r.dpos < d.n ∧ r.dpass < d.k)) ∧
    (∃ s : State, Room s ∧ (here s).level ≠ .user ∧ (let r := trapRegsOf (here s) (here s).level; r.ppl ≤ (here s).level.num ∧
    r.ppl ≠ 3 ∧ r.drill = true ∧ (here s).drill = none)) ∧
    (∃ s : State, Room s ∧ (here s).level ≠ .user ∧ (let r := trapRegsOf (here s) (here s).level; (here s).level.num < r.ppl ∧
    r.ppl ≠ 3)) :=
  ⟨⟨ofCtx fun c => { c with uxact := true, uxpc := lmCode 0x80 }, by decide +kernel⟩,
    ⟨user, by decide +kernel⟩,
    ⟨inHandler, by decide +kernel⟩,
    ⟨ofCtx (fun c => { c with drill := some { block with live := false } }) (mon (mx fun r =>
    { r with stat := BitVec.ofNat 22 (0xC + 2 * 16 + 3 * 2 ^ 8) })), { block with live := false }, by decide +kernel⟩,
    ⟨mon (mx fun r => { r with stat := BitVec.ofNat 22 (0xC + 2 * 16 + 3 * 2 ^ 8) }), by decide +kernel⟩,
    ⟨sup (sx fun r => { r with stat := 6#22 }), by decide +kernel⟩⟩

theorem leaves {s : State}
    (h : (here s).inTrap = true ∧ (∀ p, (s.port p).owner = some s.cur → (s.port p).write = true → (s.port p).undrained = 0) ∧
      s.lacksEntry s.cur = false ∧ (s.slot s.cur).sheaf.held = [] ∧ ∀ f ∈ fifos, ((s.slot s.cur).engine f).taken = []) :
    Leaves s := by
  obtain ⟨a, b, c, d, e⟩ := h
  refine ⟨a, b, c, d, fun f x g => ?_⟩
  have h : ((s.slot s.cur).engine f).taken = [] := e f (by cases f <;> decide)
  simp [State.taken, h] at g

theorem hyps_SavesContexts :
    (∃ s : State, Room s ∧ Leaves s ∧ (s.die.frames.filter fun x => !x.2.spilled).length < s.siloFrames ∧ s.die.frames.length
    < 65536) ∧
    (∃ s : State, Room s ∧ Leaves s ∧ s.siloFrames = 0) :=
  ⟨⟨(inHandler).modModule fun m => { m with silo := 1 }, by decide +kernel, leaves (by decide +kernel),
      by decide +kernel, by decide +kernel⟩,
    ⟨inHandler.modModule fun m => { m with silo := 0 }, by decide +kernel, leaves (by decide +kernel), by decide +kernel⟩⟩

theorem hyps_LoadsContexts :
    (∃ (s : State) (a : RegIdx) (f : _), Room s ∧ Unbound s [a] ∧ (here s).inTrap = true ∧ (s.slot s.cur).sheaf.held = [] ∧
    (let n := n64 ((here s).reg a).bits; s.frameRefused n = none ∧ s.frame n = some f ∧ (f.ctx.drill = none ∨
    (s.core.drillOwner = none ∧ s.bufferWanted s.cur = false)) ∧ (∀ p ∈ f.ports, s.freedElsewhere s.cur p.1 = false) ∧ (f.level = .supervisor → f.ctx.sx.ppl
    ≤ 1 ∧ f.ctx.sx.drill = false) ∧ f.level ≠ .monitor)) ∧
    (∃ (s : State) (a : RegIdx) (r : _), Room s ∧ Unbound s [a] ∧ (here s).inTrap = true ∧ (s.slot s.cur).sheaf.held = [] ∧
    (let n := n64 ((here s).reg a).bits; s.frameRefused n = some r)) :=
  ⟨⟨inHandler (put [(6, dat 4)] (withFrame (frameAt .user))), 6,
    { frameAt .user with home := user.kernelHome, enclave := user.enclaveKey }, by decide +kernel⟩,
    ⟨inHandler (put [(6, dat 65535)] (withFrame (frameAt .user))), 6, 2, by decide +kernel⟩⟩

theorem hyps_Migrates :
    (∃ (s : State) (d a : RegIdx), Room s ∧ Unbound s [d, a] ∧ Leaves s ∧ s.migrantComes = false ∧ (let n := n64 ((here s).reg a).bits;
    let good := n < 2 ^ 13 ∧ s.isServer (BitVec.ofNat 13 n) = false ∧ BitVec.ofNat 13 n ≠ s.core.id ∧ s.inSubmesh s.core.tenant (BitVec.ofNat 13 n) = true;
    ¬ good)) ∧
    (∃ (s : State) (d a : RegIdx), Room s ∧ Unbound s [d, a] ∧ Leaves s ∧ s.migrantComes = false ∧ (let n := n64 ((here s).reg a).bits;
    let good := n < 2 ^ 13 ∧ s.isServer (BitVec.ofNat 13 n) = false ∧ BitVec.ofNat 13 n ≠ s.core.id ∧ s.inSubmesh s.core.tenant (BitVec.ofNat 13 n) = true;
    good)) :=
  ⟨⟨inHandler (put [(6, dat 16)]), 5, 6, by decide +kernel, by decide +kernel, leaves (by decide +kernel), by decide +kernel⟩,
    ⟨inHandler (put [(6, dat 33)]), 5, 6, by decide +kernel, by decide +kernel, leaves (by decide +kernel), by decide +kernel⟩⟩

/-- A slot of a core with a kernel is free, and another core's context comes to it. -/
def migrating (f : Frame) : State :=
  ev .migration ((user.modSlot 0 fun x => { x with ctx := { x.ctx with firing := none } }).modDie fun d => { d with migrants := [f] })

theorem hyps_MigrantsArrive :
    (∃ (s : State) (f : Frame) (rest : List Frame) (n : Kernel) (k : SlotId), s.event = .migration ∧ s.eventTurn = false ∧
    s.die.migrants = f :: rest ∧ s.core.handoff = none ∧ s.core.kernel = some n ∧ f.enclave = s.enclaveKey ∧ f.ports = [] ∧
    (let takes (k : SlotId) := k.val < n.slots ∧ (s.slot k).isFree = true ∧ (s.slot k).starting = false;
    f.home = s.kernelHome ∧ f.level = .user ∧ takes k ∧ (∀ j, j < k → ¬ takes j))) ∧
    (∃ (s : State) (f : Frame) (rest : List Frame) (n : Kernel), s.event = .migration ∧ s.eventTurn = false ∧
    s.die.migrants = f :: rest ∧ s.core.handoff = none ∧ s.core.kernel = some n ∧ f.enclave = s.enclaveKey ∧ f.ports = [] ∧
    (let takes (k : SlotId) := k.val < n.slots ∧ (s.slot k).isFree = true ∧ (s.slot k).starting = false;
    f.home ≠ s.kernelHome ∨ (∀ k, ¬ takes k))) :=
  ⟨⟨migrating { frameAt .user with home := user.kernelHome, enclave := user.enclaveKey }, _, [], _, 0, rfl, rfl, rfl, rfl, rfl,
      by decide +kernel⟩,
    ⟨migrating { frameAt .user with home := none, enclave := user.enclaveKey }, _, [], _, rfl, rfl, rfl, rfl, rfl,
      by decide +kernel⟩⟩

theorem hyps_SuccessorsAreAsked : ∃ (s u : State) (a b : RegIdx) (loc : Nat) (ranges : List (Nat × Nat)), Room s ∧ Unbound s
    [a, b] ∧ (here s).inTrap = false ∧ Touches s a 0 64 [.load, .execute] loc ∧ Free s loc 64 false ∧
    (let c := (here s).reg a; let y := ((here s).reg b).bits; let h := ofBytes (s.seenBytes s.cur loc 64);
    s.core.kernel.isSome = true ∧ s.isServer s.core.id = false ∧ s.core.handoff = none ∧ kernelHeaderValid h = true ∧
    headerAddr c.bits = addrOf c.bits ∧ bits y 54 74 = 0 ∧ inheritRanges y (maskMaps y) (tracked (s.openSheaf s.cur) loc 64
    false) = .ok ranges u) :=
  by refine ⟨succeeding (headerNum 4 65536 96 128 0x44 1) 0, tracked ((succeeding (headerNum 4 65536 96 128 0x44 1)
    0).openSheaf 0)
    (lmLoc 16#13 0) 64 false, 6, 7, lmLoc 16#13 0, [], ?_, ?_, ?_, ?_, ?_, ?_, ?_, ?_, ?_, ?_, ?_, rfl⟩ <;> decide +kernel

theorem hyps_SuccessorsTakeOver :
    (∃ (s : State) (h : Handoff) (k : Kernel) (pc : Nat), s.core.handoff = some h ∧ s.core.kernel = some k ∧ (s.ctx
    h.slot).wait = some ⟨.handoff, pc⟩ ∧ s.coreQuiet h.slot = false) ∧
    (∃ (s : State) (h : Handoff) (k : Kernel) (pc : Nat), s.core.handoff = some h ∧ s.core.kernel = some k ∧ (s.ctx
    h.slot).wait = some ⟨.handoff, pc⟩ ∧ s.coreQuiet h.slot = true ∧ s.shapeDiff k h.header.toNat = 0) ∧
    (∃ (s : State) (h : Handoff) (k : Kernel) (pc : Nat), s.core.handoff = some h ∧ s.core.kernel = some k ∧ (s.ctx
    h.slot).wait = some ⟨.handoff, pc⟩ ∧ s.coreQuiet h.slot = true ∧ s.shapeDiff k h.header.toNat ≠ 0 ∧ (s.ctx h.slot).level =
    .user ∧ (s.ctx h.slot).sx.intrap = false ∧ 4 ≤ s.siloFrames ∧ s.die.frames = []) :=
  ⟨⟨ofCore (fun c => { c with outgoing := [msg 0 []] }) (handing (headerNum 4 65536 96 128 0x44 1)), ⟨0, lmCode 0,
    BitVec.ofNat 512 (headerNum 4 65536 96 128 0x44 1), 0#128, [], none⟩, smallKern, (here user).pc, by decide +kernel⟩,
    ⟨handing (headerNum 4 65536 96 128 0x44 1), ⟨0, lmCode 0, BitVec.ofNat 512 (headerNum 4 65536 96 128 0x44 1), 0#128, [],
    none⟩, smallKern, (here user).pc, by decide +kernel⟩,
    ⟨(handing (headerNum 3 65536 96 128 0x44 1)).modModule fun m => { m with silo := 1 }, ⟨0, lmCode 0, BitVec.ofNat 512
    (headerNum 3 65536 96 128 0x44 1), 0#128, [], none⟩, smallKern, (here user).pc, by decide +kernel⟩⟩

theorem hyps_CopiesAndFills :
    (∃ (s : State) (k : SlotId) (c : Command) (rest : List Command) (dst : Nat) (src : _), Oldest s k .e0 c rest ∧ headerChv
    c.header = false ∧ (let n := bits c.header 0 64; s.windowFlies dst n = false ∧ headerOpc c.header = 0x01 ∧
    Reach s (c.elem 1) .load n src ∧ Reach s (c.elem 2) .store n dst ∧ Apart src n dst n)) ∧
    (∃ (s : State) (k : SlotId) (c : Command) (rest : List Command) (dst : Nat), Oldest s k .e0 c rest ∧ headerChv c.header =
    false ∧ (let n := bits c.header 0 64; s.windowFlies dst n = false ∧ headerOpc c.header = 0x02 ∧
    Reach s (c.elem 1) .store n dst)) :=
  ⟨⟨engine .e0 copyCmd, 0, copyCmd, [], ourLm 0x2000, ourLm 0x1000, (taken (by decide +kernel)).1, by decide +kernel⟩,
    ⟨engine .e0 fillCmd, 0, fillCmd, [], ourLm 0x1005, (taken (by decide +kernel)).1, by decide +kernel⟩⟩

theorem hyps_RefusedCommands : ∃ (s : State) (k : SlotId) (c : Command) (rest : List Command) (src cause : Nat), Taken s k .e0
    c rest ∧ headerChv c.header = false ∧ headerOpc c.header = 0x01 ∧ Reach s (c.elem 1) .load (bits c.header 0 64) src ∧
    regionOf (addrOf (c.elem 2).bits) < 0xE ∧ capFault (c.elem 2) [.store] (addrOf (c.elem 2).bits) (bits c.header 0 64) =
    some cause :=
  ⟨engine .e0 shortCmd, 0, shortCmd, [], ourLm 0x1000, 0x185, taken (by decide +kernel), by decide +kernel⟩

theorem hyps_CopiesFromStorage : ∃ (s u w : State) (k : SlotId) (c : Command) (rest : List Command) (dst e : Nat), Taken s k
    .e0 c rest ∧ headerChv c.header = false ∧ headerOpc c.header = 0x03 ∧ c.header.getLsbD 64 = false ∧
    (let n := bits c.header 0 64; let x := (c.elem 1).bits; 0 < n ∧ n ≤ 256 ∧ Reach s (c.elem 2) .store n dst ∧
    s.extentTableValid = true ∧ bits x 0 32 < s.extentCount ∧ bits x 112 16 = 0 ∧ extentEntry (bits x 0 32) s = .ok (some e) u
    ∧ extentEntry (bits x 0 32) u = .ok (some e) w ∧ fld e 0 2 = 3 ∧ fld e 32 4 = 1 ∧ fld e 48 16 = bits x 32 16 ∧ bits x 48
    64 + n ≤ fld e 192 64) :=
  by refine ⟨extents, extents, extents, 0, extentCmd, [], ourLm 0x3000, extentNum, taken (by decide +kernel), ?_, ?_, ?_,
    ?_, ?_, ?_, ?_, ?_, ?_, rfl, rfl, ?_⟩ <;> decide +kernel

theorem hyps_GathersAndScatters :
    (∃ (s : State) (k : SlotId) (c : Command) (rest : List Command) (idx far near : Nat) (row : Nat → Nat), Taken s k .e2 c
    rest ∧ headerChv c.header = false ∧ (let rows := bits c.header 32 32; let n := bits c.header 0 32; Reach s (c.elem 1)
    .load (4 * rows) idx ∧ headerOpc c.header = 0x20 ∧ Reach s (c.elem 2) .load 0 far ∧ Reach s (c.elem 3) .store (rows * n)
    near ∧ Apart idx (4 * rows) near (rows * n) ∧ (∀ u, u < rows → ReachAt s (c.elem 2) .load (addrOf (c.elem 2).bits +
    indexRow s idx u * n) n (row u) ∧ Apart (row u) n near (rows * n)))) ∧
    (∃ (s : State) (k : SlotId) (c : Command) (rest : List Command) (idx far near : Nat) (row : Nat → Nat), Taken s k .e2 c
    rest ∧ headerChv c.header = false ∧ (let rows := bits c.header 32 32; let n := bits c.header 0 32; Reach s (c.elem 1)
    .load (4 * rows) idx ∧ headerOpc c.header = 0x21 ∧ Reach s (c.elem 2) .load (rows * n) near ∧ Reach s (c.elem 3) .store 0
    far ∧ (∀ u, u < rows → ReachAt s (c.elem 3) .store (addrOf (c.elem 3).bits + indexRow s idx u * n) n (row u) ∧ Apart (row
    u) n near (rows * n) ∧ Apart (row u) n idx (4 * rows) ∧ ∀ v, v < u → Apart (row u) n (row v) n))) :=
  ⟨⟨gathering gatherCmd, 0, gatherCmd, [], ourLm 0x1000, ourLm 0x2000, ourLm 0x3000, gatherRow, taken (by decide +kernel), by
    decide +kernel⟩,
    ⟨gathering scatterCmd, 0, scatterCmd, [], ourLm 0x1000, ourLm 0x2000, ourLm 0x3000, gatherRow, taken (by decide +kernel),
    by decide +kernel⟩⟩

theorem hyps_Mailboxes :
    (∃ (s : State) (k : SlotId) (c : Command) (rest : List Command), Taken s k .e7 c rest ∧ (headerOpc c.header = 0x70 ∧
    s.boundFunction c.tenant = none)) ∧
    (∃ (s : State) (k : SlotId) (c : Command) (rest : List Command) (g : Nat), Taken s k .e7 c rest ∧
    (let m := headerArg c.header; headerOpc c.header = 0x70 ∧ s.boundFunction c.tenant = some g ∧ 256 ≤ (s.outboxOf g
    m).entries.length)) ∧
    (∃ (s : State) (k : SlotId) (c : Command) (rest : List Command) (g : Nat), Taken s k .e7 c rest ∧
    (let m := headerArg c.header; headerOpc c.header = 0x70 ∧ s.boundFunction c.tenant = some g ∧ (s.outboxOf g
    m).entries.length < 256)) ∧
    (∃ (s : State) (k : SlotId) (c : Command) (rest : List Command) (g : Nat), Taken s k .e7 c rest ∧
    (let m := headerArg c.header; headerOpc c.header = 0x71 ∧ s.boundFunction c.tenant = some g ∧ (s.inboxOf g m).entries
    = [])) ∧
    (∃ (s : State) (k : SlotId) (c : Command) (rest : List Command) (g : Nat) (e l : _), Taken s k .e7 c rest ∧
    (let m := headerArg c.header; headerOpc c.header = 0x71 ∧ s.boundFunction c.tenant = some g ∧ (s.inboxOf g m).entries
    = e :: l ∧ e.length = 64)) :=
  ⟨⟨engine .e7 pushCmd, 0, pushCmd, [], taken (by decide +kernel), by decide +kernel⟩,
    ⟨withOut 256 (boundTo 3 (engine .e7 pushCmd)), 0, pushCmd, [], 3, taken (by decide +kernel), by decide +kernel⟩,
    ⟨withOut 255 (boundTo 3 (engine .e7 pushCmd)), 0, pushCmd, [], 3, taken (by decide +kernel), by decide +kernel⟩,
    ⟨boundTo 3 (engine .e7 popCmd), 0, popCmd, [], 3, taken (by decide +kernel), by decide +kernel⟩,
    ⟨withIn 1 (boundTo 3 (engine .e7 popCmd)), 0, popCmd, [], 3, List.replicate 64 7#8, [], taken (by decide +kernel), by
    decide +kernel⟩⟩

theorem hyps_Collectives :
    (∃ (s : State) (k : SlotId) (c : Command) (rest : List Command) (peers : List PeerData) (group src dst w : Nat) (x : _),
    Taken { s with event := .slot k } k .e3 c rest ∧ s.event = .collective k peers ∧ collWidth c.header = some w ∧ bits
    c.header 36 3 ≤ 2 ∧ (let n := bits c.header 0 32; bits c.header 48 10 = 1 ∧ Reach s (c.elem 1) .load 2 group ∧ ofBytes
    (s.bytes group 2) = s.core.id.toNat ∧ Reach s (c.elem 2) .load (w * n) src ∧ Reach s (c.elem 3) .store (w * n) dst ∧ x ∈
    collectives ∧ headerOpc c.header = x.1)) ∧
    (∃ (s : State) (k : SlotId) (c : Command) (rest : List Command) (peers : List PeerData) (group w : Nat), Taken
    { s with event := .slot k } k .e3 c rest ∧ s.event = .collective k peers ∧ collWidth c.header = some w ∧ bits c.header 36
    3 ≤ 2 ∧ (bits c.header 48 10 = 1 ∧ Reach s (c.elem 1) .load 2 group ∧ ofBytes (s.bytes group 2) = s.core.id.toNat ∧
    headerOpc c.header = 0x34)) ∧
    (∃ (s : State) (k : SlotId) (c : Command) (rest : List Command) (peers : List PeerData) (group src dst w : Nat) (p :
    PeerData), Taken { s with event := .slot k } k .e3 c rest ∧ s.event = .collective k peers ∧ collWidth c.header = some w ∧
    bits c.header 36 3 ≤ 2 ∧ (let n := bits c.header 0 32; bits c.header 48 10 = 2 ∧ headerOpc c.header = 0x30 ∧ bits c.header
    32 4 = 6 ∧ bits c.header 36 3 = 0 ∧ Reach s (c.elem 1) .load 4 group ∧ ofBytes (s.bytes group 2) = s.core.id.toNat ∧
    ofBytes (s.bytes (group + 2) 2) = p.core.toNat ∧ p.core ≠ s.core.id ∧ peers = [p] ∧ p.data.length = 4 * n ∧ Reach s
    (c.elem 2) .load (4 * n) src ∧ Reach s (c.elem 3) .store (4 * n) dst)) :=
  ⟨⟨collecting (collCmd 0x33 6 2 1) [], 0, collCmd 0x33 6 2 1, [], [], ourLm 0x1000, ourLm 0x2000, ourLm 0x3000, 4, (0x33,
    .broadcast), taken (by decide +kernel), by decide +kernel⟩,
    ⟨collecting (collCmd 0x34 6 0 1) [], 0, collCmd 0x34 6 0 1, [], [], ourLm 0x1000, 4, taken (by decide +kernel), by
    decide +kernel⟩,
    ⟨collecting (collCmd 0x30 6 0 2) [other], 0, collCmd 0x30 6 0 2, [], [other], ourLm 0x1000, ourLm 0x2000, ourLm 0x3000, 4,
    other, taken (by decide +kernel), by decide +kernel⟩⟩

theorem hyps_QuernOpens :
    (∃ (s : State) (k : SlotId) (c : Command) (rest : List Command), Taken s k .e1 c rest ∧ 0x14 ≤ headerOpc c.header ∧
    headerOpc c.header ≤ 0x17) ∧
    (∃ (s : State) (k : SlotId) (c : Command) (rest : List Command) (hl sl : _), Taken s k .e1 c rest ∧ headerOpc c.header =
    0x10 ∧ Tables s (c.elem 1) hl ∧ Reach s (c.elem 2) .load 160 sl ∧ (let n := bits c.header 0 8;
    let gram := c.header.getLsbD 8; let h := ofBytes (s.bytes hl 64); let l := s.bytes sl 160; (s.seq n).isOpen = true ∧
    (s.seq n).tenant = c.tenant ∧ (gram = true → fld h 384 16 ≠ 0) ∧ (∀ i, i < 4 → (l.getD i 0#8).toNat ≤ 32) ∧ (∀ i, 4 ≤
    i → i < 32 → l.getD i 0#8 = 0#8))) :=
  ⟨⟨engine .e1 (cmd 0x17 0 [dat 0, dat 0]), 0, cmd 0x17 0 [dat 0, dat 0], [], taken (by decide +kernel), by decide +kernel⟩,
    by refine ⟨pk 0x2000 (leBytes 160 0x20002002) (texting openCmd 1), 0, openCmd, [], ourLm 0x1000, ourLm 0x2000, taken (by
    decide +kernel), ?_, ?_, ?_, ?_, ?_, ?_, ?_, fun i h4 h => (by decide +kernel : ∀ i, i < 32 → 4 ≤ i → ((pk 0x2000
    (leBytes 160 0x20002002) (texting openCmd 1)).bytes (ourLm 0x2000) 160).getD i 0#8 = 0#8) i h h4⟩ <;> decide +kernel⟩

theorem hyps_QuernEncodes :
    (∃ (s : State) (k : SlotId) (c : Command) (rest : List Command) (tc : Reg) (x : Text) (hl src dst : Nat) (at_ : Nat →
    Nat), Taken s k .e1 c rest ∧ headerOpc c.header = 0x11 ∧ BoundText s c tc x ∧ Tables s tc hl ∧
    (let h := ofBytes (s.bytes hl 64); let n := bits (c.elem 3).bits 0 32; 0 < n ∧ n ≤ 65536 ∧ Reach s (c.elem 1) .load n src
    ∧ (∀ i, i < n → TableAt s tc (fld h 224 32 + 4 * (s.byte (src + i)).toNat) 4 (at_ i)) ∧ fld h 320 32 = 0 ∧ Reach s (c.elem
    2) .store (4 * n) dst)) ∧
    (∃ (s : State) (k : SlotId) (c : Command) (rest : List Command) (tc : Reg) (x : Text) (hl src dst : Nat) (at_ : Nat → Nat)
    (ml : _), Taken s k .e1 c rest ∧ headerOpc c.header = 0x11 ∧ BoundText s c tc x ∧ Tables s tc hl ∧
    (let h := ofBytes (s.bytes hl 64); let n := bits (c.elem 3).bits 0 32;
    let ident (i : Nat) : Nat := ofBytes (s.bytes (at_ i) 4); 0 < n ∧ n ≤ 65536 ∧ Reach s (c.elem 1) .load n src ∧ (∀ i, i < n
    → TableAt s tc (fld h 224 32 + 4 * (s.byte (src + i)).toNat) 4 (at_ i)) ∧ n = 2 ∧ fld h 320 32 = 1 ∧ TableAt s tc (fld h
    352 32) 16 ml ∧ Reach s (c.elem 2) .store 4 dst ∧ (let e := ofBytes (s.bytes ml 16); fld e 0 32 = ident 0 ∧ fld e 32 32 =
    ident 1))) :=
  ⟨⟨texting encodeCmd 0, 0, encodeCmd, [], tableCap, text, ourLm 0x1000, ourLm 0x2000, ourLm 0x3000, fun i => ourLm (0x1140 +
    4 * (i + 1)), taken (by decide +kernel), by decide +kernel⟩,
    by refine ⟨texting encodeCmd 1, 0, encodeCmd, [], tableCap, text, ourLm 0x1000, ourLm 0x2000, ourLm 0x3000, fun i =>
    ourLm (0x1140 +
    4 * (i + 1)), ourLm 0x1500, taken (by decide +kernel), ?_, ?_, ?_, ?_, ?_, ?_, ?_, ?_, ?_, ?_, ?_, ?_, ?_⟩ <;>
    decide +kernel⟩

theorem hyps_QuernSteps :
    (∃ (s : State) (k : SlotId) (c : Command) (rest : List Command) (tc : Reg) (x : Text) (hl src dst ol dl : Nat), Taken s k
    .e1 c rest ∧ headerOpc c.header = 0x12 ∧ BoundText s c tc x ∧ Tables s tc hl ∧ x.gram = false ∧
    x.stopped = false ∧ bits (c.elem 3).bits 0 16 = 1 ∧ Reach s (c.elem 1) .load 4 src ∧ (let h := ofBytes (s.bytes hl 64);
    let tok := ofBytes (s.bytes src 4); let lo := ofBytes (s.bytes ol 4); let hi := ofBytes (s.bytes (ol + 4) 4);
    let eos := tok == fld h 192 32; let r := detokenise eos (x.held ++ s.bytes dl (hi - lo)) x.stops; tok < fld h 160 32 ∧
    TableAt s tc (fld h 256 32 + 4 * tok) 8 ol ∧ lo ≤ hi ∧ hi ≤ lo + 64 ∧ TableAt s tc (fld h 288 32 + lo) (hi - lo) dl ∧
    Reach s (c.elem 2) .store r.1.length dst ∧ r.1.length ≤ roomOf (c.elem 2).bits)) ∧
    (∃ (buf : List Byte) (stops : List (List Byte)), (detokenise false buf stops).2.2 = none) :=
  ⟨⟨pk 0x2000 (leBytes 4 5) (texting stepCmd 0), 0, stepCmd, [], tableCap, text, ourLm 0x1000, ourLm 0x2000, ourLm 0x3000,
    ourLm 0x1614, ourLm 0x170A, taken (by decide +kernel), by decide +kernel⟩,
    ⟨[1#8, 2#8], [[9#8]], by decide +kernel⟩⟩

theorem hyps_QuernMasks : ∃ (s : State) (k : SlotId) (c : Command) (rest : List Command) (tc : Reg) (x : Text) (hl dst : Nat),
    Taken s k .e1 c rest ∧ headerOpc c.header = 0x13 ∧ BoundText s c tc x ∧ Tables s tc hl ∧ x.gram = false
    ∧ fld (ofBytes (s.bytes hl 64)) 384 16 = 0 ∧ (let v := fld (ofBytes (s.bytes hl 64)) 160 32; 2 ≤ v ∧ bits (c.elem
    2).bits 0 32 = v ∧ (v + 7) / 8 ≤ roomOf (c.elem
    1).bits ∧ Reach s (c.elem 1) .store ((v + 7) / 8) dst) :=
  ⟨texting maskCmd 0, 0, maskCmd, [], tableCap, text, ourLm 0x1000, ourLm 0x2000, taken (by decide +kernel), by
    decide +kernel⟩

theorem hyps_Planes :
    (∃ (s : State) (a : RegIdx) (tm : Fin 16) (pat : Pattern), Harrows s [s.sliceNo] ∧ Unbound s [a] ∧ levelEnables
    s.serviceLevel (fmtB s) = true ∧ harrowFormat (fmtB s) = true ∧ s.loadTurn s.cur = true ∧ NearTile s a tm (formatTile
    (fmtB s)) pat ∧ Clean s pat ∧ (s.slot s.cur).sheaf.held = [] ∧ NothingDeferred s) ∧
    (∃ (s : State) (p l : _), s.event = .slice p ∧ (s.harrow.slices.get p).load = some l) ∧
    (∃ s : State, Harrows s [s.sliceNo] ∧ s.slice.shadow.valid = true ∧ s.swapTurn = true ∧ s.slice.bad = none) ∧
    (∃ s : State, Harrows s [s.sliceNo] ∧ s.slice.shadow.valid = false ∧ s.slice.load = none) ∧
    (∃ s : State, Harrows s [s.sliceNo] ∧ s.swapStands s.cur = false) :=
  ⟨⟨harrow 0 (mapOf 0 4 [(256, 16)]), 6, 0, mapPattern (mapOf 0 4 [(256, 16)]) (lmCap 0x4000 0x1000).bits, harrows (by
    decide +kernel), by decide +kernel⟩,
    ⟨ev (.slice 7) (slices (fun x => { x with load := some ⟨[], [], false, none⟩ }) user), 7, ⟨[], [], false, none⟩, by decide +kernel⟩,
    ⟨slices (fun x => { x with shadow := plane 9 }) leveled, harrows (by decide +kernel), by decide +kernel⟩,
    ⟨leveled, harrows (by decide +kernel), by decide +kernel⟩,
    ⟨leveled, harrows (by decide +kernel), by decide +kernel⟩⟩

theorem hyps_OperationsStart : ∃ (s : State) (d a : RegIdx) (tm : Fin 16) (pat : Pattern), Harrows s sliceIds ∧ Unbound s [d,
    a] ∧ (let w := n64 ((here s).reg d).bits; let k : Fin 4 := Fin.ofNat 4 (fld w 12 2); let rows := fld w 6 6 + 1; s.goTurn
    s.cur k = true ∧ w < 2 ^ 21 ∧ fld w 0 6 + rows ≤ 64 ∧ fld w 14 7 + 1 ≤ formatKt (fmtA s) ∧ pairAccepted (fmtA s) (fmtB s)
    = true ∧ formatScaled (fmtB s) = false ∧ levelEnables s.serviceLevel (fmtA s) = true ∧ levelEnables s.serviceLevel (fmtB
    s) = true ∧ (∀ p, (s.harrow.slices.get p).active.valid = true ∧ (s.harrow.slices.get p).active.fmt.toNat = fmtB s) ∧
    NearTile s a tm (rows * formatRow (fmtA s)) pat ∧ holdsLeave (s.slot s.cur) [1, 4] = true) :=
  ⟨going (62 + 2 ^ 6 + 3 * 2 ^ 12 + 39 * 2 ^ 14), 5, 6, 0, goPat, harrows (by decide +kernel), by decide +kernel⟩

theorem hyps_OperationsProceed :
    (∃ (s : State) (k : Fin 4) (o : Operation) (rest : _), (s.opSlot k).op = some o ∧ s.harrow.queue = k :: rest ∧ (∀ j x,
    (s.opSlot j).op = some x → x.begun = true → x.ended = true)) ∧
    (∃ (s : State) (k : Fin 4) (o : Operation), (s.opSlot k).op = some o ∧ s.event = .operation k ∧ o.begun = true ∧ (s.opSlot
    k).oc = false ∧ Clean s o.pattern ∧ (∀ m, m < o.rows → ∀ i ∈ o.rowItems m, i < o.pattern.items)) ∧
    (∃ (s : State) (k : Fin 4) (o : Operation), (s.opSlot k).op = some o ∧ s.event = .operation k ∧ o.ended = true ∧ (∀ w ∈
    s.harrow.work, isOperation k w = false)) :=
  ⟨⟨(inOp (op false false) false).modHarrow fun h => { h with queue := [3] }, 3, op false false, [], by decide +kernel, by
    decide +kernel, fun j x e b => by revert x; revert j; decide +kernel⟩,
    ⟨ev (.operation 3) (inOp (op true false) false), 3, op true false, by decide +kernel⟩,
    ⟨ev (.operation 3) (inOp (op true true) true), 3, op true true, by decide +kernel⟩⟩

theorem hyps_RowsBecomeFinal : ∃ (s : State) (k : Fin 4) (r : Fin 64) (o : Operation), s.event = .row k r ∧ (s.opSlot k).op =
    some o ∧ (s.opSlot k).oc = true ∧ s.harrow.work = [.operation k [r.val]] ∧ r.val ∉ o.badRows :=
  ⟨ev (.row 3 63) ((inOp (op true true) true).modHarrow fun h => { h with work := [.operation 3 [63]] }), 3, 63, op true true,
    by decide +kernel⟩

theorem hyps_WaitsAndZeros :
    (∃ (s : State) (a : RegIdx) (k : Fin 4) (done : Bool), Unbound s [a] ∧ (let w := n64 ((here s).reg a).bits; Harrows s [] ∧
    w = k.val ∧ (let flag := if done then (s.opSlot k).done else (s.opSlot k).oc; flag = true ∧ (s.opSlot k).err = none))) ∧
    (∃ (s : State) (a : RegIdx) (k : Fin 4) (done : Bool), Unbound s [a] ∧ (let w := n64 ((here s).reg a).bits; Harrows s [] ∧
    w = k.val ∧ (let flag := if done then (s.opSlot k).done else (s.opSlot k).oc; flag = false))) ∧
    (∃ (s : State) (a : RegIdx) (k : Fin 4) (done : Bool) (e : _), Unbound s [a] ∧ (let w := n64 ((here s).reg a).bits;
    Harrows s [] ∧ w = k.val ∧ (let flag := if done then (s.opSlot k).done else (s.opSlot k).oc; flag = true ∧ (s.opSlot
    k).err = some e))) ∧
    (∃ (s : State) (a : RegIdx), Unbound s [a] ∧ (let w := n64 ((here s).reg a).bits; Harrows s sliceIds ∧ w < 2 ^ 12 ∧ fld w
    0 6 + fld w 6 6 + 1 ≤ 64 ∧ s.harrow.work = [])) ∧
    (∃ (s : State) (a : RegIdx), Unbound s [a] ∧ (let w := n64 ((here s).reg a).bits; Harrows s [] ∧ w < 2 ^ 6 ∧
    s.harrow.work = [])) :=
  ⟨⟨put [(6, dat 3)] (inOp (op true true) true), 6, 3, false, by decide +kernel, harrows (by decide +kernel), by
    decide +kernel⟩,
    ⟨put [(6, dat 3)] (inOp (op true true) false), 6, 3, false, by decide +kernel, harrows (by decide +kernel), by
    decide +kernel⟩,
    ⟨put [(6, dat 3)] (user.modOp 3 fun x => { x with oc := true, err := some 5 }), 6, 3, false, 5, by decide +kernel, harrows
    (by decide +kernel), by decide +kernel⟩,
    ⟨put [(6, dat 63)] leveled, 6, by decide +kernel, harrows (by decide +kernel), by decide +kernel⟩,
    ⟨put [(6, dat 63)] leveled, 6, by decide +kernel, harrows (by decide +kernel), by decide +kernel⟩⟩

theorem hyps_DrainsStart : ∃ (s : State) (d a : RegIdx) (bf : Bool) (off : Nat), Harrows s sliceIds ∧ Unbound s [d, a] ∧
    (let w := n64 ((here s).reg d).bits; let rows := fld w 6 6 + 1; fld w 22 10 = 0 ∧ (fld w 20 1 = 1 ∨ fld w 12 8 = 0) ∧ fld
    w 0 6 + rows ≤ 64 ∧ NearLm s a [.store] (rows * if bf then 1024 else 2048) 32 off ∧ s.harrow.drains.length < 4) :=
  ⟨put [(5, dat (60 + 3 * 2 ^ 6)), (6, lmCap 0x3E000 0x2000)] leveled, 5, 6, false, 0x3E000, harrows (by decide +kernel), by
    decide +kernel⟩

theorem hyps_DrainsWrite :
    (∃ (s : State) (x : Drain) (rest : List Drain) (r : _), s.harrow.drains = x :: rest ∧ x.ownLm = true ∧ Quiet s ∧ x.next <
    x.nrows ∧ r = x.row0 + x.next ∧ r < 64 ∧ s.harrow.work = [.drain [r]] ∧ x.bf16 = false ∧ x.offset + x.next * 2048 + 2048 ≤
    2 ^ 18) ∧
    (∃ (s : State) (x : Drain) (rest : List Drain), s.harrow.drains = x :: rest ∧ x.ownLm = true ∧ Quiet s ∧ x.nrows ≤ x.next
    ∧ x.wake = true ∧ (∀ m, s.event ≠ .msg m) ∧ s.core.mode = .running ∧ s.core.kernel.isSome = true ∧ s.core.handoff =
    none ∧ s.core.scrubbing = false
    ∧ s.ringFree = true ∧ (∃ p, p < 256 ∧ ∀ y ∈ s.core.ring, y.place ≠ p) ∧ (∃ p, p < 16 ∧ p ∉ s.core.received) ∧ s.lmNat
    (tableOffset s.core.clsbase + 4 * x.cls.toNat) 4 ≠ 0 ∧ tableOffset s.core.rrbase + 12288 ≤ 2 ^ 18) :=
  ⟨⟨draining 0 [.drain [63]], drain 0, [], 63, by decide +kernel, by decide +kernel, quiet (by decide +kernel), by
    decide +kernel⟩,
    by refine ⟨ev .plain (draining 1 []), drain 1, [], ?_, ?_, quiet (by decide +kernel), ?_, ?_, nofun, ?_, ?_, ?_, ?_,
    ?_, ⟨0, by
    decide +kernel⟩, ⟨0, by decide +kernel⟩, ?_⟩ <;> decide +kernel⟩

theorem hyps_CellsAndStatus : ∃ (s : State) (d a : RegIdx), Harrows s [s.sliceNo] ∧ Unbound s [d, a] ∧
    (let w := n64 ((here s).reg a).bits; let r := fld w 0 6; w < 2 ^ 10 ∧ s.rowTurn r = true) :=
  ⟨put [(6, dat 0x3FF)] leveled, 5, 6, harrows (by decide +kernel), by decide +kernel⟩

theorem hyps_SequencesOpenAndClose :
    (∃ (s : State) (d a b : RegIdx) (n : _), Unbound s [d, a, b] ∧ (let c := (here s).reg a;
    let x := n64 ((here s).reg b).bits; Room s ∧ c.tag = true ∧ otypeOf c.bits = 0 ∧ hasPerm c.bits .windrow = true ∧ x < 2 ^
    48 ∧ n < 256 ∧ (s.seq n).isOpen = false ∧ (capBounds c.bits).1 ≤ (s.seqId n : Int) ∧ (s.seqId n : Int) < (capBounds
    c.bits).2 ∧ (∀ m, m < n → (s.seq m).isOpen = true ∨ (s.seqId m : Int) < (capBounds c.bits).1 ∨ (capBounds c.bits).2 ≤
    (s.seqId m : Int)) ∧ (x / 2 ^ 32 = 0 ∨ s.bindable (x / 2 ^ 32) (x % 2 ^ 32) = true) ∧ (s.slot s.cur).sheaf.held = [])) ∧
    (∃ (s : State) (d a b : RegIdx) (n : _), Unbound s [d, a, b] ∧ (Sequence s a n)) :=
  ⟨by refine ⟨put [(6, seqCap 0), (7, dat 64)], 5, 6, 7, 0, ?_, ?_, ?_, ?_, ?_, ?_, ?_, ?_, ?_, ?_, fun m h => absurd h
    (Nat.not_lt_zero m), ?_⟩ <;> decide +kernel,
    ⟨atSeq onePred [], 5, 6, 7, 3, by decide +kernel⟩⟩

theorem hyps_Predictions :
    (∃ (s : State) (d a b : RegIdx) (n : Nat) (l : List (BitVec 32)) (k : _), Unbound s [d, a, b] ∧ Sequence s a n ∧ Reply s b
    l ∧ s.quernPending n = false ∧ (s.seq n).slots.get k = none ∧ (∀ j, j < k → (s.seq n).slots.get j ≠ none)) ∧
    (∃ (s : State) (d a b : RegIdx) (n : Nat) (l : List (BitVec 32)), Unbound s [d, a, b] ∧ Sequence s a n ∧ Reply s b l ∧ (∀
    k, (s.seq n).slots.get k ≠ none)) :=
  ⟨⟨replying [11, 12] onePred, 5, 6, 7, 3, [11#32, 12#32], 0, by decide +kernel, by decide +kernel, ⟨0x2000, by
    decide +kernel⟩, by decide +kernel⟩,
    ⟨replying [11, 12] fullPreds, 5, 6, 7, 3, [11#32, 12#32], by decide +kernel, by decide +kernel, ⟨0x2000, by
    decide +kernel⟩, by decide +kernel⟩⟩

theorem hyps_TokensAreAppended :
    (∃ (s : State) (r a b : RegIdx) (n : Nat), Unbound s [r, a, b] ∧ Sequence s a n ∧ (let y := s.seq n;
    let x := n64 ((here s).reg b).bits; let tok := BitVec.ofNat 32 x;
    let denied : Prop := ∃ k p, y.slots.get k = some p ∧ p.c ≤ y.kvlen ∧ y.kvlen < p.c + p.tokens.length ∧ p.tokens.getD (y.kvlen - p.c) 0#32 ≠ tok;
    x < 2 ^ 32 ∧ ¬ denied ∧ y.tokens.length < 1024 ∧ y.binding = 0)) ∧
    (∃ (s : State) (r a b : RegIdx) (n : Nat), Unbound s [r, a, b] ∧ Sequence s a n ∧ (let y := s.seq n;
    let x := n64 ((here s).reg b).bits; let tok := BitVec.ofNat 32 x;
    let denied : Prop := ∃ k p, y.slots.get k = some p ∧ p.c ≤ y.kvlen ∧ y.kvlen < p.c + p.tokens.length ∧ p.tokens.getD (y.kvlen - p.c) 0#32 ≠ tok;
    x < 2 ^ 32 ∧ denied)) ∧
    (∃ (s : State) (r a b : RegIdx) (n : Nat), Unbound s [r, a, b] ∧ Sequence s a n ∧ (let x := n64 ((here s).reg b).bits; 2 ^
    32 ≤ x ∧ x < 2 ^ 33)) :=
  ⟨⟨atSeq onePred [(7, dat 11)], 8, 6, 7, 3, by decide +kernel, by decide +kernel, by decide +kernel,
    fun ⟨k, p, h, a, b, c⟩ => by revert p; revert k; decide +kernel, by decide +kernel⟩,
    ⟨atSeq fullPreds [(7, dat 13)], 8, 6, 7, 3, by decide +kernel, by decide +kernel, by decide +kernel, 3, pred 7 [12], by
    decide +kernel⟩,
    ⟨atSeq onePred [(7, dat (2 ^ 32))], 8, 6, 7, 3, by decide +kernel⟩⟩

theorem hyps_RequestsWait :
    (∃ (s : State) (r a b : RegIdx) (n : Nat) (early g off : _), Unbound s [r, a, b] ∧ Sequence s a n ∧
    (let box := n64 ((here s).reg r).bits; let y := s.seq n; box < 64 ∧ s.boundFunction s.core.tenant = some g ∧ NearLm s b
    [.load] 64 16 off ∧ Free s (s.lm off) 64 false ∧ (early = true → (s.outboxOf g box).early = false) ∧ y.places < 64 ∧ (∃ k
    p, y.slots.get k = some p ∧ p.c ≤ y.kvlen))) ∧
    (∃ (s : State) (r a b : RegIdx) (n : Nat) (early g off : _), Unbound s [r, a, b] ∧ Sequence s a n ∧
    (let box := n64 ((here s).reg r).bits; let y := s.seq n; box < 64 ∧ s.boundFunction s.core.tenant = some g ∧ NearLm s b
    [.load] 64 16 off ∧ Free s (s.lm off) 64 false ∧ (early = true → (s.outboxOf g box).early = false) ∧ y.places < 64 ∧
    y.made = [] ∧ (∀ k, y.slots.get k = none))) ∧
    (∃ (s : State) (m : Fin 256) (x rest g : _), s.event = .sequence m ∧ (s.seq m.val).sending = x :: rest ∧ s.boundFunction
    x.tenant = some g ∧ (s.outboxOf g x.mailbox).entries.length < 256) ∧
    (∃ (s : State) (m : Fin 256) (x rest g : _), s.event = .sequence m ∧ (s.seq m.val).sending = x :: rest ∧ s.boundFunction
    x.tenant = some g ∧ 256 ≤ (s.outboxOf g x.mailbox).entries.length) :=
  ⟨by refine ⟨boundTo 3 (replying (List.range 16) onePred), 8, 6, 7, 3, true, 3, 0x2000, ?_, ?_, ?_, ?_, ?_, ?_, ?_, ?_, 1,
    pred 5
    [9, 10, 11], ?_⟩ <;> decide +kernel,
    ⟨put [(8, dat 63)] (boundTo 3 (replying (List.range 16) { Seq.closed with isOpen := true, tenant := 5#12 })), 8, 6, 7, 3,
    true, 3, 0x2000, by decide +kernel⟩,
    ⟨ev (.sequence 255) (withOut 255 (boundTo 3 (user.setSeq 255 { onePred with sending := [⟨[], 63, 5#12, true⟩] }))), 255,
    ⟨[], 63, 5#12, true⟩, [], 3, by decide +kernel⟩,
    ⟨ev (.sequence 255) (withOut 256 (boundTo 3 (user.setSeq 255 { onePred with sending := [⟨[], 63, 5#12, true⟩] }))), 255,
    ⟨[], 63, 5#12, true⟩, [], 3, by decide +kernel⟩⟩

theorem hyps_PredictionsAreChecked :
    (∃ (s : State) (d a b : RegIdx) (k : Fin 4) (n : Nat) (p : Prediction) (l : _), Unbound s [d, a, b] ∧ Sequence s a n ∧
    Predicts s n k p ∧ (s.seq n).binding = 0 ∧ s.quernPending n = false ∧ Reply s b l ∧ l = p.tokens) ∧
    (∃ (s : State) (d a b : RegIdx) (k : Fin 4) (n : Nat) (p : Prediction) (l : _), Unbound s [d, a, b] ∧ Sequence s a n ∧
    Predicts s n k p ∧ (s.seq n).binding = 0 ∧ s.quernPending n = false ∧ Reply s b l ∧ l ≠ p.tokens) ∧
    (∃ (s : State) (d a b : RegIdx) (k : Fin 4) (n : Nat) (p : Prediction) (j : _), Unbound s [d, a, b] ∧ Sequence s a n ∧
    Predicts s n k p ∧ (s.seq n).binding = 0 ∧ s.quernPending n = false ∧ n64 ((here s).reg b).bits = j ∧ j ≤ min
    p.tokens.length ((s.seq n).kvlen - p.c)) :=
  ⟨by refine ⟨replying [9, 10, 11] onePred, 5, 6, 7, 1, 3, pred 5 [9, 10, 11], [9#32, 10#32, 11#32], ?_, ?_, ?_, ?_, ?_,
    ⟨0x2000, by decide +kernel⟩, ?_⟩ <;> decide +kernel,
    by refine ⟨replying [9, 12, 11] onePred, 5, 6, 7, 1, 3, pred 5 [9, 10, 11], [9#32, 12#32, 11#32], ?_, ?_, ?_, ?_, ?_,
    ⟨0x2000, by decide +kernel⟩, ?_⟩ <;> decide +kernel,
    ⟨atSeq onePred [(7, dat 2)], 5, 6, 7, 1, 3, pred 5 [9, 10, 11], 2, by decide +kernel⟩⟩

theorem hyps_SequencesAreRead : ∃ (s : State) (d a : RegIdx) (n : Nat) (k : Fin 4) (p : Prediction), Unbound s [d, a] ∧
    Sequence s a n ∧ Predicts s n k p ∧ p.c < 2 ^ 32 ∧ p.tokens.length < 2 ^ 16 ∧ (s.seq n).slots.get 0 = none :=
  ⟨atSeq onePred [], 5, 6, 3, 1, pred 5 [9, 10, 11], by decide +kernel⟩

theorem hyps_ReleasesTheModule :
    (∃ (s : State) (ok : Bool) (a b c : BitVec 256), s.event = .release ok a b c ∧ s.module.phase = .inReset ∧ ok = true) ∧
    (∃ (s : State) (ok : Bool) (a b c : BitVec 256), s.event = .release ok a b c ∧ (s.module.phase ≠ .inReset ∨ ok = false)) ∧
    (∃ (s : State) (v : BitVec 256), s.event = .digest v ∧ s.module.phase = .released ∧ s.module.meas4 = false) ∧
    (∃ (s : State) (v : BitVec 256), s.event = .digest v ∧ (s.module.phase ≠ .released ∨ s.module.meas4 = true)) :=
  ⟨⟨ev (.release true 1#256 2#256 3#256) (phase .inReset), true, 1#256, 2#256, 3#256, by decide +kernel⟩,
    ⟨ev (.release false 1#256 2#256 3#256) (phase .inReset), false, 1#256, 2#256, 3#256, by decide +kernel⟩,
    ⟨ev (.digest 5#256) (phase .released), 5#256, by decide +kernel⟩,
    ⟨ev (.digest 5#256), 5#256, by decide +kernel⟩⟩

theorem hyps_StartsTheStile :
    (∃ (s : State) (x : Settings), s.event = .settings x ∧ s.module.phase = .released) ∧
    (∃ (s : State) (x : Settings), s.event = .settings x ∧ s.module.phase ≠ .released) :=
  ⟨⟨ev (.settings settings) (phase .released), settings, by decide +kernel⟩,
    ⟨ev (.settings settings), settings, by decide +kernel⟩⟩

theorem hyps_ThermalLimits :
    (∃ (s : State) (d : Fin 8), s.event = .die d ∧ s.answers = true ∧ d.val = s.dieNo) ∧
    (∃ (s : State) (d : Fin 8), s.event = .die d ∧ s.answers = true ∧ d.val ≠ s.dieNo) :=
  ⟨⟨ev (.die 0), 0, by decide +kernel⟩,
    ⟨ev (.die 7), 7, by decide +kernel⟩⟩

theorem hyps_MemoryErrors : ∃ (s : State) (loc : Nat), s.event = .line loc :=
  ⟨ev (.line 0x140), 0x140, by decide +kernel⟩

theorem hyps_RegisterStores :
    (∃ (s : State) (a : BitVec 68) (v : BitVec 64) (d : Fin 8), s.event = .register a v ∧ a.toNat = sysAddr d.val 0 0 3 0) ∧
    (∃ (s : State) (a : BitVec 68) (v : BitVec 64) (d : Fin 8), s.event = .register a v ∧ a.toNat = sysAddr d.val 0 0 4
    0x20000) ∧
    (∃ (s : State) (a : BitVec 68) (v : BitVec 64) (d : Fin 8), s.event = .register a v ∧ a.toNat = sysAddr d.val 0 0 6
    0x8000) ∧
    (∃ (s : State) (a : BitVec 68) (v : BitVec 64) (d : Fin 8) (i w : _), s.event = .register a v ∧ 0 < i ∧ i < 1024 ∧ w < 8 ∧
    a.toNat = sysAddr d.val 0 0 5 (64 * i + 8 * w)) ∧
    (∃ (s : State) (a : BitVec 68) (v : BitVec 64) (t : _), s.event = .register a v ∧ t < 4096 ∧ a.toNat = sysAddr 0 0 0 10 (8
    * t)) ∧
    (∃ (s : State) (a : BitVec 68) (v : BitVec 64), s.event = .register a v ∧ a.toNat = sysAddr 0 0 0 9 0) ∧
    (∃ (s : State) (a : BitVec 68) (v : BitVec 64), s.event = .register a v ∧ a.toNat = sysAddr 0 0 0 9 8) ∧
    (∃ (s : State) (a : BitVec 68) (v : BitVec 64) (die cl : _), s.event = .register a v ∧ die < 8 ∧ cl < 64 ∧ a.toNat =
    sysAddr die cl 0 1 0) ∧
    (∃ (s : State) (a : BitVec 68) (v : BitVec 64) (f m : _), s.event = .register a v ∧ f < 8 ∧ m < 64 ∧ a.toNat = sysAddr 0 0
    0 7 (0x9000 + 512 * f + 8 * m)) :=
  ⟨⟨register (sysAddr 7 0 0 3 0) 4095, BitVec.ofNat 68 (sysAddr 7 0 0 3 0), 4095#64, 7, by decide +kernel⟩,
    ⟨register (sysAddr 7 0 0 4 0x20000) 255, BitVec.ofNat 68 (sysAddr 7 0 0 4 0x20000), 255#64, 7, by decide +kernel⟩,
    ⟨register (sysAddr 7 0 0 6 0x8000) 0, BitVec.ofNat 68 (sysAddr 7 0 0 6 0x8000), 0#64, 7, by decide +kernel⟩,
    ⟨register (sysAddr 7 0 0 5 0xFFF8) 0, BitVec.ofNat 68 (sysAddr 7 0 0 5 0xFFF8), 0#64, 7, 1023, 7, by decide +kernel⟩,
    ⟨register (sysAddr 0 0 0 10 0x7FF8) 0, BitVec.ofNat 68 (sysAddr 0 0 0 10 0x7FF8), 0#64, 4095, by decide +kernel⟩,
    ⟨register (sysAddr 0 0 0 9 0) 3, BitVec.ofNat 68 (sysAddr 0 0 0 9 0), 3#64, by decide +kernel⟩,
    ⟨register (sysAddr 0 0 0 9 8) 0, BitVec.ofNat 68 (sysAddr 0 0 0 9 8), 0#64, by decide +kernel⟩,
    ⟨register (sysAddr 7 63 0 1 0) 1, BitVec.ofNat 68 (sysAddr 7 63 0 1 0), 1#64, 7, 63, by decide +kernel⟩,
    ⟨register (sysAddr 0 0 0 7 0x9FF8) 0, BitVec.ofNat 68 (sysAddr 0 0 0 7 0x9FF8), 0#64, 7, 63, by decide +kernel⟩⟩

theorem hyps_ControlStores :
    (∃ (s : State) (a : BitVec 68) (v : BitVec 64), s.event = .register a v ∧ a.toNat = s.controlBlock 0x10 ∧ v.toNat < 16) ∧
    (∃ (s : State) (a : BitVec 68) (v : BitVec 64), s.event = .register a v ∧ a.toNat = s.controlBlock 0x18 ∧ fld v.toNat 18
    45 = 0) ∧
    (∃ s : State, s.core.mode = .halted) ∧
    (∃ s : State, s.core.mode = .held) ∧
    (∃ s : State, s.core.mode ≠ .held) :=
  ⟨⟨register (user.controlBlock 0x10) 15, BitVec.ofNat 68 (user.controlBlock 0x10), 15#64, by decide +kernel⟩,
    ⟨register (user.controlBlock 0x18) (3 * 2 ^ 16), BitVec.ofNat 68 (user.controlBlock 0x18), BitVec.ofNat 64 (3 * 2 ^ 16),
    by decide +kernel⟩,
    ⟨ofCore fun c => { c with mode := .halted }, by decide +kernel⟩,
    ⟨ofCore fun c => { c with mode := .held }, by decide +kernel⟩,
    ⟨user, by decide +kernel⟩⟩

theorem hyps_BindsTenants :
    (∃ (s : State) (a : BitVec 68) (v : BitVec 64) (t : Nat), s.event = .register a v ∧ t < 4096 ∧ a.toNat = sysAddr 0 0 0 7
    (8 * t) ∧ (let f := v.toNat % 8;
    let taken := ∃ e ∈ s.sys, ∃ u, u ≠ t ∧ u < 4096 ∧ e.1 = sysAddr 0 0 0 7 (8 * u) ∧ fld e.2.toNat 3 1 = 1 ∧ e.2.toNat % 8 = f;
    fld v.toNat 3 1 = 1 ∧ taken)) ∧
    (∃ (s : State) (a : BitVec 68) (v : BitVec 64) (t : Nat), s.event = .register a v ∧ t < 4096 ∧ a.toNat = sysAddr 0 0 0 7
    (8 * t) ∧ (let f := v.toNat % 8;
    let taken := ∃ e ∈ s.sys, ∃ u, u ≠ t ∧ u < 4096 ∧ e.1 = sysAddr 0 0 0 7 (8 * u) ∧ fld e.2.toNat 3 1 = 1 ∧ e.2.toNat % 8 = f;
    (∀ e ∈ s.sys, systemKnown e.1 = true ∧ e.1 < 2 ^ 68) ∧ (fld v.toNat 3 1 = 0 ∨ ¬ taken))) :=
  ⟨⟨register (sysAddr 0 0 0 7 0x7FF8) 11 (boundTo 3 user), BitVec.ofNat 68 (sysAddr 0 0 0 7 0x7FF8), 11#64, 4095, by
    decide +kernel, by decide +kernel, by decide +kernel, by decide +kernel, ⟨(sysAddr 0 0 0 7 40, 11#64), by decide +kernel,
    5, by decide +kernel⟩⟩,
    ⟨register (sysAddr 0 0 0 7 0) 0, BitVec.ofNat 68 (sysAddr 0 0 0 7 0), 0#64, 0, by decide +kernel, by decide +kernel, by
    decide +kernel, by decide +kernel, .inl (by decide +kernel)⟩⟩

/-- A member of an enclosure whose ports are not fused off. -/
def linked (m : Nat) : State := ofModule (fun x => { x with fusedPorts := 9#16 }) (memberOf m m)

/-- The barrier stands, MARK sent to peer 3, which has sent its own or not. -/
def barred (mark dissolving : Bool) : State :=
  (ofModule (fun m => { m with barrier := true, dissolving := dissolving, signals := [(3, true)] }) (linked 9)).setLink 3
    { (linked 9).link 3 with mark := mark }

theorem no_others (x : BitVec 64) : ((linked 1).sysReg encNext &&& ~~~BitVec.ofNat 64 (2 ^ (linked 1).selfPeer)) &&& ~~~x =
    0#64 := by
  have h : (linked 1).sysReg encNext &&& ~~~BitVec.ofNat 64 (2 ^ (linked 1).selfPeer) = 0#64 := by decide +kernel
  rw [h]; exact BitVec.zero_and

theorem hyps_Rekeys :
    (∃ s : State, let self := BitVec.ofNat 64 (2 ^ s.selfPeer); let next := s.sysReg encNext; s.module.barrier = false ∧
    next.getLsbD s.selfPeer = true ∧ (next &&& ~~~self) &&& ~~~Config.keysAgreed s.fresh = 0#64) ∧
    (∃ s : State, s.module.barrier = true) ∧
    (∃ s : State, s.module.barrier = false ∧ s.formed = true) ∧
    (∃ s : State, s.module.barrier = true ∧ ¬ BarrierMet s) ∧
    (∃ s : State, s.module.barrier = true ∧ s.module.dissolving = false ∧ BarrierMet s) ∧
    (∃ s : State, s.module.barrier = true ∧ s.module.dissolving = true ∧ BarrierMet s) ∧
    (∃ (s : State) (i : Fin 64), s.event = .peer i ∧ s.peerCut i.val = true) ∧
    (∃ (s : State) (i : Fin 64), s.event = .peer i ∧ s.peerCut i.val = false ∧ i.val ≠ s.selfPeer ∧
    (s.module.handovers.map Prod.fst).Nodup) :=
  ⟨⟨linked 1, by decide +kernel, by decide +kernel, no_others _⟩,
    ⟨barred false false, by decide +kernel⟩,
    ⟨linked 1, by decide +kernel⟩,
    ⟨barred false false, by unfold BarrierMet; decide +kernel⟩,
    ⟨barred true false, by unfold BarrierMet; decide +kernel⟩,
    ⟨barred true true, by unfold BarrierMet; decide +kernel⟩,
    ⟨ev (.peer 63) (linked 9), 63, by decide +kernel⟩,
    ⟨ev (.peer 3) (ofModule (fun m => { m with fusedPorts := 9#16 }) (handingOver .sent)), 3, by decide +kernel⟩⟩

theorem hyps_FabricPackets :
    (∃ (s : State) (i : Fin 64) (gen : BitVec 16) (n : Nat) (ok answers : Bool), s.event = .packet i gen n ok answers ∧
    s.module.fusedPorts = 0#16) ∧
    (∃ (s : State) (i : Fin 64) (gen : BitVec 16) (n : Nat) (ok answers : Bool), s.event = .packet i gen n ok answers ∧
    s.module.fusedPorts ≠ 0#16 ∧ gen.toNat < s.generation) ∧
    (∃ (s : State) (i : Fin 64) (gen : BitVec 16) (n : Nat) (ok answers : Bool), s.event = .packet i gen n ok answers ∧
    (let good := gen.toNat = s.generation ∧ n = (s.link i.val).seqNo ∧ ok = true; s.peerCut i.val = false ∧ good)) ∧
    (∃ (s : State) (i : Fin 64) (gen : BitVec 16) (n : Nat) (ok answers : Bool), s.event = .packet i gen n ok answers ∧
    (let good := gen.toNat = s.generation ∧ n = (s.link i.val).seqNo ∧ ok = true; s.peerCut i.val = false ∧
    s.generation ≤ gen.toNat ∧ ¬ good)) ∧
    (∃ (s : State) (i : Fin 64) (gen : BitVec 16) (n : Nat) (ok answers : Bool), s.event = .packet i gen n ok answers ∧
    (s.isMember i.val = false ∨ (s.link i.val).out = true) ∧ s.generation ≤ gen.toNat) :=
  ⟨⟨ev (.packet 3 0#16 0 true true) (ofModule (fun m => { m with fusedPorts := 0#16 }) (memberOf 9 9)), 3, 0#16, 0, true, true,
      by decide +kernel⟩,
    ⟨ev (.packet 3 4#16 0 true false) ((linked 9).setSysReg encStat (BitVec.ofNat 64 (2 + 5 * 2 ^ 48))), 3, 4#16, 0, true,
    false,
      by decide +kernel⟩,
    ⟨ev (.packet 3 0#16 0 true true) (linked 9), 3, 0#16, 0, true, true, by decide +kernel⟩,
    ⟨ev (.packet 3 0#16 1 true true) (linked 9), 3, 0#16, 1, true, true, by decide +kernel⟩,
    ⟨ev (.packet 63 0#16 1 true true) (linked 9), 63, 0#16, 1, true, true, by decide +kernel⟩⟩

theorem hyps_PagesChangeOwners :
    (∃ (s : State) (p : BitVec 44) (toHost : Bool), s.event = .page p ∧ (s.module.flip = none ∧ p.toNat < s.module.hvtop * 2 ^
    18 ∧ s.hostOwns p.toNat ≠ toHost)) ∧
    (∃ (s : State) (p : BitVec 44) (toHost : Bool), s.event = .page p ∧ ((s.module.flip.isSome = true ∨ s.module.hvtop * 2 ^
    18 ≤ p.toNat ∨ s.hostOwns p.toNat = toHost))) ∧
    (∃ (s : State) (page : _), s.module.flip = some ⟨page, false⟩ ∧ (∀ k, (s.slot k).sheaf.solo = false) ∧
    s.lateIn (page * 2 ^ 12) (2 ^ 12) = false) ∧
    (∃ (s : State) (page : _), s.module.flip = some ⟨page, true⟩ ∧ (∀ k, (s.slot k).sheaf.solo = false) ∧
    s.lateIn (page * 2 ^ 12) (2 ^ 12) = false) :=
  ⟨⟨ev (.page (BitVec.ofNat 44 (1279 * 2 ^ 18 - 1))), BitVec.ofNat 44 (1279 * 2 ^ 18 - 1), true, by decide +kernel⟩,
    ⟨ev (.page (BitVec.ofNat 44 (1279 * 2 ^ 18))), BitVec.ofNat 44 (1279 * 2 ^ 18), true, by decide +kernel⟩,
    ⟨ofModule fun m => { m with flip := some ⟨3, false⟩ }, 3, by decide +kernel⟩,
    ⟨ofModule fun m => { m with flip := some ⟨3, true⟩ }, 3, by decide +kernel⟩⟩

theorem hyps_HostMailboxes :
    (∃ (s : State) (f : Fin 8) (m : Fin 64) (size e : _), s.answers = true ∧ (let b := s.inboxOf f.val m.val; s.event = .push
    f m size e ∧ size = 64 ∧ e.length = 64 ∧ b.entries.length < 256 ∧ b.credEn = true ∧ ∀ k, (s.slot k).sheaf.solo = false)) ∧
    (∃ (s : State) (f : Fin 8) (m : Fin 64) (size e : _), s.answers = true ∧ (let b := s.inboxOf f.val m.val; s.event = .push
    f m size e ∧ size = 64 ∧ e.length = 64 ∧ 256 ≤ b.entries.length)) ∧
    (∃ (s : State) (f : Fin 8) (m : Fin 64) (size e : _), s.answers = true ∧ (s.event = .push f m size e ∧ size ≠ 64)) ∧
    (∃ (s : State) (f : Fin 8) (m : Fin 64) (v : _), s.answers = true ∧ (let o := s.outboxOf f.val m.val; s.event = .mailbox f
    m v ∧ (let n := (v.setWidth 32 - o.headseq).toNat; v.toNat < 2 ^ 32 ∧ n ≤ o.entries.length))) ∧
    (∃ (s : State) (f : Fin 8) (m : Fin 64) (v : _), s.answers = true ∧ (let o := s.outboxOf f.val m.val; s.event = .mailbox f
    m v ∧ (let n := (v.setWidth 32 - o.headseq).toNat; (2 ^ 32 ≤ v.toNat ∨ o.entries.length < n)))) ∧
    (∃ (s : State) (f : Fin 8) (m : Fin 64) (v : _), s.answers = true ∧ (s.event = .bar f (0x1200 + 8 * m.val) 8 v)) ∧
    (∃ (s : State) (f : Fin 8) (m : Fin 64) (v : _), s.answers = true ∧ (s.event = .bar f (0x2400 + 8 * m.val) 8 v)) ∧
    (∃ (s : State) (f : Fin 8) (v off size : _), s.answers = true ∧ (s.event = .bar f off size v ∧ 0x1000 ≤ off ∧ (size ≠ 8 ∨
    off % 8 ≠ 0))) ∧
    (∀ x ∈ [(0x1000, 8), (0x1200, 8), (0x2000, 8), (0x2400, 8)], ∃ (s : State) (f : Fin 8) (m : Fin 64), s.answers = true ∧
    s.event = .barRead f (x.1 + 8 * m.val) x.2) ∧
    (∃ (s : State) (f : Fin 8), s.answers = true ∧ s.event = .barRead f 0x3010 8) ∧
    (∃ (s : State) (f : Fin 8) (m : Fin 64) (j e : _), s.answers = true ∧ (let o := s.outboxOf f.val m.val;
    o.entries[j]? = some e ∧ o.entries.length ≤ 256 ∧
    s.event = .barRead f (0x100000 + 0x4000 * m.val + 64 * ((o.headseq.toNat + j) % 256)) 64)) ∧
    (∃ (s : State) (f : Fin 8) (off n : _), s.answers = true ∧ (s.event = .barRead f off n ∧ 0x1000 ≤ off ∧
    ¬ (0x100000 ≤ off ∧ n = 64 ∧ off % 64 = 0) ∧ (n ≠ 8 ∨ off % 8 ≠ 0))) :=
  ⟨⟨ev (.push 7 63 64 entry64) (mailbox 255 true), 7, 63, 64, entry64, by decide +kernel⟩,
    ⟨ev (.push 7 63 64 entry64) (mailbox 256), 7, 63, 64, entry64, by decide +kernel⟩,
    ⟨ev (.push 7 63 32 []), 7, 63, 32, [], by decide +kernel⟩,
    ⟨ev (.mailbox 7 63 4#64) (mailbox 3), 7, 63, 4#64, by decide +kernel⟩,
    ⟨ev (.mailbox 7 63 5#64) (mailbox 3), 7, 63, 5#64, by decide +kernel⟩,
    ⟨ev (.bar 7 (0x1200 + 8 * 63) 8 33#64), 7, 63, 33#64, by decide +kernel⟩,
    ⟨ev (.bar 7 (0x2400 + 8 * 63) 8 33#64), 7, 63, 33#64, by decide +kernel⟩,
    ⟨ev (.bar 7 0x1004 8 33#64), 7, 33#64, 0x1004, 8, by decide +kernel⟩,
    fun x _ => ⟨ev (.barRead 7 (x.1 + 8 * 63) x.2), 7, 63, rfl, rfl⟩,
    ⟨ev (.barRead 7 0x3010 8), 7, by decide +kernel⟩,
    ⟨ev (.barRead 7 (0x100000 + 0x4000 * 63 + 64 * 0) 64) (mailbox 256), 7, 63, 255, [], by decide +kernel⟩,
    ⟨ev (.barRead 7 0x100000 32), 7, 0x100000, 32, by decide +kernel⟩⟩

theorem hyps_HostMemory :
    (∃ (s : State) (h n : _), s.answers = true ∧ (let base := s.module.hdmbase.toNat; let top := s.module.hvtop * 2 ^ 30;
    s.event = .hostRead h n ∧ NoFlip s ∧ (h < base ∨ top < h - base + n))) ∧
    (∃ (s : State) (h n : _), s.answers = true ∧ (let base := s.module.hdmbase.toNat; let top := s.module.hvtop * 2 ^ 30;
    s.event = .hostRead h n ∧ NoFlip s ∧ base ≤ h ∧ h - base + n ≤ top ∧ s.opensAll 1#10 (h - base) n = false)) ∧
    (∃ (s : State) (h n : _), s.answers = true ∧ (let base := s.module.hdmbase.toNat; let top := s.module.hvtop * 2 ^ 30;
    s.event = .hostRead h n ∧ NoFlip s ∧ base ≤ h ∧ h - base + n ≤ top ∧ s.opensAll 1#10 (h - base) n = true ∧ 0 < n ∧
    s.module.snooped.length + n < 1048576 ∧ ∀ line ∈ linesOf (h - base) n, s.lineWriters line = [])) ∧
    (∃ (s : State) (h data : _), s.answers = true ∧ (let base := s.module.hdmbase.toNat; let top := s.module.hvtop * 2 ^ 30;
    s.event = .hostWrite h data ∧ NoFlip s ∧ base ≤ h ∧ h - base + data.length ≤ top ∧ (let a := h - base; s.module.hvtop ≤
    1279 ∧ 0 < data.length ∧ a % 64 + data.length ≤ 64 ∧ (∀ k, (s.slot k).sheaf.held ≠ [] → (s.slot k).sheaf.snapshot.isSome =
    true) ∧ s.opens 1#10 a = true ∧ (∀ k, (s.slot k).sheaf.solo = false)))) ∧
    (∃ (s : State) (h data : _), s.answers = true ∧ (let base := s.module.hdmbase.toNat; let top := s.module.hvtop * 2 ^ 30;
    s.event = .hostWrite h data ∧ NoFlip s ∧ base ≤ h ∧ h - base + data.length ≤ top ∧ (let a := h - base; s.module.hvtop ≤
    1279 ∧ 0 < data.length ∧ a % 64 + data.length ≤ 64 ∧ (∀ k, (s.slot k).sheaf.held ≠ [] → (s.slot k).sheaf.snapshot.isSome =
    true) ∧ s.opens 1#10 a = false))) ∧
    (∀ b : Bool, ∃ (s : State) (loc : _), s.answers = true ∧ (s.event = .line loc ∧ (∀ k, (s.slot k).sheaf.solo = false) ∧ (∀ k,
    (s.slot k).sheaf.held ≠ [] → (s.slot k).sheaf.snapshot.isSome = true)) ∧ s.snoopable loc = b) ∧
    (∀ b : Bool, ∃ (s : State) (loc data : _), s.answers = true ∧ (s.event = .snoop loc data ∧ spaceOf loc = .host ∧ (∀ k, (s.slot
    k).sheaf.solo = false) ∧ (∀ k, (s.slot k).sheaf.held ≠ [] → (s.slot k).sheaf.snapshot.isSome = true)) ∧
    s.snoopable loc = b) ∧
    (∃ s : State, s.answers = true ∧ (s.sectorBegun = false)) ∧
    (∃ (s : State) (f o n v : _), s.answers = true ∧ (s.event = .bar f o n v)) :=
  ⟨⟨ev (.hostRead (1279 * 2 ^ 30 - 1) 2), 1279 * 2 ^ 30 - 1, 2, by decide +kernel⟩,
    ⟨{ ev (.hostRead (1279 * 2 ^ 30 - 2) 2) with bad := [((1279 * 2 ^ 30 - 256) / 256, true)] }, 1279 * 2 ^ 30 - 2, 2, by
    decide +kernel⟩,
    ⟨ev (.hostRead (1279 * 2 ^ 30 - 2) 2), 1279 * 2 ^ 30 - 2, 2, by decide +kernel⟩,
    ⟨ev (.hostWrite (1279 * 2 ^ 30 - 64) entry64), 1279 * 2 ^ 30 - 64, entry64, by decide +kernel⟩,
    ⟨{ ev (.hostWrite 0 entry64) with seals := [(0, 3)] }, 0, entry64, by decide +kernel⟩,
    fun b => ⟨ev (.line hostBase) (hostWindowed b), hostBase, by cases b <;> decide +kernel⟩,
    fun b => ⟨ev (.snoop hostBase entry64) (hostWindowed b), hostBase, entry64, by cases b <;> decide +kernel⟩,
    ⟨user, by decide +kernel⟩,
    ⟨ev (.bar 7 0x1000 8 0#64), 7, 0x1000, 8, 0#64, by decide +kernel⟩⟩

/-- An enclave of key 3, and protection windows of that key. -/
def enclaveOf (key : Nat) (s : State) : State :=
  ofModule (fun m => { m with enclaves := [⟨BitVec.ofNat 10 key, 4#12, 7, 9, none, 1⟩] }) s
def window (key : Nat) : Q := BitVec.ofNat 128 (key * 2 ^ 56 + 15)

theorem hyps_EnclavesAndClusters :
    (∃ (s : State) (t meas : _), s.event = .enclave t meas ∧ (∀ e ∈ s.module.enclaves, e.tenant ≠ t) ∧
    s.module.enclaves.length < 1022) ∧
    (∃ (s : State) (k : _), s.event = .key k ∧ (∃ e ∈ s.module.enclaves, e.key = k)) ∧
    (∃ (s : State) (w owner : _), s.event = .windows w ∧ windowOwner w = some owner ∧ s.mayOwn owner = true ∧ s.allFree = true ∧
    s.clusterQuiet = true) ∧
    (∃ (s : State) (w : _), s.event = .windows w ∧ ∀ owner, windowOwner w = some owner → s.mayOwn owner = false) ∧
    (∃ (s : State) (w owner : _), s.event = .windows w ∧ windowOwner w = some owner ∧ s.mayOwn owner = true ∧ s.allFree =
    false) :=
  ⟨⟨ev (.enclave 3#12 33#256), 3#12, 33#256, by decide +kernel⟩,
    ⟨ev (.key 3#10) (enclaveOf 3 user), 3#10, by decide +kernel⟩,
    ⟨ev (.windows [window 3, 5]) (enclaveOf 3 idle), [window 3, 5], 3, by decide +kernel⟩,
    ⟨ev (.windows [window 1023]) (enclaveOf 3 idle), [window 1023], rfl, fun x h => by
      rw [← Option.some.inj ((by decide +kernel : windowOwner [window 1023] = some 1023).symm.trans h)]; decide +kernel⟩,
    ⟨ev (.windows [window 3, 5]) (enclaveOf 3 user), [window 3, 5], 3, by decide +kernel⟩⟩

theorem hyps_Handovers :
    (∃ (s : State) (n : Nat) (p f : _), s.event = .transfer n p ∧ s.frame n = some f ∧ s.isMember p.val = true ∧
    s.handedOver n = false ∧ s.keysHeld n = true) ∧
    (∀ st : HandoverState, ∃ (s : State) (n : Nat) (h : Handover) (p : _), s.handover n = some h ∧ s.event = .transfer n p ∧
    h.state = st) ∧
    (∀ st : HandoverState, ∃ (s : State) (n : Nat) (h : Handover), s.handover n = some h ∧ s.event = .signed n h.nonce true ∧
    h.state = st) ∧
    (∃ (s : State) (n : Nat) (h : Handover) (f : _), s.handover n = some h ∧ s.event = .signed n h.nonce true ∧ s.frame n =
    some f ∧
    { f with spilled := false } ≠ h.sealedFrame) ∧
    (∃ (s : State) (n : Nat) (h : Handover) (f : _), s.handover n = some h ∧ s.event = .signed n h.nonce true ∧ s.frame n =
    some f ∧
    { f with spilled := false } = h.sealedFrame ∧ h.state = .failedKeysErased ∧ s.module.enclaves.length < 1022) ∧
    (∃ (s : State) (n : Nat) (h : Handover) (nonce ok : _), s.handover n = some h ∧ s.event = .signed n nonce ok ∧ (ok = false
    ∨ nonce ≠ h.nonce)) :=
  ⟨⟨ev (.transfer 4 3) (ofModule (fun m => { m with handovers := [] }) (handingOver .sent)), 4, 3, default, by decide +kernel⟩,
    fun st => ⟨ev (.transfer 4 3) (handingOver st), 4, handover st, 3, by cases st <;> decide +kernel⟩,
    fun st => ⟨ev (.signed 4 5 true) (handingOver st), 4, handover st, by cases st <;> decide +kernel⟩,
    ⟨ev (.signed 4 5 true) ((handingOver .failedKeysErased).modDie fun d => { d with frames := [(4, frameAt .user)] }), 4,
      handover .failedKeysErased, frameAt .user, by decide +kernel⟩,
    ⟨ev (.signed 4 5 true) (handingOver .failedKeysErased), 4, handover .failedKeysErased, default, by decide +kernel⟩,
    ⟨ev (.signed 4 4 true) (handingOver .sent), 4, handover .sent, 4, true, by decide +kernel⟩⟩

theorem hyps_SpdmRequests :
    (∃ s : State, s.answers = true ∧ (let m := s.module; 1 ≤ m.negotiated)) ∧
    (∃ s : State, s.answers = true ∧ (let m := s.module; 2 ≤ m.negotiated)) ∧
    (∃ s : State, s.answers = true ∧ (let m := s.module; 3 ≤ m.negotiated ∧ s.aliasKnown = false)) ∧
    (∃ (s : State) (n : _), s.answers = true ∧ (let m := s.module; 3 ≤ m.negotiated ∧ s.event = .nonce n ∧ s.aliasKnown = true)) ∧
    (∃ (s : State) (id x : _), s.answers = true ∧ (let m := s.module; 3 ≤ m.negotiated ∧ s.event = .session id ∧
    (m.sessions.find? fun y => y.id == id) = some x ∧ x.secured = true)) ∧
    (∃ (s : State) (c : _), s.answers = true ∧ (s.event = .request c)) :=
  ⟨⟨spdm 1, by decide +kernel⟩,
    ⟨spdm 2, by decide +kernel⟩,
    ⟨spdm 3, by decide +kernel⟩,
    ⟨ev (.nonce 33#256) (knowing (spdm 3)), 33#256, by decide +kernel⟩,
    ⟨ev (.session 3#32) (spdm 3), 3#32, ⟨3#32, true, 2⟩, by decide +kernel⟩,
    ⟨ev (.request 3#8) (spdm 3), 3#8, by decide +kernel⟩⟩

theorem hyps_RegisterFour :
    (∃ (s : State) (v : BitVec 256), s.event = .digest v ∧ s.module.meas4 = true) ∧
    (∃ (s t : State) (n : BitVec 256), s.event = .nonce n ∧ s.answers = true ∧ 3 ≤ s.module.negotiated ∧ s.aliasKnown = true ∧ exec
    .spdmGetMeasurements s = .next t) :=
  ⟨⟨ev (.digest 5#256) (ofModule fun m => { m with meas4 := true }), 5#256, by decide +kernel⟩,
    ⟨ev (.nonce 5#256) (knowing (spdm 3)), _, 5#256, by decide +kernel, by decide +kernel, by decide +kernel, by decide +kernel, rfl⟩⟩

theorem hyps_Delivers :
    (∃ (s : State) (k : SlotId) (i : TrapInfo), i.cause < 1024 ∧ (let c := s.ctx k; goesLocal c i.cause)) ∧
    (∃ (s : State) (k : SlotId) (i : TrapInfo), i.cause < 1024 ∧ (let c := s.ctx k; ¬ goesLocal c i.cause ∧ ¬ goesToMonitor c
    i.cause)) ∧
    (∃ (s : State) (k : SlotId) (i : TrapInfo), i.cause < 1024 ∧ (let c := s.ctx k; ¬ goesLocal c i.cause ∧ goesToMonitor c
    i.cause ∧ c.mx.stat.getLsbD 2 = false)) ∧
    (∃ (s : State) (k : SlotId) (i : TrapInfo), i.cause < 1024 ∧ (let c := s.ctx k; ¬ goesLocal c i.cause ∧ goesToMonitor c
    i.cause ∧ c.mx.stat.getLsbD 2 = true)) :=
  ⟨⟨ofCtx fun c => { c with uxvec := ⟨(lmCode 0x200).bits ||| 1#128, true⟩ }, 0, trapInfo 0x142, by decide +kernel⟩,
    ⟨user, 0, trapInfo 0x3FF, by decide +kernel⟩,
    ⟨sup (sx fun r => { r with stat := 4#22 }), 0, trapInfo 0x80, by decide +kernel⟩,
    ⟨mon (mx fun r => { r with stat := 4#22 }), 0, trapInfo 0x80, by decide +kernel⟩⟩

theorem hyps_HandlerFetches :
    (∃ (s : State) (k : SlotId), let c := s.ctx k; c.level = .supervisor ∧ c.mx.stat.getLsbD 2 = false) ∧
    (∃ (s : State) (k : SlotId), let c := s.ctx k; c.level = .monitor) ∧
    (∃ (s : State) (k : SlotId), let c := s.ctx k; c.level = .user ∧ c.sx.stat.getLsbD 2 = false) :=
  ⟨⟨sup, 0, by decide +kernel⟩,
    ⟨mon, 0, by decide +kernel⟩,
    ⟨user, 0, by decide +kernel⟩⟩

theorem hyps_UnitsAdvance :
    (∃ (s : State) (k : SlotId), let c := s.ctx k; c.drill = none) ∧
    (∃ (s : State) (k : SlotId) (x : _), let c := s.ctx k; c.drill = some x ∧ x.live = false) ∧
    (∃ (s : State) (k : SlotId) (x : _), let c := s.ctx k; c.drill = some x ∧ x.live = true ∧ x.pos + 1 < x.n) ∧
    (∃ (s : State) (k : SlotId) (x : _), let c := s.ctx k; c.drill = some x ∧ x.live = true ∧ x.n ≤ x.pos + 1 ∧ x.pass + 1 <
    x.k) ∧
    (∃ (s : State) (k : SlotId) (x : _), let c := s.ctx k; c.drill = some x ∧ x.live = true ∧ x.n ≤ x.pos + 1 ∧ x.k ≤ x.pass +
    1) :=
  ⟨⟨user, 0, by decide +kernel⟩,
    ⟨drilling false 0 0, 0, block3 false 0 0, by decide +kernel⟩,
    ⟨drilling true 1 0, 0, block3 true 1 0, by decide +kernel⟩,
    ⟨drilling true 2 2, 0, block3 true 2 2, by decide +kernel⟩,
    ⟨drilling true 2 3, 0, block3 true 2 3, by decide +kernel⟩⟩

theorem hyps_SlotsAreChosen :
    (∃ (s : State) (p : SlotId → Bool), let r : SlotId → Prop := fun k => p k = true; (∀ k, ¬ r k) ∧ s.ready = p) ∧
    (∃ (s : State) (p : SlotId → Bool), let r : SlotId → Prop := fun k => p k = true;
    let old : SlotId → Prop := fun k => r k ∧ 61 ≤ (s.slot k).waited; (∃ k, old k) ∧ s.ready = p) ∧
    (∃ (s : State) (p : SlotId → Bool), let r : SlotId → Prop := fun k => p k = true;
    let old : SlotId → Prop := fun k => r k ∧ 61 ≤ (s.slot k).waited; (∀ k, ¬ old k) ∧ s.core.ipol = false ∧ r s.core.cur ∧
    s.core.yielded = false ∧ s.ready = p) ∧
    (∃ (s : State) (p : SlotId → Bool), let r : SlotId → Prop := fun k => p k = true;
    let old : SlotId → Prop := fun k => r k ∧ 61 ≤ (s.slot k).waited; (∀ k, ¬ old k) ∧ s.core.ipol = false ∧ (∃ k, r k) ∧ (¬ r
    s.core.cur ∨ s.core.yielded = true) ∧ s.ready = p) ∧
    (∃ (s : State) (p : SlotId → Bool) (n : SlotId), let r : SlotId → Prop := fun k => p k = true;
    let old : SlotId → Prop := fun k => r k ∧ 61 ≤ (s.slot k).waited; (∀ k, ¬ old k) ∧ s.core.ipol = true ∧ r (s.core.last + 1
    + n) ∧ (∀ m, m < n → ¬ r (s.core.last + 1 + m)) ∧ s.ready = p) ∧
    (∃ (s : State) (k : SlotId), (s.slot k).bubble = true) :=
  ⟨⟨idle, idle.ready, by decide +kernel, rfl⟩,
    ⟨waited 0 61 60 false 0, (waited 0 61 60 false 0).ready, by decide +kernel, rfl⟩,
    ⟨waited 0 60 60 false 0, (waited 0 60 60 false 0).ready, by decide +kernel, by decide +kernel, by decide +kernel,
      by decide +kernel, rfl⟩,
    ⟨ofCore (fun c => { c with yielded := true }) (waited 0 7 7 false 0), State.ready _, by decide +kernel, by decide +kernel,
      by decide +kernel, by decide +kernel, rfl⟩,
    ⟨waited 0 0 0 true 2, (waited 0 0 0 true 2).ready, 1, by decide +kernel, by decide +kernel, by decide +kernel,
      by decide +kernel, rfl⟩,
    ⟨user.modSlot 3 fun x => { x with bubble := true }, 3, by decide +kernel⟩⟩

theorem hyps_FullSheavesEnd : ∃ (s : State) (i : Instr) (w : Nat), encode i = some w ∧ isGuard i = false ∧ 256 ≤ (s.slot s.cur).sheaf.count ∧ s.migrantComes = false :=
  ⟨user.modSheaf 0 fun h => { h with count := 256 }, .tend, 0x14000055, by decide +kernel⟩

theorem one_store (h : Held) (m : h ∈ ((user.modSheaf 0 fun h => { h with held := [.write (ourLm 0x3FFF8) (leBytes 8 77)
    false 0#10] }).slot
    0).sheaf.held) : ∃ loc data tag key, h = .write loc data tag key ∧ spaceOf loc ∈ [.lm, .cm] := by
  have e : ((user.modSheaf 0 fun h => { h with held := [.write (ourLm 0x3FFF8) (leBytes 8 77) false 0#10] }).slot
    0).sheaf.held =
    [.write (ourLm 0x3FFF8) (leBytes 8 77) false 0#10] := by decide +kernel
  rw [e, List.mem_singleton] at m
  exact ⟨_, _, _, _, m, by decide +kernel⟩

theorem hyps_CommitsStore :
    (∃ (s : State) (k : SlotId) (a : _), s.onTheWay = [] ∧ (∀ u ∈ s.core.unplaced, u.slot ≠ some k) ∧ (∀ h ∈ (s.slot k).sheaf.held, ∃ loc data tag key, h = .write loc data
    tag key ∧ spaceOf loc ∈ [.lm, .cm]) ∧ (spaceOf a ∈ [.lm, .cm])) ∧
    (∃ (s : State) (k : SlotId) (a : _), s.onTheWay = [] ∧ (∀ u ∈ s.core.unplaced, u.slot ≠ some k) ∧ (∀ h ∈ (s.slot k).sheaf.held, ∃ loc data tag key, h = .write loc data
    tag key ∧ spaceOf loc ∈ [.lm, .cm]) ∧ (spaceOf a ∈ [.hbm, .host, .peer])) :=
  ⟨⟨user.modSheaf 0 fun h => { h with held := [.write (ourLm 0x3FFF8) (leBytes 8 77) false 0#10] }, 0, ourLm 0x3FFF8,
    by decide +kernel, by decide +kernel, one_store, by decide +kernel⟩,
    ⟨user.modSheaf 0 fun h => { h with held := [.write (ourLm 0x3FFF8) (leBytes 8 77) false 0#10] }, 0, 0, by
    decide +kernel, by decide +kernel, one_store, by
    decide +kernel⟩⟩

theorem hyps_OnlyTheDestination : ∃ (f : _) (s : State) (i : Instr) (r : Result), f ∈ resultTables ∧ Room s ∧ f (here s) i =
    some r ∧ Unbound s r.uses ∧ (vectors (here s) i = some r → UnitsFree s) :=
  ⟨arithmetic, user, .addi 5 6 3#15, mod64 4 [5, 6] 5 3, .head _, by decide +kernel, rfl, by decide +kernel, nofun⟩

theorem hyps_RecordsAreKept :
    (∃ (s : State) (d : Fin 8) (a : _), let head := (s.sysReg (sysAddr d.val 0 0 3 0)).toNat;
    let tail := (s.sysReg (sysAddr d.val 0 0 3 8)).toNat; head < 4096 ∧ tail < 4096 ∧ (tail + 1) % 4096 ≠ head ∧ a ≠ sysAddr
    d.val 0 0 3 8 ∧ (a < sysAddr d.val 0 0 2 (64 * tail) ∨ sysAddr d.val 0 0 2 (64 * tail) + 64 ≤ a)) ∧
    (∃ (s : State) (d : Fin 8) (a : _), let head := (s.sysReg (sysAddr d.val 0 0 3 0)).toNat;
    let tail := (s.sysReg (sysAddr d.val 0 0 3 8)).toNat; let lost := sysAddr d.val 0 0 3 0x10; head < 4096 ∧ tail < 4096 ∧
    (tail + 1) % 4096 = head ∧ a ≠ lost) :=
  ⟨⟨user, 7, 0, by decide +kernel⟩,
    ⟨user.setSysReg (sysAddr 7 0 0 3 8) 4095#64, 7, 0, by decide +kernel⟩⟩

def onPage : State := mapped (leafOf (4 + 0x20 + 0x80))

theorem fits_at {s : State} {a b : Nat} (h : a = b) (f : Fits s b 8 false) : Fits s a 8 false := h ▸ f

theorem windows_off {s : State} (h : (s.core.pwin.toList.all fun w => !w.getLsbD 3) = true) :
    ∀ w ∈ s.core.pwin.toList, w.getLsbD 3 = false := fun w m => by simpa using List.all_eq_true.mp h w m

theorem fits_page : Fits onPage (0x40000 * 2 ^ 12 + page % 2 ^ 30) 8 false := by decide +kernel

theorem hyps_TranslatedLoads :
    (∃ (s : State) (d a : RegIdx) (imm : BitVec 15), Room s ∧ Unbound s [d, a] ∧ (let c := (here s).reg a;
    let va := operand (here s) a imm.toInt; capFault c [.load] va 8 = none ∧ va % 8 = 0 ∧ regionOf va < 0xC ∧ Uncached s va ∧
    s.rootEnabled = false)) ∧
    (∃ (s : State) (d a : RegIdx) (imm : BitVec 15), Room s ∧ Unbound s [d, a] ∧ (let c := (here s).reg a;
    let va := operand (here s) a imm.toInt; capFault c [.load] va 8 = none ∧ va % 8 = 0 ∧ regionOf va < 0xC ∧ Uncached s va ∧
    s.rootEnabled = true ∧ hbmTop ≤ s.root * 2 ^ 12)) ∧
    (∃ (s : State) (d a : RegIdx) (imm : BitVec 15) (e : _), Room s ∧ Unbound s [d, a] ∧ (let c := (here s).reg a;
    let va := operand (here s) a imm.toInt; capFault c [.load] va 8 = none ∧ va % 8 = 0 ∧ regionOf va < 0xC ∧ Uncached s va ∧
    s.rootEnabled = true ∧ s.root * 2 ^ 12 < hbmTop ∧ EntryIs s (s.root * 2 ^ 12 + 8 * walkIndex va 6) e ∧ e % 2 = 0)) ∧
    (∃ (s : State) (d a : RegIdx) (imm : BitVec 15) (e : _), Room s ∧ Unbound s [d, a] ∧ (let c := (here s).reg a;
    let va := operand (here s) a imm.toInt; capFault c [.load] va 8 = none ∧ va % 8 = 0 ∧ regionOf va < 0xC ∧ Uncached s va ∧
    s.rootEnabled = true ∧ s.root * 2 ^ 12 < hbmTop ∧ EntryIs s (s.root * 2 ^ 12 + 8 * walkIndex va 6) e ∧ e % 2 = 1 ∧
    s.pteMalformed s.core.tenant e 6 = true)) ∧
    (∃ (s : State) (d a : RegIdx) (imm : BitVec 15) (e l : _), Room s ∧ Unbound s [d, a] ∧ (let c := (here s).reg a;
    let va := operand (here s) a imm.toInt; capFault c [.load] va 8 = none ∧ va % 8 = 0 ∧ regionOf va < 0xC ∧ Uncached s va ∧
    s.rootEnabled = true ∧ s.root * 2 ^ 12 < hbmTop ∧ Leads s va s.root levels e l ∧ ((fld e 2 1 = 0 ∨ ((here s).level = .user
    ∧ fld e 5 1 = 0))))) ∧
    (∃ (s : State) (d a : RegIdx) (imm : BitVec 15) (e l : _), Room s ∧ Unbound s [d, a] ∧ (let c := (here s).reg a;
    let va := operand (here s) a imm.toInt; capFault c [.load] va 8 = none ∧ va % 8 = 0 ∧ regionOf va < 0xC ∧ Uncached s va ∧
    s.rootEnabled = true ∧ s.root * 2 ^ 12 < hbmTop ∧ Leads s va s.root levels e l ∧
    (let pa := (if l = 0 ∧ fld e 6 1 = 0 then fld e 12 44 * 2 ^ 12 + va % 2 ^ 12 else if l = 0 then (fld e 12 44 / 16 * 16
    + va / 2 ^ 12 % 16) * 2 ^ 12 + va % 2 ^ 12 else fld e 12 44 * 2 ^ 12 + va % 2 ^ (12 + 9 * l));
    fld e 2 1 = 1 ∧ ((here s).level = .user → fld e 5 1 = 1) ∧ fld e 7 1 = 1 ∧ fld e 9 2 = 0 ∧ pa < hbmTop ∧ s.remote pa =
    false ∧ s.hostOwns (pa / 2 ^ 12) = true))) ∧
    (∃ (s : State) (d a : RegIdx) (imm : BitVec 15) (e l : _), Room s ∧ Unbound s [d, a] ∧ (let c := (here s).reg a;
    let va := operand (here s) a imm.toInt; capFault c [.load] va 8 = none ∧ va % 8 = 0 ∧ regionOf va < 0xC ∧ Uncached s va ∧
    s.rootEnabled = true ∧ s.root * 2 ^ 12 < hbmTop ∧ Leads s va s.root levels e l ∧
    (let pa := (if l = 0 ∧ fld e 6 1 = 0 then fld e 12 44 * 2 ^ 12 + va % 2 ^ 12 else if l = 0 then (fld e 12 44 / 16 * 16
    + va / 2 ^ 12 % 16) * 2 ^ 12 + va % 2 ^ 12 else fld e 12 44 * 2 ^ 12 + va % 2 ^ (12 + 9 * l));
    fld e 2 1 = 1 ∧ ((here s).level = .user → fld e 5 1 = 1) ∧ fld e 7 1 = 1 ∧ fld e 9 2 = 0 ∧ pa < hbmTop ∧ s.remote pa =
    false ∧ s.hostOwns (pa / 2 ^ 12) = false ∧ s.module.flip = none ∧ (∀ w ∈ s.core.pwin.toList, w.getLsbD 3 = false) ∧ ((here
    s).level = .user ∨ hasPerm c.bits .system = false) ∧ s.opens 1#10 pa = true ∧ s.snoopLines pa 8 false = [] ∧
    Fits s pa 8 false))) :=
  ⟨⟨put [(6, makeCap 0xFFF 0 64)], 5, 6, 0#15, by decide +kernel⟩,
    ⟨(mapped 0).setSysReg (user.controlBlock 0x20) (BitVec.ofNat 64 (hbmTop + 1)), 5, 6, 0#15, by decide +kernel⟩,
    ⟨(mapped 0).poke (0x100 * 2 ^ 12 + 8 * walkIndex page 6) (leBytes 8 0) false, 5, 6, 0#15, 0, by decide +kernel⟩,
    ⟨(mapped 0).poke (0x100 * 2 ^ 12 + 8 * walkIndex page 6) (leBytes 8 3) false, 5, 6, 0#15, 3, by decide +kernel⟩,
    by refine ⟨mapped (leafOf (4 + 0x80)), 5, 6, 0#15, leafOf (4 + 0x80), 2, ?_, ?_, ?_, ?_, ?_, ?_, ?_, ?_, leads _ _ (by
    decide +kernel),
    ?_⟩ <;> decide +kernel,
    by refine ⟨ofModule (fun m => { m with hostOwned := [((0x40000 * 2 ^ 12 + page % 2 ^ 30) / 2 ^ 12, true)] }) (mapped
    (leafOf (4 +
    0x20 + 0x80))), 5, 6, 0#15, leafOf (4 + 0x20 + 0x80), 2, ?_, ?_, ?_, ?_, ?_, ?_, ?_, ?_, leads _ _ (by decide +kernel),
    ?_⟩ <;> decide +kernel,
    by refine ⟨onPage, 5, 6, 0#15, leafOf (4 + 0x20 + 0x80), 2, ?_, ?_, ?_, ?_, ?_, ?_, ?_, ?_, leads _ _ (by decide +kernel),
    ?_, ?_, ?_, ?_, ?_, ?_, ?_, ?_, windows_off (by decide +kernel), ?_, ?_, ?_, fits_at (by
    decide +kernel) fits_page⟩ <;> decide +kernel⟩

theorem hyps_StepsExecute : ∃ (s : State) (k : SlotId) (off n : Nat) (i : Instr), Turn s k ∧ Fetches (turned s k) k off n ∧
    isGuard i = false ∧ decodeBytes ((turned s k).seenBytes k ((turned s k).lm off) n) = some (i, []) :=
  ⟨code [(4, .add 5 6 7 .wrap)], 0, 0x100, 4, .add 5 6 7 .wrap, by decide +kernel⟩

theorem hyps_GuardedUnits : ∃ (s : State) (k : SlotId) (off n w : Nat) (r : RegIdx) (m : Fin 128) (pol : Bool) (i : Instr),
    Turn s k ∧ Fetches (turned s k) k off n ∧ (turned s k).streamed r = false ∧ ((turned s k).ctx k).run = none ∧ (((turned s
    k).ctx k).reg r).tag = false ∧ encode (if pol then .whenSet r m else .unlessSet r m) = some w ∧
    (let b := (turned s k).seenBytes k ((turned s k).lm off) n; decodeBytes b = some (if pol then .whenSet r m else .unlessSet
    r m, b.drop 2) ∧ decodeBytes (b.drop 2) = some (i, []) ∧ isGuard i = false ∧ isDrill i = false ∧ (∀ v x, i ≠
    .illegalInstruction v x)) :=
  by refine ⟨code [(2, .whenSet 6 2), (4, .add 5 6 7 .wrap)], 0, 0x100, 6, (encode (.whenSet 6 2)).getD 0, 6, 2, true, .add
    5 6 7 .wrap,
    ?_, ?_, ?_, ?_, ?_, ?_, ?_, ?_, ?_, ?_, nofun⟩ <;> decide +kernel

theorem hyps_StepsPerformEvents : ∃ (s : State) (d : Due) (rest : List Due), s.eventTurn = true ∧ s.agenda = d :: rest :=
  ⟨{ user with agenda := [⟨.dispatch, .plain⟩], eventTurn := true }, ⟨.dispatch, .plain⟩, [], by decide +kernel⟩

theorem hyps_DivisionsByZero : ∃ (s : State) (d a b : RegIdx) (i : Instr) (op : Nat), (i, op) ∈ [(Instr.div d a b, 6), (.divn
    d a b, 7), (.rem d a b, 8), (.remn d a b, 9)] ∧ Room s ∧ Unbound s [a, b] ∧ n64 ((here s).reg b).bits = 0 :=
  ⟨user, 5, 6, 7, .remn 5 6 7, 9, by decide +kernel⟩

theorem hyps_YieldsGiveUpThePosition :
    (∃ s : State, s.core.ipol = true) ∧
    (∃ (s : State) (p : SlotId → Bool), s.core.ipol = false ∧ (∀ k, p k = true → (s.slot k).waited < 61) ∧ (∃ k, p k = true) ∧
    s.ready = p) :=
  ⟨⟨waited 0 7 7 true 0, by decide +kernel⟩,
    ⟨waited 0 60 60 false 0, (waited 0 60 60 false 0).ready, by decide +kernel, by decide +kernel, by decide +kernel, rfl⟩⟩

/-- The walk that an access takes where it uses no cached translation. -/
def walkFor (v : View) (va : Nat) : Act (Nat × Nat) := do orFault v va .load (← leafWalked v va .load)

theorem leafFor_cached {v : View} {va : Nat} {s : State} {t : TlbEntry} (h : (s.core.tlb.find? fun t => t.covers v va) = some t)
    (hp : ptePermits t.pte.toNat .load v.level = true) :
    leafFor v va .load s = if Config.usesTlb s.fresh then .ok (t.pte.toNat, t.level) s.tick else walkFor v va s.tick := by
  have h' : (s.core.tlb.find? fun t => t.covers v va && (!Kind.load.writes || t.pte.getLsbD 8)) = some t := by
    simpa [Kind.writes] using h
  simp only [leafFor, leafFound, walkFor, get, getThe, MonadStateOf.get, EStateM.get, bind, EStateM.bind, h']
  cases u : Config.usesTlb s.fresh
  · rfl
  · simp only [if_true, permitted, hp]; rfl

def pageSeven : State := put [(7, dat 8)] (mapped (leafOf (4 + 0x20 + 0x80)))
def pageVa : Nat := addrOf ((here pageSeven).reg 6).bits
def pageLeaf (r : Nat × Nat) : Act Place := placeLeaf pageSeven.view ((here pageSeven).reg 6).bits .load pageVa 1 0#128 r.1 r.2

/-- A place of HBM of this die, with its line of 32 bytes readable. -/
def lineOk (p : Place) (w : State) : Bool :=
    decide (spaceOf p.loc = .hbm ∧ p.host = false ∧ (w.remote (p.loc / 32 * 32) = false → w.snoopLines (p.loc / 32 * 32) 32
    false = []) ∧
    (w.fetchCopies (p.loc / 32 * 32) 32).readable p.key (p.loc / 32 * 32) 32 = true)

theorem page_there : ∃ u, pageOf pageSeven.view (addrOf ((here pageSeven).reg 6).bits)
    ((pageSeven.openSheaf pageSeven.cur).commitWithin pageSeven.cur) = .ok (some (0x40000 * 2 ^ 12, 2 ^ 30)) u := by
  obtain ⟨x, u, h, e⟩ := answers_ok (a := pageOf pageSeven.view pageVa)
    (s := (pageSeven.openSheaf pageSeven.cur).commitWithin pageSeven.cur)
    (p := fun x _ => x == some (0x40000 * 2 ^ 12, 2 ^ 30)) (by decide +kernel)
  exact ⟨u, by rw [← beq_iff_eq.mp e]; exact h⟩

theorem line_there : ∃ (e : Nat × Nat) (u : State) (p : Place) (w : State),
    leafFor pageSeven.view pageVa .load (pageSeven.openSheaf pageSeven.cur) = .ok e u ∧ pteHome e.1 < 2 ∧
      placeTranslated pageSeven.view ((here pageSeven).reg 6).bits .load pageVa 1 0#128 u = .ok p w ∧ lineOk p w = true := by
  obtain ⟨x, u, h, e⟩ := answers_ok (a := leafFor pageSeven.view pageVa .load) (s := pageSeven.openSheaf pageSeven.cur)
    (p := fun r u => decide (pteHome r.1 < 2) && match u.core.tlb.find? fun t => t.covers pageSeven.view pageVa with
      | some t => ptePermits t.pte.toNat .load pageSeven.view.level && answers (pageLeaf (t.pte.toNat, t.level)) u.tick lineOk
          && answers (walkFor pageSeven.view pageVa >>= pageLeaf) u.tick lineOk
      | none => false) (by decide +kernel)
  cases f : u.core.tlb.find? fun t => t.covers pageSeven.view pageVa with
  | none => simp [f] at e
  | some t =>
    simp only [f, Bool.and_eq_true, decide_eq_true_eq] at e
    obtain ⟨e0, ⟨e1, e2⟩, e3⟩ := e
    have g : placeTranslated pageSeven.view ((here pageSeven).reg 6).bits .load pageVa 1 0#128 u =
        (leafFor pageSeven.view pageVa .load >>= pageLeaf) u := rfl
    have c := leafFor_cached f e1
    refine ⟨x, u, ?_⟩
    cases b : Config.usesTlb u.fresh
    · obtain ⟨p, w, h3, h4⟩ := answers_ok e3
      exact ⟨p, w, h, e0, by rw [g, ← h3]; simp [bind, EStateM.bind, c, b], h4⟩
    · obtain ⟨p, w, h3, h4⟩ := answers_ok e2
      exact ⟨p, w, h, e0, by rw [g, ← h3]; simp [bind, EStateM.bind, c, b], h4⟩

/-- What `cinv` and `cwb` do with the lines of their range (R141). -/
abbrev maintains (s : State) (a b : RegIdx) : List (Instr × (State → List Nat → State) × Perm) :=
  [(.cinv a b, (fun u l => u.invalidate (some s.cur) l), .load), (.cwb a b, (fun u l => l.foldl State.writeBack u), .store)]

theorem hyps_CacheMaintenanceActsOnItsLines :
    (∃ (s : State) (a b : RegIdx) (i : Instr) (f : State → List Nat → State) (p : Perm), (i, f, p) ∈ maintains s a b ∧ Room s ∧
    Unbound s [a, b] ∧ (p = .load → ∀ j, j ≠ s.cur → (s.slot j).sheaf.solo = false) ∧ n64 ((here s).reg b).bits = 0) ∧
    (∃ (s : State) (a b : RegIdx) (i : Instr) (f : State → List Nat → State) (p : Perm) (base size u : _), (i, f, p) ∈
    maintains s a b ∧ Room s ∧ Unbound s [a, b] ∧ (p = .load → ∀ j, j ≠ s.cur → (s.slot j).sheaf.solo = false) ∧
    (let c := (here s).reg a; let va := addrOf c.bits; let len := n64 ((here s).reg b).bits; 0 < len ∧ va % 2 ^ 12 + len ≤ 2 ^
    12 ∧ regionOf va < 0xC ∧ capFault c [p] va len = none ∧ pageOf s.view va ((s.openSheaf s.cur).commitWithin s.cur) =
    .ok (some (base, size)) u)) := by
  refine ⟨⟨put [(6, lmCap 0 64)], 6, 7, .cinv 6 7, _, .load, .head _, ?_, ?_, ?_, ?_⟩,
    ⟨pageSeven, 6, 7, .cinv 6 7, _, .load, 0x40000 * 2 ^ 12, 2 ^ 30, page_there.choose, .head _, ?_, ?_, ?_, ?_, ?_, ?_, ?_,
    page_there.choose_spec⟩⟩ <;> decide +kernel

theorem hyps_PrefetchesBringTheirLineOrDoNothing :
    (∃ (s : State) (a : RegIdx) (i : Instr) (size : Nat), (i, size) ∈ [(Instr.pfL1 a, 32), (.pfL2 a, 256)] ∧ Room s ∧ Unbound
    s [a] ∧ (let c := (here s).reg a; let va := addrOf c.bits; ((capFault c ([.load] ++ regionPerms va) va 1).isSome = true ∨
    0xC ≤ regionOf va))) ∧
    (∃ (s : State) (a : RegIdx) (i : Instr) (size e l : Nat) (u w : State) (p : Place), (i, size) ∈ [(Instr.pfL1 a, 32),
    (.pfL2 a, 256)] ∧ Room s ∧ Unbound s [a] ∧ (let c := (here s).reg a; let va := addrOf c.bits; capFault c [.load] va 1 =
    none ∧
    regionOf va < 0xC ∧ leafFor s.view va .load (s.openSheaf s.cur) = .ok (e, l) u ∧ placeTranslated s.view c.bits .load va 1
    0#128 u = .ok p w ∧ pteHome e < 2 ∧ spaceOf p.loc = .hbm ∧ p.host = false ∧ (w.remote (p.loc / size * size) = false →
    w.snoopLines (p.loc / size * size) size false = []) ∧ (w.fetchCopies (p.loc / size * size) size).readable p.key
    (p.loc / size * size) size = true)) := by
  refine ⟨⟨put [(6, makeCap 0xFFF (0xC * 2 ^ 68) (0xC * 2 ^ 68 + 8))], 6, .pfL1 6, 32, by decide +kernel⟩, ?_⟩
  obtain ⟨e, u, p, w, h1, h2, h3, h4⟩ := line_there
  simp only [lineOk, decide_eq_true_eq] at h4
  exact ⟨pageSeven, 6, .pfL1 6, 32, e.1, e.2, u, w, p, .head _, by decide +kernel, by decide +kernel, by decide +kernel,
    by decide +kernel, h1, h3, h2, h4⟩

/-! ### Registers, encodings, memory -/

theorem hyps_RegisterZeroIsHardWired : ∃ r x : RegIdx, r ≠ 0 ∧ x ≠ r := ⟨31, 0, by decide⟩

theorem hyps_EncodedInstructionsDecode : ∃ (i : Instr) (w : Nat), i.wf = true ∧ (∀ v x, i ≠ .illegalInstruction v x) ∧
    encode i = some w := ⟨.add 31 31 31 .unsigned, (encode (.add 31 31 31 .unsigned)).getD 0, by decide, nofun, by decide⟩

theorem hyps_DecodedWordsEncode : (∃ w : Nat, w < 2 ^ 32 ∧ w % 2 = 1) ∧ ∃ h : Nat, h < 2 ^ 16 ∧ h % 2 = 0 :=
  ⟨⟨2 ^ 32 - 1, by decide⟩, ⟨2 ^ 16 - 2, by decide⟩⟩

/-- A step that stores: the words of `st.d`, at a slot's program counter. -/
def storing : State := code [(4, .stD 6 5 0#15)]

theorem next_of {o : Host.Outcome State Fault Refusal} (h : (match o with | .next _ => true | _ => false) = true) :
    ∃ t, o = .next t := by
  split at h
  · exact ⟨_, rfl⟩
  · cases h

theorem hyps_MemoryStaysCanonical : ∃ s t : State, Memory.wf s.mem = true ∧ s.mem ≠ [] ∧ step s = .next t :=
  let ⟨t, h⟩ := next_of (o := step storing) (by decide +kernel)
  ⟨storing, t, by decide +kernel, by decide +kernel, h⟩

end Sys2Proof.Tests
end

section
/-! SUPPORT. How an instruction of either length ends whose effects are on the registers of its slot alone, or that traps before
it has any. -/

namespace Sys2Proof.Machine
open Sys2Proof.Says

@[simp] theorem Ctx.raiseFlags_zero (c : Ctx) : c.raiseFlags 0#6 = c := by simp [Ctx.raiseFlags]

@[simp] theorem State.modCtx_id (s : State) (k : SlotId) : s.modCtx k id = s := State.modSlot_eq_self s k rfl

theorem State.windowsHeld_openSheaf (s : State) (k : SlotId) : (s.openSheaf k).windowsHeld k = s.windowsHeld k := by
  simp [State.windowsHeld]

theorem State.windowsHeld_modCtx (s : State) (k : SlotId) (f : Ctx → Ctx) :
    (s.modCtx k f).windowsHeld k = s.windowsHeld k := by
  simp [State.windowsHeld]

section
variable {s : State} {len : Nat} {act : Act After}

/-- An act that leaves the sheaf's held effects alone completes, and the slot goes on. -/
theorem State.perform_go {t : State} {g : Go} (room : Room s) (w : t.windowsHeld s.cur ≤ s.windowsHeld s.cur)
    (h : act (s.openSheaf s.cur) = .ok (.go g) t) : s.perform len act = t.advance s.cur len g := by
  simp [State.perform, State.endFull_room room, h, State.finish_go w]

/-- A trap before any effect is taken as it stands (R279). -/
theorem State.perform_trap {c : Nat} {v w : Q} (room : Room s)
    (h : act (s.openSheaf s.cur) = .error (.trap c v w) (s.openSheaf s.cur)) : s.perform len act = trapped s len c v w := by
  simp [State.perform, State.endFull_room room, h, State.stopped, trapped]

/-- An act that changes registers alone completes with that change. -/
theorem State.perform_modCtx {f : Ctx → Ctx} {g : Go} (room : Room s)
    (h : act (s.openSheaf s.cur) = .ok (.go g) ((s.openSheaf s.cur).modCtx s.cur f)) :
    s.perform len act = did s len (fun t => t.modCtx s.cur f) g :=
  State.perform_go room (by rw [State.windowsHeld_modCtx, State.windowsHeld_openSheaf]) h

/-- An act that puts a result into the registers completes with it. -/
theorem State.perform_result {r : Result} (room : Room s)
    (h : act (s.openSheaf s.cur) = .ok (.go .seq) ((s.openSheaf s.cur).modCtx s.cur r.put)) :
    s.perform len act = ran s len r.put := State.perform_modCtx room h

end

end Sys2Proof.Machine
end

section
/-! SUPPORT. The integer instructions (R95 to R102): what their shared shapes come to, that the values which the model
computes are those of the rules, and the obligations O2 and O3. -/

namespace Sys2Proof.Machine
open Sys2Proof.Says

/-! ### The shared shapes of the integer instructions (R91) -/

/-- A result that sets no flag only writes its register. -/
theorem Result.put_data (len : Nat) (uses : List RegIdx) (d : RegIdx) (v : Reg) :
    Result.put ⟨len, uses, d, v, 0#6⟩ = fun c => c.setReg d v := by
  funext c
  simp [Result.put]

/-- The result of an instruction whose value, with its flags, is written by wr64. -/
def wr64Result (len : Nat) (uses : List RegIdx) (d : RegIdx) (v : Int × Flags) : Result :=
  ⟨len, uses, d, Reg.data (wr64 v.1), v.2⟩

section
variable {s : State} {len : Nat} {uses : List RegIdx} {d a b : RegIdx} {r : Result}

/-- The result lists the registers that are read and written once each, also where d is read too. -/
theorem binary_completes {f : Q → Q → Int × Flags} (room : Room s)
    (e : r = wr64Result len uses d (f ((here s).reg a).bits ((here s).reg b).bits)) (u : Unbound s r.uses)
    (sub : [d, a, b] ⊆ uses := by simp) :
    (.next (s.perform len (binary d a b f)) : Host.Outcome State Fault Refusal) = .next (ran s r.len r.put) := by
  subst e
  obtain ⟨hd, ha, hb⟩ : s.streamed d = false ∧ s.streamed a = false ∧ s.streamed b = false := by
    simpa using fun x m => u x (sub m)
  refine congrArg _ (State.perform_result room ?_)
  rw [binary_run (by simpa) (by simpa) (by simpa), State.openSheaf_cur, State.openSheaf_ctx]
  rfl

theorem unary_completes {f : Q → Int × Flags} (room : Room s)
    (e : r = wr64Result len uses d (f ((here s).reg a).bits)) (u : Unbound s r.uses)
    (sub : [d, a] ⊆ uses := by simp) :
    (.next (s.perform len (unary d a f)) : Host.Outcome State Fault Refusal) = .next (ran s r.len r.put) := by
  subst e
  obtain ⟨hd, ha⟩ : s.streamed d = false ∧ s.streamed a = false := by simpa using fun x m => u x (sub m)
  refine congrArg _ (State.perform_result room ?_)
  rw [unary_run (by simpa) (by simpa), State.openSheaf_cur, State.openSheaf_ctx]
  rfl

/-- All 128 bits and the tag (R99). -/
theorem move_completes (room : Room s) (e : r = ⟨len, [d, a], d, (here s).reg a, 0#6⟩) (u : Unbound s r.uses) :
    (.next (s.perform len (move d a)) : Host.Outcome State Fault Refusal) = .next (ran s r.len r.put) := by
  subst e
  obtain ⟨hd, ha⟩ : s.streamed d = false ∧ s.streamed a = false := by simpa [Unbound] using u
  refine congrArg _ (State.perform_result room ?_)
  rw [move_run (by simpa) (by simpa), State.openSheaf_cur, State.openSheaf_ctx, Result.put_data]
  rfl

/-- All 128 bits, with tag 0 (R102). -/
theorem combine_completes {f : Q → Q → Q} (room : Room s)
    (e : r = ⟨len, [d, a, b], d, Reg.data (f ((here s).reg a).bits ((here s).reg b).bits), 0#6⟩) (u : Unbound s r.uses) :
    (.next (s.perform len (combine d a b f)) : Host.Outcome State Fault Refusal) = .next (ran s r.len r.put) := by
  subst e
  obtain ⟨hd, ha, hb⟩ : s.streamed d = false ∧ s.streamed a = false ∧ s.streamed b = false := by simpa [Unbound] using u
  refine congrArg _ (State.perform_result room ?_)
  rw [combine_run (by simpa) (by simpa) (by simpa), State.openSheaf_cur, State.openSheaf_ctx, Result.put_data]
  rfl

/-- A division by another value than 0 (R96). -/
theorem divide_completes {f : Q → Q → Int} {v : Int} {op : Nat} (room : Room s)
    (h : (if (n64 ((here s).reg b).bits : Int) = 0 then none else some (mod64 len [d, a, b] d v)) = some r)
    (e : v = f ((here s).reg a).bits ((here s).reg b).bits) (u : Unbound s r.uses) :
    (.next (s.perform len (divide d a b op f)) : Host.Outcome State Fault Refusal) = .next (ran s r.len r.put) := by
  obtain ⟨nonzero, hr⟩ := Option.ite_none_left_eq_some.1 h
  cases hr
  subst e
  obtain ⟨hd, ha, hb⟩ : s.streamed d = false ∧ s.streamed a = false ∧ s.streamed b = false := by
    simpa [mod64, Unbound] using u
  refine congrArg _ (State.perform_result room ?_)
  rw [divide_run (by simpa) (by simpa) (by simpa) (by simpa [here] using nonzero), State.openSheaf_cur, State.openSheaf_ctx,
    mod64, Result.put_data]
  rfl

theorem constant_completes {v : Int} (room : Room s) (e : r = wr64Result len [d] d (plain v)) (u : Unbound s r.uses) :
    (.next (s.perform len (constant d v)) : Host.Outcome State Fault Refusal) = .next (ran s r.len r.put) := by
  subst e
  have hd : s.streamed d = false := by simpa [wr64Result, Unbound] using u
  refine congrArg _ (State.perform_result room ?_)
  rw [constant_run (by simpa), State.openSheaf_cur]
  simp [wr64Result, plain, Result.put_data]

end

/-! ### Values in a doubleword (R51, R91) -/

theorem wr64_toInt (v : D) : wr64 v.toInt = wrD v := by simp [wr64, wrD]

theorem d64_signExtend {w : Nat} (imm : BitVec w) : d64 (imm.signExtend 128) = imm.signExtend 64 := by
  ext i hi
  simp [d64, BitVec.getElem_signExtend, show i < 128 by omega]

theorem s64_signExtend {w : Nat} (h : w ≤ 64) (imm : BitVec w) : s64 (imm.signExtend 128) = imm.toInt := by
  rw [s64, d64_signExtend, BitVec.toInt_signExtend_of_le h]

theorem n64_signExtend {w : Nat} (imm : BitVec w) : n64 (imm.signExtend 128) = (imm.signExtend 64).toNat := by
  rw [n64, d64_signExtend]

/-- A number below 2^63 is written as it stands. -/
theorem wr64_of_lt {n : Nat} (h : n < 2 ^ 63) : wr64 n = BitVec.ofNat 128 n := by
  have hm : (BitVec.ofNat 64 n).msb = false := by
    rw [BitVec.msb_eq_false_iff_two_mul_lt, BitVec.toNat_ofNat]; omega
  rw [wr64, BitVec.ofInt_natCast, BitVec.signExtend_eq_setWidth_of_msb_false hm]
  apply BitVec.eq_of_toNat_eq
  simp only [BitVec.toNat_setWidth, BitVec.toNat_ofNat]
  omega

theorem signed_ofNat {w : Nat} (hw : 0 < w) (n : Nat) : signed w n = (BitVec.ofNat w n).toInt := by
  obtain ⟨w, rfl⟩ := Nat.exists_eq_succ_of_ne_zero hw.ne'
  simp only [signed, BitVec.toInt, BitVec.toNat_ofNat, Nat.succ_sub_one, Nat.pow_succ, Nat.succ_eq_add_one]
  split_ifs <;> omega

theorem ofNat_bits_low {w : Nat} (h : w ≤ 64) (x : Q) : BitVec.ofNat w (bits x 0 w) = (d64 x).setWidth w := by
  apply BitVec.eq_of_toNat_eq
  simp [bits, d64, Nat.mod_mod_of_dvd _ (Nat.pow_dvd_pow 2 h)]

theorem toInt_simm6 (imm : BitVec 6) : (simm6 imm).toInt = imm.toInt := BitVec.toInt_signExtend_of_le (by decide)

/-! ### Results under the modifiers (R95) -/

theorem clamp_above {lo hi v : Int} (l : lo ≤ hi) (h : v > hi) : clamp lo hi v = (hi, true) := by
  rw [clamp, if_neg (by omega), if_pos h]

theorem clamp_below {lo hi v : Int} (h : v < lo) : clamp lo hi v = (lo, true) := if_pos h

theorem clamp_inside {lo hi v : Int} (l : ¬v > hi) (h : ¬v < lo) : clamp lo hi v = (v, false) := by
  rw [clamp, if_neg h, if_neg l]

theorem clampSigned_64 (v : Int) : clampSigned 64 v = clamp (-(2 ^ 63)) (2 ^ 63 - 1) v := by
  rw [clampSigned, Nat.cast_pow, Nat.cast_ofNat]

theorem clampUnsigned_64 (v : Int) : clampUnsigned 64 v = clamp 0 (2 ^ 64 - 1) v := by
  rw [clampUnsigned, Nat.cast_pow, Nat.cast_ofNat]

theorem sat_eq (len : Nat) (uses : List RegIdx) (d : RegIdx) (v w : Int) :
    sat len uses d v = wr64Result len uses d (saturate .signed v w) := by
  rw [sat, saturate, clampSigned_64]
  split_ifs with above below
  · rw [clamp_above (by omega) above]; rfl
  · rw [clamp_below below]; rfl
  · rw [clamp_inside above below]; rfl

theorem satn_eq (len : Nat) (uses : List RegIdx) (d : RegIdx) (v w : Int) :
    satn len uses d v = wr64Result len uses d (saturate .unsigned w v) := by
  rw [satn, saturate, clampUnsigned_64]
  split_ifs with above below
  · rw [clamp_above (by omega) above]; rfl
  · rw [clamp_below below]; rfl
  · rw [clamp_inside above below]; rfl

theorem byMode_eq (m : SatMode) (uses : List RegIdx) (d : RegIdx) (sv uv : Int) :
    byMode m uses d sv uv = wr64Result 4 uses d (saturate m sv uv) := by
  cases m with
  | wrap => rfl
  | signed => exact sat_eq 4 uses d sv uv
  | unsigned => exact satn_eq 4 uses d uv sv

theorem mod64_eq {len : Nat} {uses : List RegIdx} {d : RegIdx} {v w : Int} (h : v = w) :
    mod64 len uses d v = wr64Result len uses d (plain w) := by rw [h]; rfl

/-- R95, R100: `add`, `sub` and `mul` under their modifiers, then the forms that wrap or saturate as signed, then the
forms on d itself and on immediates. -/
theorem arithmetic_completes : ArithmeticResults := by
  intro s i r room h u
  unfold arithmetic at h
  split at h <;> cases h
  -- add, sub, mul
  case h_1 | h_2 | h_3 => exact binary_completes room (byMode_eq ..) u
  -- neg and abs, wrapping
  case h_4 | h_6 => exact unary_completes room rfl u
  -- neg and abs, saturating
  case h_5 | h_7 => exact unary_completes room (sat_eq ..) u
  -- mulh, mulhn, min, max
  case h_8 | h_9 | h_10 | h_11 => exact binary_completes room rfl u
  -- minn, maxn
  case h_12 => exact binary_completes room (mod64_eq (by simp [minnOf])) u
  case h_13 => exact binary_completes room (mod64_eq (by simp [maxnOf])) u
  -- addi
  case h_14 => exact unary_completes room (mod64_eq (by simp [s64_signExtend])) u
  -- add16, sub16
  case h_15 | h_16 => exact binary_completes room rfl u
  -- addi16
  case h_17 => exact unary_completes room (mod64_eq (by simp [s64_signExtend, toInt_simm6])) u
  -- movi, movi16
  case h_18 | h_19 => exact constant_completes room rfl u
  -- movhi
  case h_20 => exact unary_completes room (mod64_eq (by simp)) u

/-! ### Results given as a doubleword, a number or an integer -/

theorem out64_word {len : Nat} {uses : List RegIdx} {d : RegIdx} {v w : D} (h : w = v) :
    out64 len uses d v = wr64Result len uses d (word w) := by
  rw [h, out64, ← wr64_toInt]
  rfl

theorem out64_plain {len : Nat} {uses : List RegIdx} {d : RegIdx} {v : D} {w : Int} (h : BitVec.ofInt 64 w = v) :
    out64 len uses d v = wr64Result len uses d (plain w) := by
  rw [← h]
  rfl

theorem out64_count {len : Nat} {uses : List RegIdx} {d : RegIdx} {v : D} {n : Nat} (h : BitVec.ofNat 64 n = v) :
    out64 len uses d v = wr64Result len uses d (count n) := out64_plain ((BitVec.ofInt_natCast 64 n).trans h)

/-! ### Logic and shifts (R97) -/

theorem oneBit_eq (y : Q) : oneBit y = if n64 y < 64 then bitAt (n64 y) else 0#64 := rfl

theorem bsetOf_eq (x y : Q) : bsetOf x y = if n64 y < 64 then d64 x ||| bitAt (n64 y) else d64 x := by
  rw [bsetOf, oneBit_eq]
  split_ifs <;> simp

theorem bclrOf_eq (x y : Q) : bclrOf x y = if n64 y < 64 then d64 x &&& ~~~bitAt (n64 y) else d64 x := by
  rw [bclrOf, oneBit_eq]
  split_ifs
  · rfl
  · rw [BitVec.not_zero, BitVec.and_allOnes]

theorem bflipOf_eq (x y : Q) : bflipOf x y = if n64 y < 64 then d64 x ^^^ bitAt (n64 y) else d64 x := by
  rw [bflipOf, oneBit_eq]
  split_ifs <;> simp

theorem ofNat_shlOf (x y : Q) : BitVec.ofNat 64 (shlOf x y) = shl (d64 x) (n64 y) := by
  unfold shlOf shl
  split_ifs with h
  · apply BitVec.eq_of_toNat_eq
    rw [BitVec.toNat_ofNat, BitVec.toNat_shiftLeft, Nat.shiftLeft_eq, n64]
  · rfl

theorem ofNat_shrOf (x y : Q) : BitVec.ofNat 64 (shrOf x y) = shr (d64 x) (n64 y) := by
  unfold shrOf shr
  split_ifs with h
  · rw [n64, ← Nat.shiftRight_eq_div_pow, ← BitVec.toNat_ushiftRight, BitVec.ofNat_toNat, BitVec.setWidth_eq]
  · rfl

theorem ofInt_sarOf (x y : Q) : BitVec.ofInt 64 (sarOf x y) = (d64 x).sshiftRight (Nat.min (n64 y) 63) := by
  rw [sarOf, s64, ← Int.shiftRight_eq_div_pow, ← BitVec.toInt_sshiftRight, BitVec.ofInt_toInt]

/-- R97, R100: a form on immediates computes as the form on registers does. -/
theorem logic_completes : LogicAndShiftResults := by
  intro s i r room h u
  unfold logic at h
  split at h <;> cases h
  -- and, or, xor, rotl, and16, or16, xor16
  case h_1 | h_2 | h_3 | h_8 | h_18 | h_19 | h_20 => exact binary_completes room (out64_word rfl) u
  -- not
  case h_4 => exact unary_completes room (out64_word rfl) u
  -- shl, shl16; shr, shr16; sar
  case h_5 | h_21 => exact binary_completes room (out64_count (ofNat_shlOf ..)) u
  case h_6 | h_22 => exact binary_completes room (out64_count (ofNat_shrOf ..)) u
  case h_7 => exact binary_completes room (out64_plain (ofInt_sarOf ..)) u
  -- bset, bclr, bflip
  case h_9 => exact binary_completes room (out64_word (bsetOf_eq ..)) u
  case h_10 => exact binary_completes room (out64_word (bclrOf_eq ..)) u
  case h_11 => exact binary_completes room (out64_word (bflipOf_eq ..)) u
  -- andi, ori, xori
  case h_12 => exact unary_completes room (out64_word (by rw [andOf, d64_signExtend])) u
  case h_13 => exact unary_completes room (out64_word (by rw [orOf, d64_signExtend])) u
  case h_14 => exact unary_completes room (out64_word (by rw [xorOf, d64_signExtend])) u
  -- shli, shri, sari
  case h_15 => exact unary_completes room (out64_count (by rw [ofNat_shlOf, n64_signExtend])) u
  case h_16 => exact unary_completes room (out64_count (by rw [ofNat_shrOf, n64_signExtend])) u
  case h_17 => exact unary_completes room (out64_plain (by rw [ofInt_sarOf, n64_signExtend])) u

/-! ### Counts (R97) -/

theorem bitLength_of_lt {w n : Nat} (h : n < 2 ^ w) : bitLength (w + 1) n = bitLength w n := by
  induction w generalizing n with
  | zero => simp [bitLength, show n = 0 by omega]
  | succ w ih => rw [bitLength, ih (by omega)]; rfl

theorem bitLength_of_le {w n : Nat} (h : 2 ^ w ≤ n) : bitLength (w + 1) n = w + 1 := by
  induction w generalizing n with
  | zero => simp [bitLength, show n ≠ 0 by omega]
  | succ w ih =>
    have : n ≠ 0 := by have := Nat.two_pow_pos (w + 1); omega
    rw [bitLength, ih (by omega), if_neg this, Nat.add_comm]

/-- The zeros above the highest 1 of a number below 2^w, and its length, make up w. -/
theorem takeWhile_zeros_add_bitLength {w n : Nat} (h : n < 2 ^ w) :
    ((List.range w).reverse.takeWhile fun i => !n.testBit i).length + bitLength w n = w := by
  induction w with
  | zero => rfl
  | succ w ih =>
    rw [List.range_succ, List.reverse_concat]
    rcases Nat.lt_or_ge n (2 ^ w) with hn | hn
    · rw [List.takeWhile_cons_of_pos (by simp [Nat.testBit_lt_two_pow hn]), List.length_cons, bitLength_of_lt hn]
      have := ih hn
      omega
    · rw [List.takeWhile_cons_of_neg (by simp [Nat.testBit_of_two_pow_le_and_two_pow_add_one_gt hn h]),
        List.length_nil, bitLength_of_le hn, Nat.zero_add]

theorem zerosBefore_eq (x : D) (l : List Nat) : zerosBefore x l = (l.takeWhile fun i => !x.toNat.testBit i).length := rfl

theorem clzOf_eq_zerosBefore (x : Q) : (clzOf x : Int) = zerosBefore (d64 x) (List.range 64).reverse := by
  have := takeWhile_zeros_add_bitLength (d64 x).isLt
  rw [zerosBefore_eq, clzOf, n64]
  omega

theorem trailing_eq_takeWhile (w n : Nat) : trailing w n = ((List.range w).takeWhile fun i => !n.testBit i).length := by
  induction w generalizing n with
  | zero => rfl
  | succ w ih =>
    rw [trailing, List.range_succ_eq_map, ih]
    split_ifs with h
    · rw [List.takeWhile_cons_of_neg (by simp [Nat.testBit_zero, h]), List.length_nil]
    · rw [List.takeWhile_cons_of_pos (by simp [Nat.testBit_zero, h]), List.takeWhile_map, List.length_cons,
        List.length_map, Nat.add_comm]
      simp only [Function.comp_def, Nat.testBit_succ]

theorem ctzOf_eq_zerosBefore (x : Q) : (ctzOf x : Int) = zerosBefore (d64 x) (List.range 64) := by
  rw [zerosBefore_eq, ctzOf, trailing_eq_takeWhile, n64]

theorem sum_bits_eq_length_filter (n : Nat) (l : List Nat) :
    (l.map fun i => n / 2 ^ i % 2).sum = (l.filter n.testBit).length := by
  induction l with
  | nil => rfl
  | cons i l ih =>
    rw [List.map_cons, List.sum_cons, ih, List.filter_cons]
    have hb : n.testBit i = true ↔ n / 2 ^ i % 2 = 1 := by simp [Nat.testBit_eq_decide_div_mod_eq]
    split_ifs with h <;> rw [hb] at h
    · rw [h, List.length_cons, Nat.add_comm]
    · rw [Nat.mod_two_ne_one.1 h, Nat.zero_add]

theorem upFrom_eq_range' (a n : Nat) : upFrom a n = List.range' a n := by
  induction n generalizing a with
  | zero => rfl
  | succ n ih => rw [upFrom, ih, List.range'_succ]

theorem popcOf_eq_length_filter (x : Q) : popcOf x = ((List.range 64).filter (d64 x).getLsbD).length := by
  rw [popcOf, upFrom_eq_range', ← List.range_eq_range', sum_bits_eq_length_filter]
  rfl

theorem brevOf_eq (x : Q) : brevOf x = BitVec.ofFnLE fun i : Fin 64 => (d64 x).getLsbD (63 - i.val) := by
  ext i hi
  rw [BitVec.getElem_ofFnLE, brevOf, ← BitVec.getLsbD_eq_getElem, BitVec.getLsbD_reverse, BitVec.getMsbD]
  simp [hi]

/-! ### Bit fields (R98) -/

theorem getElem_ofNat (n : Nat) {i : Nat} (hi : i < 64) : (BitVec.ofNat 64 n)[i] = n.testBit i := by
  rw [← BitVec.getLsbD_eq_getElem, BitVec.getLsbD_ofNat, decide_eq_true hi, Bool.true_and]

theorem ofNat_bextOf (x y : Q) : BitVec.ofNat 64 (bextOf x y) =
    BitVec.ofFnLE fun i : Fin 64 => decide (i.val < fieldLen y) && (d64 x).getLsbD (fieldPos y + i.val) := by
  ext i hi
  rw [BitVec.getElem_ofFnLE, getElem_ofNat, bextOf, Nat.testBit_mod_two_pow, Nat.testBit_div_two_pow, Nat.add_comm]
  rfl

theorem testBit_field (pos len i : Nat) :
    (2 ^ pos * (2 ^ len - 1)).testBit i = decide (pos ≤ i ∧ i < pos + len) := by
  rw [Nat.testBit_two_pow_mul, Nat.testBit_two_pow_sub_one, ← Bool.decide_and]
  exact decide_eq_decide.2 (by omega)

theorem binsOf_eq_inserted (x y d : Q) : binsOf x y d = inserted (fieldPos y) (fieldLen y) (d64 x) (d64 d) := by
  ext i hi
  rw [inserted, BitVec.getElem_ofFnLE]
  simp only [binsOf, BitVec.getElem_or, BitVec.getElem_and, BitVec.getElem_not, getElem_ofNat, testBit_field,
    Nat.testBit_mul_two_pow]
  split_ifs with h
  · simp [h, n64, BitVec.getLsbD]
  · simp [h, BitVec.getLsbD_eq_getElem hi]

/-- `bins`, which reads d last. -/
theorem bins_completes {s : State} {d a b : RegIdx} {r : Result} (room : Room s)
    (e : r = out64 4 [d, a, b] d (binsOf ((here s).reg a).bits ((here s).reg b).bits ((here s).reg d).bits))
    (u : Unbound s r.uses) : execBins d a b s = .next (ran s r.len r.put) := by
  subst e
  obtain ⟨hd, ha, hb⟩ : s.streamed d = false ∧ s.streamed a = false ∧ s.streamed b = false := by
    simpa [out64, Unbound] using u
  refine congrArg _ (State.perform_result room ?_)
  rw [out64, Result.put_data, ← wr64_toInt]
  simp [ha, hb, hd, here]

theorem ofInt_signed {w : Nat} (hw : 0 < w) (h : w ≤ 64) (x : Q) :
    BitVec.ofInt 64 (signed w (bits x 0 w)) = ((d64 x).setWidth w).signExtend 64 := by
  rw [signed_ofNat hw, ofNat_bits_low h]
  rfl

theorem ofNat_bits {w : Nat} (h : w ≤ 64) (x : Q) : BitVec.ofNat 64 (bits x 0 w) = ((d64 x).setWidth w).setWidth 64 := by
  rw [← ofNat_bits_low h]
  apply BitVec.eq_of_toNat_eq
  simp [bits]

/-- R97, R98: counts, reversal, bit fields, and extensions of each width. -/
theorem bitwork_completes : BitFieldResults := by
  intro s i r room h u
  unfold bitwork at h
  split at h <;> cases h
  -- clz, ctz, popc, brev
  case h_1 => exact unary_completes room (mod64_eq (clzOf_eq_zerosBefore ..).symm) u
  case h_2 => exact unary_completes room (mod64_eq (ctzOf_eq_zerosBefore ..).symm) u
  case h_3 => exact unary_completes room (mod64_eq (congrArg _ (popcOf_eq_length_filter ..).symm)) u
  case h_4 => exact unary_completes room (out64_word (brevOf_eq ..)) u
  -- bext, bins
  case h_5 => exact binary_completes room (out64_count (ofNat_bextOf ..)) u
  case h_6 => exact bins_completes room (by rw [binsOf_eq_inserted]; rfl) u
  -- sext, zext
  case h_7 | h_8 | h_9 => exact unary_completes room (out64_plain (ofInt_signed (by decide) (by decide) _)) u
  case h_10 | h_11 | h_12 => exact unary_completes room (out64_count (ofNat_bits (by decide) _)) u

/-! ### Compares (R101) -/

theorem ofBits_ten (a b c d e f g h i j : Bool) : relationBits.ofBits [a, b, c, d, e, f, g, h, i, j] =
    a.toNat + b.toNat * 2 ^ 1 + c.toNat * 2 ^ 2 + d.toNat * 2 ^ 3 + e.toNat * 2 ^ 4 + f.toNat * 2 ^ 5 + g.toNat * 2 ^ 6 +
      h.toNat * 2 ^ 7 + i.toNat * 2 ^ 8 + j.toNat * 2 ^ 9 := by
  simp only [relationBits.ofBits]
  omega

theorem s64_beq (x y : Q) : (s64 x == s64 y) = decide (d64 x = d64 y) := by
  rw [Bool.eq_iff_iff, beq_iff_eq, decide_eq_true_eq]
  exact BitVec.toInt_inj

theorem cmpOf_eq_ofBits (x y : Q) :
    cmpOf x y = relationBits.ofBits [decide (d64 x = d64 y), decide (d64 x ≠ d64 y), (d64 x).slt (d64 y), (d64 y).sle (d64 x),
      (d64 x).sle (d64 y), (d64 y).slt (d64 x), (d64 x).ult (d64 y), (d64 y).ule (d64 x), (d64 x).ule (d64 y),
      (d64 y).ult (d64 x)] := by
  rw [cmpOf, relations, bne, s64_beq, ofBits_ten, decide_not]
  rfl

theorem ofBits_lt (l : List Bool) : relationBits.ofBits l < 2 ^ l.length := by
  induction l with
  | nil => decide
  | cons b l ih =>
    have := b.toNat_le
    rw [relationBits.ofBits, List.length_cons, Nat.pow_succ]
    omega

theorem relationBits_eq (len : Nat) (uses : List RegIdx) (d : RegIdx) (x y : Q) :
    relationBits (d64 x) (d64 y) ⟨len, uses, d, Reg.null, 0#6⟩ = wr64Result len uses d (count (cmpOf x y)) := by
  rw [relationBits, ← cmpOf_eq_ofBits, ← wr64_of_lt]
  · rfl
  · rw [cmpOf_eq_ofBits]
    exact (ofBits_lt _).trans (Nat.pow_lt_pow_right (by decide) (show 10 < 63 by decide))

/-- R99, R101, R102: moves, compares with a register and with an immediate, predicates. -/
theorem moves_completes : MoveAndCompareResults := by
  intro s i r room h u
  unfold moves at h
  split at h <;> cases h
  -- mov, mov16
  case h_1 | h_2 => exact move_completes room rfl u
  -- cmp, cmpi
  case h_3 => exact binary_completes room (relationBits_eq ..) u
  case h_4 => exact unary_completes room (by rw [← d64_signExtend]; exact relationBits_eq ..) u
  -- pand, por, pxor
  case h_5 | h_6 | h_7 => exact combine_completes room rfl u

/-! ### Divisions (R96) -/

theorem divide_by_zero_traps {s : State} {d a b : RegIdx} {op : Nat} {f : Q → Q → Int} (room : Room s) (u : Unbound s [a, b])
    (zero : n64 ((here s).reg b).bits = 0) :
    (.next (s.perform 4 (divide d a b op f)) : Host.Outcome State Fault Refusal) =
      .next (trapped s 4 0x080 (wr64 (s64 ((here s).reg a).bits)) (q op)) := by
  obtain ⟨ha, hb⟩ : s.streamed a = false ∧ s.streamed b = false := by simpa [Unbound] using u
  refine congrArg _ (State.perform_trap room ?_)
  rw [divide_zero (by simpa) (by simpa) (by simpa [here] using zero), State.openSheaf_cur, State.openSheaf_ctx]
  rfl

/-- R96: a division by another value than 0. -/
theorem division_completes : DivisionResults := by
  intro s i r room h u
  unfold division at h
  split at h
  -- div, divn, rem, remn
  case h_1 | h_2 | h_3 | h_4 => exact divide_completes room h rfl u
  case h_5 => cases h

/-- R96: a division by 0. -/
theorem division_by_zero_traps : DivisionsByZero := by
  intro s d a b i op h room u zero
  simp only [List.mem_cons, Prod.mk.injEq, List.not_mem_nil, or_false] at h
  obtain ⟨rfl, rfl⟩ | ⟨rfl, rfl⟩ | ⟨rfl, rfl⟩ | ⟨rfl, rfl⟩ := h <;> exact divide_by_zero_traps room u zero

/-! ### The obligations -/

/-- Settles O2, family by family: each instruction has one of the shared shapes, and the value that the model computes is
the value of the rule. -/
theorem integerResults : Obligations.IntegerResults :=
  ⟨arithmetic_completes, logic_completes, bitwork_completes, moves_completes⟩

/-- Settles O3: divisions by another value than 0 complete, divisions by 0 trap. -/
theorem divisionsDivideOrTrap : Obligations.DivisionsDivideOrTrap := ⟨division_completes, division_by_zero_traps⟩

end Sys2Proof.Machine
end

section
/-! SUPPORT. Branches and jumps (R105 to R108) and hints (R109): the rules of the acts that they are made of, and the obligations
O5 and O6. -/

namespace Sys2Proof.Machine
open Sys2Proof.Says

/-! ### The acts of transfers -/

theorem ownAddr_eq (c : Ctx) : ownAddr c = (c.pc + if c.guarded.isSome then 2 else 0 : Nat) := by
  rw [ownAddr, Nat.cast_add, Nat.cast_ite]
  rfl

section
variable {s : State}

@[simp] theorem here_openSheaf (k : SlotId) : here (s.openSheaf k) = here s := by simp [here]

@[simp] theorem act_linkAfter (len : Nat) : linkAfter len s = .ok (link (here s) len) s := by
  rw [link, ownAddr_eq]
  rfl

/-- The check of a target against bounds (R107). -/
theorem decide_outside (c : Q) (t : Int) :
    decide (t < (capBounds c).1 ∨ (capBounds c).2 < t + 2) = !decide (target c t) := by
  rw [← decide_not]
  exact decide_eq_decide.2 (by omega)

/-- Inside the code capability an immediate transfer goes to its target (R106, R107). -/
theorem act_transferTo {t : Int} (h : target (here s).code.bits t) :
    transferTo t s = .ok (.go (.jump (codeAt (here s) t))) s := by
  rw [here] at h ⊢
  simp only [transferTo, act_bind, act_myCtx, decide_outside, decide_eq_true h, Bool.not_true, act_trapIf_false, act_pure]
  rfl

/-- Outside it traps (R107). -/
theorem act_transferTo_outside {t : Int} (h : ¬target (here s).code.bits t) :
    transferTo t s = .error (.trap 0x185 (q (t % 2 ^ 72).toNat) (capVal2 0 true false 2)) s := by
  rw [here] at h
  simp only [transferTo, act_bind, act_myCtx, decide_outside, decide_eq_false h, Bool.not_false, act_trapIf_true]
  rfl

/-- A jump by halfwords is a transfer from the instruction's own address (R106). -/
theorem act_jumpBy (off : Int) : jumpBy off s = transferTo (ownAddr (here s) + 2 * off) s := by
  rw [ownAddr_eq]
  rfl

/-- A branch whose bit has the value is a transfer from the instruction's own address (R105). -/
theorem act_branchIf_taken {r : RegIdx} {n : Fin 128} {pol : Bool} (off : BitVec 12) (hr : s.streamed r = false)
    (h : ((here s).reg r).bits.getLsbD n.val = pol) :
    branchIf r off n pol s = transferTo (ownAddr (here s) + 2 * off.toInt) s := by
  rw [branchIf, act_bind, act_readBits hr, ownAddr_eq]
  exact congrFun (if_pos h) s

theorem act_branchIf_untaken {r : RegIdx} {n : Fin 128} {pol : Bool} (off : BitVec 12) (hr : s.streamed r = false)
    (h : ((here s).reg r).bits.getLsbD n.val ≠ pol) : branchIf r off n pol s = .ok (.go .seq) s := by
  rw [branchIf, act_bind, act_readBits hr]
  exact congrFun (if_neg h) s

/-- A capability that a register form may jump to passes its checks (R107). -/
theorem act_checkTarget {c : Reg} (h : goodTarget c) (r : Nat) : checkTarget c r s = .ok () s := by
  obtain ⟨tagged, unsealed, executable, even, inside⟩ := h
  simp only [checkTarget, act_bind, decide_outside, decide_eq_true inside, tagged, unsealed, executable, even]
  rfl

theorem act_jumpReg {a : RegIdx} (ha : s.streamed a = false) (h : goodTarget ((here s).reg a)) :
    jumpReg a s = .ok (.go (.jump ((here s).reg a))) s := by
  rw [here] at h ⊢
  simp only [jumpReg, act_bind, act_readReg ha, act_checkTarget h, act_pure]

end

/-! ### Immediate transfers (R105, R106) -/

/-- A taken immediate transfer: the transfer, and then what it does to the registers. -/
def transferWith (t : Int) (f : Ctx → Ctx) : Act After := do
  let j ← transferTo t
  modMyCtx f
  pure j

theorem transferWith_id (t : Int) (s : State) : transferWith t id s = transferTo t s := by
  rw [transferWith, act_bind]
  cases transferTo t s with
  | ok j u => simp
  | error e u => rfl

section
variable {s : State} {i : Instr} {rs : List RegIdx} {off : Int} {f : Ctx → Ctx}

/-- A taken branch performs a transfer and nothing else. -/
theorem branchIf_immediate {r : RegIdx} {o : BitVec 12} {n : Fin 128} {pol : Bool}
    (h : (if ((here s).reg r).bits.getLsbD n.val = pol then some ([r], 2 * o.toInt, id) else none) = some (rs, off, f))
    (u : Unbound s rs) :
    branchIf r o n pol (s.openSheaf s.cur) = transferWith (ownAddr (here s) + off) f (s.openSheaf s.cur) := by
  obtain ⟨bit, h⟩ := Option.ite_none_right_eq_some.1 h
  cases h
  rw [transferWith_id, act_branchIf_taken o (by simpa [Unbound] using u) (by simpa using bit), here_openSheaf]

/-- Each immediate form performs a transfer from its own address, with its link. -/
theorem exec_immediateForm (h : immediateForm (here s) i = some (rs, off, f)) (u : Unbound s rs) :
    ∃ act, exec i s = .next (s.perform (bytesOf i) act) ∧
      act (s.openSheaf s.cur) = transferWith (ownAddr (here s) + off) f (s.openSheaf s.cur) := by
  unfold immediateForm at h
  split at h
  -- bt, bf
  case h_1 | h_2 => exact ⟨_, rfl, branchIf_immediate h u⟩
  -- jmp, jmp16
  case h_3 | h_4 =>
    cases h
    exact ⟨_, rfl, by rw [transferWith_id, act_jumpBy, here_openSheaf]⟩
  -- jal
  case h_5 off =>
    cases h
    refine ⟨_, rfl, ?_⟩
    simp only [transferWith, act_bind, act_linkAfter, act_jumpBy, here_openSheaf]
    cases transferTo (ownAddr (here s) + 2 * off.toInt) (s.openSheaf s.cur) with
    | ok j u => simp [State.streamed_low u (show (1 : RegIdx).val < 24 by decide)]
    | error e u => rfl
  case h_6 => cases h

end

/-- R105, R106, R107, R108: inside the code capability. -/
theorem immediate_transfers_go : ImmediateTransfersGoToTheirTarget := by
  intro s i rs off f room h u inside
  obtain ⟨act, run, eq⟩ := exec_immediateForm h u
  rw [run, State.perform_modCtx (f := f) room]
  rw [eq, transferWith, act_bind, act_transferTo (by simpa using inside)]
  simp

/-- R107: outside it. -/
theorem immediate_transfers_check : ImmediateTransfersCheckBounds := by
  intro s i rs off f room h u outside
  obtain ⟨act, run, eq⟩ := exec_immediateForm h u
  rw [run, State.perform_trap room]
  rw [eq, transferWith, act_bind, act_transferTo_outside (by simpa using outside)]

/-- R105: a branch that is not taken. -/
theorem untaken_branches_go_on : UntakenBranchesGoOn := by
  intro s r off n room hr
  have untaken {pol : Bool} (h : ((here s).reg r).bits.getLsbD n.val ≠ pol) :
      s.perform 4 (branchIf r off n pol) = ran s 4 id :=
    State.perform_modCtx room (by rw [act_branchIf_untaken off (by simpa using hr) (by simpa using h), State.modCtx_id])
  split_ifs with bit
  · exact congrArg _ (untaken (by rw [bit]; decide))
  · exact congrArg _ (untaken bit)

/-! ### Register transfers (R107, R108) -/

section
variable {s : State} {a d : RegIdx} {len : Nat}

theorem jumpReg_goes (room : Room s) (u : Unbound s [a]) (good : goodTarget ((here s).reg a)) :
    s.perform len (jumpReg a) = did s len id (.jump ((here s).reg a)) := by
  refine State.perform_go room (State.windowsHeld_openSheaf s s.cur).le ?_
  rw [act_jumpReg (by simpa [Unbound] using u) (by simpa using good), here_openSheaf]
  rfl

/-- The link is of the state before, so that d may be the register that is read (R108). -/
theorem jumpLink_goes (room : Room s) (u : Unbound s [a, d]) (good : goodTarget ((here s).reg a)) :
    s.perform len (jumpLink d a len) =
      did s len (fun t => t.modCtx s.cur fun c => c.setReg d (link (here s) len)) (.jump ((here s).reg a)) := by
  obtain ⟨ha, hd⟩ : s.streamed a = false ∧ s.streamed d = false := by simpa [Unbound] using u
  refine State.perform_modCtx room ?_
  rw [jumpLink, act_bind, act_linkAfter]
  simp [act_bind, act_jumpReg (s := s.openSheaf s.cur) (a := a) (by simpa using ha) (by simpa using good), hd]

end

/-- R107, R108: each register form is a jump, with or without its link. -/
theorem register_transfers_go : RegisterTransfersGoToTheirCapability := by
  intro s i a d len room h u good
  unfold registerForm at h
  split at h <;> cases h
  -- jr, jr16, ret, ret16
  case h_1 | h_2 | h_5 | h_6 => exact congrArg Host.Outcome.next (jumpReg_goes room u good)
  -- jalr, jalr16
  case h_3 | h_4 => exact congrArg Host.Outcome.next (jumpLink_goes room u good)

/-- Settles O5: every immediate form is one transfer from its own address, every register form one checked jump. -/
theorem transfersGoToTheirTarget : Obligations.TransfersGoToTheirTarget :=
  ⟨immediate_transfers_go, immediate_transfers_check, untaken_branches_go_on, register_transfers_go⟩

/-! ### Hints (R109) -/

/-- R109: `next` answers the state as it is, and `yieldTurn` sets its mark. -/
theorem hints_have_no_other_effect : Says.HintsHaveNoOtherEffect := by
  intro s room
  have nop (len : Nat) : s.perform len next = ran s len id := State.perform_modCtx room (by simp)
  have yield (len : Nat) : s.perform len yieldTurn = did s len fun t => t.modCore fun c => { c with yielded := true } :=
    State.perform_go room (State.windowsHeld_openSheaf s s.cur).le rfl
  exact ⟨congrArg Host.Outcome.next (nop 4), congrArg Host.Outcome.next (nop 2), congrArg Host.Outcome.next (yield 4),
    congrArg Host.Outcome.next (yield 2)⟩

/-! ### The slot that has waited longest (R222) -/

/-- Slot `k` is chosen before slot `j`: it has waited longer, or as long with no higher number. -/
def State.ahead (s : State) (k j : SlotId) : Prop :=
  (s.slot j).waited ≤ (s.slot k).waited ∧ ((s.slot j).waited = (s.slot k).waited → k ≤ j)

theorem longestOf_iff (s : State) (p : SlotId → Prop) (k : SlotId) :
    LongestOf s p k ↔ p k ∧ ∀ j, p j → s.ahead k j := Iff.rfl

theorem State.ahead_trans {s : State} {i j k : SlotId} (h : s.ahead i j) (g : s.ahead j k) : s.ahead i k :=
  ⟨g.1.trans h.1, fun e => (h.2 (h.1.antisymm (e ▸ g.1))).trans (g.2 (g.1.antisymm (e ▸ h.1)))⟩

/-- Of a rising list of slots `longer` finds the one that has waited longest, the lowest of equals. -/
theorem foldl_longer (s : State) (l : List SlotId) (k : SlotId) (rising : (k :: l).Pairwise (· < ·)) :
    LongestOf s (· ∈ k :: l) (l.foldl s.longer k) := by
  induction l generalizing k with
  | nil => simp [LongestOf]
  | cons j l ih =>
    obtain ⟨above, tail⟩ := List.pairwise_cons.1 rising
    rw [List.foldl_cons, State.longer]
    split_ifs with less
    · obtain ⟨mem, best⟩ := (longestOf_iff ..).1 (ih j tail)
      have behind : s.ahead j k := ⟨less.le, fun e => absurd e less.ne⟩
      exact ⟨.tail _ mem, List.forall_mem_cons.2 ⟨State.ahead_trans (best j (.head _)) behind, best⟩⟩
    · obtain ⟨mem, best⟩ := (longestOf_iff ..).1 (ih k (rising.sublist (by simp)))
      have behind : s.ahead k j := ⟨not_lt.1 less, fun _ => (above j (.head _)).le⟩
      obtain ⟨self, rest⟩ := List.forall_mem_cons.1 best
      refine ⟨?_, List.forall_mem_cons.2 ⟨self, List.forall_mem_cons.2 ⟨State.ahead_trans self behind, rest⟩⟩⟩
      exact (List.Sublist.cons_cons k (List.sublist_cons_self j l)).mem mem

/-- The slot with the largest wait is found among the slots with a property (R222). -/
theorem longest_filter {s : State} {p : SlotId → Bool} (ready : ∃ k, p k = true) :
    ∃ k, s.longest (slotIds.filter p) = some k ∧ LongestOf s (fun j => p j = true) k := by
  have mem (k : SlotId) : k ∈ slotIds.filter p ↔ p k = true := by
    rw [List.mem_filter, and_iff_right (show k ∈ slotIds by revert k; decide)]
  have rising : (slotIds.filter p).Pairwise (· < ·) := List.Pairwise.filter p (by decide)
  simp only [← mem] at ready ⊢
  cases e : slotIds.filter p with
  | nil => simp [e] at ready
  | cons k l => exact ⟨_, rfl, foldl_longer s l k (e ▸ rising)⟩

/-- Where no slot of the list has waited 61 cycles, the policy of the core alone chooses (R222). -/
theorem State.pick_of_young {s : State} {l : List SlotId} (young : ∀ k ∈ l, (s.slot k).waited < 61) :
    s.pick l = if s.core.ipol = false then
      if s.core.cur ∈ l ∧ s.core.yielded = false then some s.core.cur else s.longest l
    else nextInTurn s.core.last l := by
  have none_old : (l.filter fun k => decide (61 ≤ (s.slot k).waited)) = [] := by
    simpa [List.filter_eq_nil_iff] using young
  rw [State.pick, none_old]
  rfl

/-- The mark of `yield` is on the core alone, so the waits of the slots are as before. -/
theorem longest_yielded (s : State) : (s.modCore fun c => { c with yielded := true }).longest = s.longest := rfl

/-- With the mark the greedy slot has no precedence. -/
theorem State.pick_yielded {s : State} {l : List SlotId} (ipol : s.core.ipol = false)
    (young : ∀ k ∈ l, (s.slot k).waited < 61) :
    (s.modCore fun c => { c with yielded := true }).pick l = s.longest l := by
  have h : ∀ k ∈ l, ((s.modCore fun c => { c with yielded := true }).slot k).waited < 61 := young
  rw [State.pick_of_young h, longest_yielded]
  simp [ipol]

/-- R109: under round-robin the mark is not read; under greedy-then-oldest the slot with the largest wait is next. -/
theorem yield_gives_up_the_position : YieldsGiveUpThePosition := by
  intro s p
  refine ⟨fun ipol => ?_, fun ipol young ready => ?_⟩
  · unfold State.pick
    rw [longest_yielded, State.modCore_core, ipol]
    rfl
  · rw [State.pick_yielded ipol fun k mem => young k (List.mem_filter.1 mem).2]
    exact longest_filter ready

/-- Settles O6: the hints by the rule for acts, the choice of the next slot by what `pick` answers. -/
theorem hintsHaveNoOtherEffect : Obligations.HintsHaveNoOtherEffect :=
  ⟨hints_have_no_other_effect, yield_gives_up_the_position⟩

end Sys2Proof.Machine
end

section
/-! SUPPORT. What a commit leaves of the other slots (R164, R176): writes reach memory and the registers of system space, held
effects reach the core's own parts, and no slot but the one that commits changes. -/

namespace Sys2Proof.Machine

/-- A part of the state that each step along a list keeps is kept along the list. -/
theorem State.foldl_keeps {α β : Type} {part : State → β} {f : State → α → State} (h : ∀ s x, part (f s x) = part s)
    (l : List α) (s : State) : part (l.foldl f s) = part s := by
  induction l generalizing s with
  | nil => rfl
  | cons x l ih => rw [List.foldl_cons, ih, h]

/-! ### Writes to memory leave the core alone (R181, R305, R352, R374) -/

section
variable {s : State}

@[simp] theorem State.writeWords_core (a v n : Nat) : (s.writeWords a v n).core = s.core := by
  induction n generalizing s a v with
  | zero => rfl
  | succ n ih =>
    rw [State.writeWords, ih]
    rfl

@[simp] theorem State.ringAdvance_core (die : Nat) (r : RingRegs) : (s.ringAdvance die r).core = s.core := rfl

@[simp] theorem State.record_core (r : FaultRecord) : (s.record r).core = s.core := by
  unfold State.record State.recordAt
  dsimp only
  split_ifs
  · rfl
  · rfl
  · rw [State.ringAdvance_core, State.writeWords_core]

@[simp] theorem State.recordError_core (loc : Nat) : (s.recordError loc).core = s.core := State.record_core _

@[simp] theorem State.poke_core (loc : Nat) (data : List Byte) (tag : Bool) : (s.poke loc data tag).core = s.core := rfl

@[simp] theorem State.setLm_core (off n v : Nat) : (s.setLm off n v).core = s.core := rfl

@[simp] theorem State.setCopy_core (sec : Nat) (c : Copy) : (s.setCopy sec c).core = s.core := rfl

@[simp] theorem State.sealWrite_core (key : BitVec 10) (loc : Nat) (data : List Byte) (tag : Bool) :
    (s.sealWrite key loc data tag).core = s.core := by
  unfold State.sealWrite
  split_ifs
  · rfl
  · rfl
  · exact State.recordError_core loc

@[simp] theorem State.homeWrite_core (key : BitVec 10) (loc : Nat) (data : List Byte) (tag : Bool) (fuel : Nat) :
    (s.homeWrite key loc data tag fuel).core = s.core := by
  induction fuel generalizing s loc data with
  | zero => rfl
  | succ n ih =>
    unfold State.homeWrite
    split_ifs
    · rfl
    · rw [ih, State.sealWrite_core]

@[simp] theorem State.backSnoop_core (write : Bool) (line : Nat) : (s.backSnoop write line).core = s.core := by
  unfold State.backSnoop
  rw [State.modModule_core]
  split
  · split_ifs
    · exact State.sealWrite_core ..
    · rfl
  · rfl

@[simp] theorem State.unsnoop_core (loc n : Nat) (write : Bool) : (s.unsnoop loc n write).core = s.core :=
  State.foldl_keeps (fun _ _ => State.backSnoop_core ..) _ s

@[simp] theorem State.writeBackBytes_core (sec : Nat) (c : Copy) (l : List Nat) : (s.writeBackBytes sec c l).core = s.core := by
  induction l generalizing s with
  | nil => rfl
  | cons i l ih =>
    rw [State.writeBackBytes, ih]
    split_ifs
    · exact State.sealWrite_core ..
    · rfl

@[simp] theorem State.writeBack_core (sec : Nat) : (s.writeBack sec).core = s.core := by
  unfold State.writeBack
  dsimp only
  split_ifs <;> simp

@[simp] theorem State.writeBackAll_core : s.writeBackAll.core = s.core :=
  State.foldl_keeps (fun _ _ => State.writeBack_core _) _ s

@[simp] theorem State.evictSector_core (sec : Nat) : (s.evictSector sec).core = s.core := by
  unfold State.evictSector State.flushSector
  split_ifs <;> simp

@[simp] theorem State.flushLine_core (line : Nat) : (s.flushLine line).core = s.core :=
  State.foldl_keeps (fun _ _ => State.evictSector_core _) _ s

@[simp] theorem State.l2Room_core (loc : Nat) : (s.l2Room loc).core = s.core := by
  unfold State.l2Room
  dsimp only
  split
  · rfl
  · split
    · rw [State.tick_core, State.flushLine_core]
    · rfl

@[simp] theorem State.copyWrite_core (key : BitVec 10) (loc : Nat) (data : List Byte) (tag : Bool) (fuel : Nat) :
    (s.copyWrite key loc data tag fuel).core = s.core := by
  induction fuel generalizing s loc data with
  | zero => rfl
  | succ n ih =>
    unfold State.copyWrite
    dsimp only
    split_ifs <;> simp [ih]

/-- A write reaches memory and nothing of the core. -/
@[simp] theorem State.store_core (key : BitVec 10) (loc : Nat) (data : List Byte) (tag : Bool) :
    (s.store key loc data tag).core = s.core := by
  unfold State.store
  split
  · split_ifs
    · exact State.copyWrite_core ..
    · rw [State.homeWrite_core, State.unsnoop_core]
  · rfl

@[simp] theorem State.scheduleOnce_core (what : Instr) (detail : Detail) : (s.scheduleOnce what detail).core = s.core := by
  unfold State.scheduleOnce
  split_ifs <;> rfl

end

/-! ### The slots beside one -/

/-- The slot that issues, and every slot but `k`. -/
def State.beside (s : State) (k : SlotId) : SlotId × (SlotId → Option Slot) :=
  (s.cur, fun j => if j = k then none else some (s.slot j))

section
variable {s t : State} {k : SlotId}

theorem State.beside_iff : t.beside k = s.beside k ↔ t.cur = s.cur ∧ ∀ j, j ≠ k → t.slot j = s.slot j := by
  rw [State.beside, State.beside, Prod.mk.injEq, funext_iff]
  refine and_congr_right fun _ => forall_congr' fun j => ?_
  by_cases h : j = k <;> simp [h]

theorem State.beside_of_core (h : t.core = s.core) : t.beside k = s.beside k := by
  simp only [State.beside, State.cur, State.slot, h]

@[simp] theorem State.beside_modSlot (f : Slot → Slot) : (s.modSlot k f).beside k = s.beside k :=
  State.beside_iff.2 ⟨rfl, fun _ n => State.slot_modSlot_ne s n f⟩

@[simp] theorem State.beside_modCtx (f : Ctx → Ctx) : (s.modCtx k f).beside k = s.beside k := State.beside_modSlot _

@[simp] theorem State.beside_modSheaf (f : Sheaf → Sheaf) : (s.modSheaf k f).beside k = s.beside k := State.beside_modSlot _

@[simp] theorem State.beside_schedule (what : Instr) (detail : Detail) : (s.schedule what detail).beside k = s.beside k := rfl

@[simp] theorem State.beside_scheduleOnce (what : Instr) (detail : Detail) :
    (s.scheduleOnce what detail).beside k = s.beside k := State.beside_of_core (State.scheduleOnce_core ..)

@[simp] theorem State.beside_writeBackAll : s.writeBackAll.beside k = s.beside k :=
  State.beside_of_core State.writeBackAll_core

/-! ### What leaves at a commit (R164, R176) -/

@[simp] theorem State.beside_sentToPeer (j : SlotId) (loc : Nat) : (s.sentToPeer j loc).beside k = s.beside k := by
  unfold State.sentToPeer
  split_ifs <;> rfl

@[simp] theorem State.beside_sendStamped (m : Msg) : (s.sendStamped m).beside k = s.beside k := rfl

@[simp] theorem State.beside_releaseTo (c : CoreId) : (s.releaseTo c).beside k = s.beside k := by
  unfold State.releaseTo
  split_ifs
  · rfl
  · exact State.beside_writeBackAll

@[simp] theorem State.beside_scheduleCommand (j : SlotId) (f : Fifo) (c : Command) :
    (s.scheduleCommand j f c).beside k = s.beside k := by
  unfold State.scheduleCommand
  dsimp only
  split
  · split_ifs
    · exact State.beside_scheduleOnce ..
    · rfl
  · exact State.beside_scheduleOnce ..

@[simp] theorem State.beside_rouse : s.rouse.beside k = s.beside k := by
  refine State.foldl_keeps (part := (State.beside · k)) (fun u j => ?_) _ s
  refine State.foldl_keeps (part := (State.beside · k)) (fun u f => ?_) _ u
  split
  · split_ifs
    · exact State.beside_scheduleCommand ..
    · rfl
  · rfl

@[simp] theorem State.beside_placeTask (e : Q) (x : Queued) (j : Option SlotId) :
    (s.placeTask e x j).beside k = s.beside k := by
  unfold State.placeTask
  dsimp only
  split
  · rfl
  · exact State.beside_scheduleOnce ..

@[simp] theorem State.beside_queueRecord (rec : Nat) (kind : Fin 4) (j : Option SlotId) :
    (s.queueRecord rec kind j).beside k = s.beside k := State.beside_placeTask ..

@[simp] theorem State.beside_armChannel (rec : Nat) (on : Bool) : (s.armChannel rec on).beside k = s.beside k := by
  unfold State.armChannel State.checkChannel
  dsimp only
  split_ifs
  · exact State.beside_queueRecord ..
  all_goals rfl

theorem State.beside_applyTdec {rec n : Nat} {j : Option SlotId} (h : s.applyTdec rec n j = some t) :
    t.beside k = s.beside k := by
  unfold State.applyTdec at h
  dsimp only at h
  split at h
  · cases h
  · obtain rfl := Option.some.inj h
    rw [apply_ite (State.beside · k), State.beside_queueRecord, ite_self]
    rfl

@[simp] theorem State.beside_localTdec (j : SlotId) (rec n : Nat) : (s.localTdec j rec n).beside k = s.beside k := by
  unfold State.localTdec
  cases h : s.applyTdec rec n (some j) with
  | none => exact State.beside_of_core (State.record_core _)
  | some t => exact State.beside_applyTdec h

/-- Each held effect leaves the slots beside its own as they are. -/
theorem State.beside_leave (h : Held) : (State.leave k s h).beside k = s.beside k := by
  cases h with
  | write loc data tag key =>
    rw [State.leave, State.beside_sentToPeer]
    exact State.beside_of_core (State.store_core ..)
  | window => rfl
  | credit h n m => cases m <;> simp [State.leave]
  | command f c =>
    refine Eq.trans (b := (State.scheduleCommand (State.modSlot _ k _) k f _).beside k) rfl ?_
    rw [State.beside_scheduleCommand, State.beside_modSlot]
    cases f with
    | e7 => exact State.beside_writeBackAll
    | _ => rfl
  | message m => simp [State.leave]
  | tdec rec n => exact State.beside_localTdec ..
  | queue rec kind => exact State.beside_queueRecord ..
  | arm rec on => exact State.beside_armChannel ..
  | release => exact State.beside_writeBackAll
  | pushed p => rfl

@[simp] theorem State.beside_awaitPlace : (s.awaitPlace k).beside k = s.beside k := by
  unfold State.awaitPlace
  split_ifs
  · exact State.beside_modCtx _
  · rfl

@[simp] theorem State.beside_endSolo : s.endSolo.beside k = s.beside k := State.beside_scheduleOnce ..

@[simp] theorem State.beside_lookAtResults (j : SlotId) : (s.lookAtResults j).beside k = s.beside k := by
  refine State.foldl_keeps (part := (State.beside · k)) (fun u f => ?_) _ s
  split_ifs
  · rfl
  · exact State.beside_scheduleOnce ..

@[simp] theorem State.beside_settleHalt : s.settleHalt.beside k = s.beside k := by
  unfold State.settleHalt
  split_ifs <;> rfl

/-- A commit leaves every other slot as it is. -/
@[simp] theorem State.beside_commit : (s.commit k).beside k = s.beside k := by
  have left : (((s.slot k).sheaf.held.foldl (State.leave k) s).modSheaf k fun _ => Sheaf.empty).beside k = s.beside k := by
    rw [State.beside_modSheaf]
    exact State.foldl_keeps (part := (State.beside · k)) (fun _ h => State.beside_leave h) _ s
  have asked (u : State) : (u.modCore fun c => { c with soloAsked := c.soloAsked.filter fun j => j != k }).beside k =
      u.beside k := rfl
  unfold State.commit
  dsimp only
  rw [State.beside_settleHalt, State.beside_lookAtResults]
  split_ifs
  · rw [State.beside_endSolo, asked, State.beside_awaitPlace, left]
  · rw [asked, State.beside_awaitPlace, left]

@[simp] theorem State.beside_commitWithin : (s.commitWithin k).beside k = s.beside k := by
  rw [State.commitWithin, State.beside_modSheaf, State.beside_commit]

@[simp] theorem State.beside_openSheaf : (s.openSheaf k).beside k = s.beside k := by
  rw [State.openSheaf_eq, State.beside_modSheaf]

end

end Sys2Proof.Machine
end

section
/-! SUPPORT. Fences, maintenance of the whole of the caches, and `sheaf` (R138 to R141): the obligation O13. -/

namespace Sys2Proof.Machine
open Sys2Proof.Says

/-! ### What an ordering instruction waits for (R139, R178) -/

section
variable {s : State}

/-- No other slot holds a solo grant. -/
def State.lacksRivalSolo (s : State) (k : SlotId) : Prop := ∀ j, j ≠ k → (s.slot j).sheaf.solo = false

theorem State.acquireWaits_false {k : SlotId} (h : s.lacksRivalSolo k) : s.acquireWaits (some k) = false := by
  rw [State.acquireWaits, State.soloReads, List.any_eq_false]
  intro j _
  by_cases n : j = k
  · simp [n]
  · simp [h j n]

theorem State.lacksRivalSolo_of_beside {t : State} {k : SlotId} (e : t.beside k = s.beside k) (h : s.lacksRivalSolo k) :
    t.lacksRivalSolo k := by
  obtain ⟨-, same⟩ := State.beside_iff.1 e
  intro j n
  rw [same j n]
  exact h j n

/-- An acquire acts at once where no other slot holds a solo grant (R178). -/
theorem act_acquireAct (h : s.lacksRivalSolo s.cur) : acquireAct s = .ok () (s.acquire (some s.cur)) := by
  rw [acquireAct, State.acquireWaits_false h]
  rfl

theorem act_awaitAcquire {sc : Scope} (h : wide sc = true → s.lacksRivalSolo s.cur) : awaitAcquire sc s = .ok () s := by
  cases sc with
  | dev | sys => simp [awaitAcquire, State.acquireWaits_false (h rfl)]
  | _ => rfl

theorem act_awaitStores (h : StoresAnswered s) : awaitStores s = .ok () s := by
  obtain ⟨unsent, answered⟩ := h
  have none_mine : ¬∃ x ∈ s.module.inFlight, x.slot = s.cur := by simpa using answered
  simp [awaitStores, unsent, none_mine]

theorem act_awaitRelease {sc : Scope} (h : sc = .sys → StoresAnswered s) : awaitRelease sc s = .ok () s := by
  cases sc with
  | sys => exact act_awaitStores (h rfl)
  | _ => rfl

theorem sendsToPeers_openSheaf (k : SlotId) : (s.openSheaf k).sendsToPeers k = s.sendsToPeers k := by
  simp [State.sendsToPeers]

theorem ready_openSheaf {o : Order} (h : o.Ready s) : o.Ready (s.openSheaf s.cur) := by
  obtain ⟨solo, stores⟩ := h
  refine ⟨fun acq far => ?_, fun rel sys => ?_⟩
  · rw [State.openSheaf_cur]
    exact State.lacksRivalSolo_of_beside State.beside_openSheaf (solo acq far)
  · obtain ⟨unsent, answered⟩ := stores rel sys
    rw [StoresAnswered, State.openSheaf_cur, sendsToPeers_openSheaf, State.openSheaf_module]
    exact ⟨unsent, answered⟩

/-! ### What follows the sheaf of an ordering instruction (R139) -/

/-- A narrow scope has no effect of its own. -/
theorem ordered_narrow {sc : Scope} (h : wide sc = false) (rel acq : Bool) : ordered false sc rel acq = .go .seq := by
  cases sc with
  | dev | sys => cases h
  | _ => rfl

/-- The act of a wide scope after the commit: dirty copies written back, then clean ones dropped. -/
def orderCopies (rel acq : Bool) : Act Go := do
  if rel then modify State.writeBackAll
  if acq then acquireAct
  pure .seq

theorem ordered_wide {sc : Scope} (h : wide sc = true) (rel acq : Bool) :
    ordered false sc rel acq = .lastThen (orderCopies rel acq) := by
  cases sc with
  | dev | sys => rfl
  | _ => cases h

theorem act_orderCopies {o : Order} {g : State → State} (h : o.after = some g) (solo : o.acq = true → s.lacksRivalSolo s.cur) :
    orderCopies o.rel o.acq s = .ok .seq (g s) := by
  obtain ⟨rel, acq, sc⟩ := o
  obtain ⟨-, rfl⟩ : wide sc = true ∧ _ = g := by simpa [Order.after] using h
  have written : s.writeBackAll.beside s.cur = s.beside s.cur := State.beside_writeBackAll
  obtain ⟨same, -⟩ := State.beside_iff.1 written
  cases acq with
  | false => cases rel <;> rfl
  | true =>
    have mine := solo rfl
    have after_write : s.writeBackAll.lacksRivalSolo s.writeBackAll.cur := by
      rw [same]
      exact State.lacksRivalSolo_of_beside written mine
    cases rel with
    | false => simp [orderCopies, act_acquireAct mine]
    | true => simp [orderCopies, act_acquireAct after_write]

/-- An act that orders and nothing else: in a narrow scope it goes on; in a wide one its sheaf ends and the copies follow. -/
theorem perform_ordered {o : Order} {act : Act After} (room : Room s) (ready : o.Ready s)
    (h : act (s.openSheaf s.cur) = .ok (ordered false o.sc o.rel o.acq) (s.openSheaf s.cur)) :
    perform s act = .next (done s 4 id o.after) := by
  rw [perform_ok room h]
  cases far : wide o.sc with
  | false =>
    rw [ordered_narrow far, State.finish_go (State.windowsHeld_openSheaf s s.cur).le]
    simp [done, did, Order.after, far]
  | true =>
    have ended : ((s.openSheaf s.cur).commitWithin s.cur).beside s.cur = s.beside s.cur := by simp
    obtain ⟨same, -⟩ := State.beside_iff.1 ended
    obtain ⟨solo, -⟩ := ready
    obtain ⟨g, after⟩ : ∃ g, o.after = some g := by simp [Order.after, far]
    have runs := act_orderCopies (s := (s.openSheaf s.cur).commitWithin s.cur) after fun acq => by
      rw [same]
      exact State.lacksRivalSolo_of_beside ended (solo acq far)
    rw [ordered_wide far, after]
    simp only [State.finish, runs, done, id]

/-! ### The ordering instructions (R138, R140, R141) -/

/-- A fence that has nothing to wait for comes to what it orders. -/
theorem act_fence {o : Order} (ready : o.Ready s) :
    fence o.sc o.rel o.acq s = .ok (ordered false o.sc o.rel o.acq) s := by
  obtain ⟨rel, acq, sc⟩ := o
  obtain ⟨solo, stores⟩ := ready
  cases rel <;> cases acq
  · rfl
  · simp [fence, act_awaitAcquire (solo rfl)]
  · simp [fence, act_awaitRelease (stores rfl)]
  · simp [fence, act_awaitAcquire (solo rfl), act_awaitRelease (stores rfl)]

theorem perform_fence {o : Order} (room : Room s) (ready : o.Ready s) :
    perform s (fence o.sc o.rel o.acq) = .next (done s 4 id o.after) :=
  perform_ordered room ready (act_fence (ready_openSheaf ready))

end

/-- R138, R139, R141: every form waits for nothing and orders, a fence at its scope, the others at `.dev`. -/
theorem fences_end_their_sheaf : Says.FencesEndTheirSheafAtWideScopes := by
  intro s i o room h ready
  unfold fenceForm at h
  split at h <;> cases h
  -- fence, fsc
  case h_1 | h_2 | h_3 | h_4 => exact perform_fence room ready
  -- cinv and cwb on the whole of the caches
  case h_5 =>
    refine perform_ordered (act := do awaitAcquire .dev; pure (ordered false .dev false true)) room ready ?_
    obtain ⟨solo, -⟩ := ready_openSheaf ready
    rw [act_bind, act_awaitAcquire (solo rfl)]
    rfl
  case h_6 => exact perform_ordered (act := pure (ordered false .dev true false)) room ready rfl

/-- R140: `sheaf` does nothing, and its sheaf ends with it. -/
theorem sheaf_ends_the_sheaf : SheafEndsTheSheaf := by
  intro s room
  have ends : exec .sheaf s = .next (s.finish (s.openSheaf s.cur) s.cur 4 (.last .seq)) := perform_ok room (act_pure ..)
  rw [ends, ran, State.modCtx_id]
  rfl

/-- Settles O13: each fence comes to what it orders, and no commit gives another slot the solo grant that its acquire would
wait for. -/
theorem fencesEndTheirSheafAtWideScopes : Obligations.FencesEndTheirSheafAtWideScopes :=
  ⟨fences_end_their_sheaf, sheaf_ends_the_sheaf⟩

end Sys2Proof.Machine
end
